-- ==== Sys2Proof/Word.lean ====
section
/-! DEFINITION. The word types of the Jexak J8 and their plainest arithmetic. -/

namespace Sys2Proof

/-- A register word of one strand, an instruction word or a strand mask: 32 bits (R29, R57, R77). -/
abbrev Word := BitVec 32

/-- A 64-bit value held in a register pair, a table entry or a descriptor doubleword (R3). -/
abbrev DWord := BitVec 64

/-- One byte of byte-addressed memory (R3). -/
abbrev Byte := BitVec 8

/-- Low word of a 64-bit value: the lower-numbered register of a pair (R3). -/
abbrev lowWord (x : Nat) : Word := BitVec.ofNat 32 x

/-- High word of a 64-bit value: the higher-numbered register of a pair (R3). -/
abbrev highWord (x : Nat) : Word := BitVec.ofNat 32 (x / 2 ^ 32)

/-- The 64-bit value of a register pair (R3). -/
abbrev pairValue (lo hi : Word) : Nat := lo.toNat + 2 ^ 32 * hi.toNat

end Sys2Proof
end

