-- ==== Sys2Proof/Syntax.lean ====
section
/-! DEFINITION. The steps of the Jexak J8: one constructor per row of spec/opcode_table.json.
A row with a word carries its fields, each as wide as the encoding gives it (R86 to R89). A row without a word is an
event of the device, its host or a peer; its arguments name which unit, message, record or value the event concerns. -/

namespace Sys2Proof

/-- One whole, indivisible step of the machine (spec/95_what_each_step_holds.md). -/
inductive Instr where
  /-- `NOP` (R129). Does nothing except take one issue opportunity and void b0. -/
  | nop
  /-- `BRA` (R130). Transfers every strand to the checked B-format target. -/
  | bra (o : BitVec 16)
  /-- `BRC` (R131). Conditional branch that either transfers, falls through, faults when divergent with barrier 0, or splits with a rejoin barrier. -/
  | brc (p : BitVec 3) (s : BitVec 1) (b : BitVec 5) (o : BitVec 16)
  /-- `CALL` (R134). Writes the return address into scalar pair s(2L) and transfers to the target. -/
  | call (l : BitVec 3) (o : BitVec 16)
  /-- `RET` (R134). Transfers to the 64-bit address held in scalar pair sk. -/
  | ret (a : BitVec 7)
  /-- `JTAB` (R135). Reads a jump table without migration, checks the index and the landing PAD, and jumps. -/
  | jtab (a : BitVec 7) (b : BitVec 7)
  /-- `PAD` (R129). Landing pad with label and remote-callable bit; as an instruction it has no effect. -/
  | pad (c : BitVec 1) (l : BitVec 24)
  /-- `EXIT` (R136). Ends the selected strands, waiting first for owed flags when the whole fragment ends, and removes them from rejoin records. -/
  | exit (s : BitVec 1) (p : BitVec 3)
  /-- `TRAP` (R138). Delivers a synchronous trap to the group's handler, or faults 0x70 inside a handler or with TRAPVEC 0. -/
  | trap (n : BitVec 11)
  /-- `LOOP` (R133). Decrements scalar counter s0-s15 and branches while it is non-zero. -/
  | loop (c : BitVec 4) (o : BitVec 16)
  /-- `WINB` (R141). Sets the vector window base, either absolutely or relative to the current base. -/
  | winb (m : BitVec 1) (k : BitVec 11)
  /-- `SWINB` (R141). Sets the scalar window base, either absolutely or relative to the current base. -/
  | swinb (m : BitVec 1) (k : BitVec 11)
  /-- `LIVE` (R143). Declares the live set and the memory-split rejoin barrier, recorded by allocation index. -/
  | live (v : BitVec 7) (c : BitVec 6) (s : BitVec 6) (b : BitVec 5)
  /-- `PAUSE` (R139). Places the group in the pause class for n rc. -/
  | pause (n : BitVec 11)
  /-- `SLEEP` (R140). Suspends the group until CYC reaches the deadline held in a scalar pair. -/
  | sleep (a : BitVec 7)
  /-- `IADD` (R145). Integer add, with wrapping or signed or unsigned saturation selected by F. -/
  | iadd (d : BitVec 7) (a : BitVec 7) (b : BitVec 7) (f : BitVec 4)
  /-- `ISUB` (R145). Integer subtract, with wrapping or saturation selected by F. -/
  | isub (d : BitVec 7) (a : BitVec 7) (b : BitVec 7) (f : BitVec 4)
  /-- `IMUL` (R145). Integer multiply giving the low word or the signed or unsigned high word. -/
  | imul (d : BitVec 7) (a : BitVec 7) (b : BitVec 7) (f : BitVec 4)
  /-- `IMAD` (R146). Multiply-add into D, which is read as a third source, with optional saturation. -/
  | imad (d : BitVec 7) (a : BitVec 7) (b : BitVec 7) (f : BitVec 4)
  /-- `IMNX` (R145). Signed or unsigned integer minimum or maximum. -/
  | imnx (d : BitVec 7) (a : BitVec 7) (b : BitVec 7) (f : BitVec 4)
  /-- `ISETP` (R147). Integer compare that writes a predicate, optionally ANDed with the predicate's old bit. -/
  | isetp (p : BitVec 3) (a : BitVec 7) (b : BitVec 7) (f : BitVec 4)
  /-- `SEL` (R148). Per-strand select between a and b under a predicate. -/
  | sel (d : BitVec 7) (a : BitVec 7) (b : BitVec 7) (s : BitVec 1) (p : BitVec 3)
  /-- `IADDC` (R149). Add with carry or subtract with borrow through a predicate. -/
  | iaddc (d : BitVec 7) (a : BitVec 7) (b : BitVec 7) (s : BitVec 1) (p : BitVec 3)
  /-- `AND` (R145). Bitwise AND. -/
  | land (d : BitVec 7) (a : BitVec 7) (b : BitVec 7)
  /-- `OR` (R145). Bitwise OR. -/
  | lor (d : BitVec 7) (a : BitVec 7) (b : BitVec 7)
  /-- `XOR` (R145). Bitwise XOR. -/
  | lxor (d : BitVec 7) (a : BitVec 7) (b : BitVec 7)
  /-- `ANDN` (R145). a AND NOT b. -/
  | andn (d : BitVec 7) (a : BitVec 7) (b : BitVec 7)
  /-- `SHL` (R150). Shift left or rotate left by the value of b. -/
  | shl (d : BitVec 7) (a : BitVec 7) (b : BitVec 7) (f : BitVec 4)
  /-- `SHR` (R150). Logical or arithmetic shift right, or rotate right. -/
  | shr (d : BitVec 7) (a : BitVec 7) (b : BitVec 7) (f : BitVec 4)
  /-- `BFX` (R151). Bit-field extract (zero- or sign-extended) or insert. -/
  | bfx (d : BitVec 7) (a : BitVec 7) (b : BitVec 7) (f : BitVec 4)
  /-- `BITOP` (R152). Unary bit operation: population count, leading zeros, trailing zeros, bit reverse or byte swap. -/
  | bitop (d : BitVec 7) (a : BitVec 7) (f : BitVec 4)
  /-- `IADDI` (R153). Add a signed 11-bit immediate. -/
  | iaddi (d : BitVec 7) (a : BitVec 7) (i : BitVec 11)
  /-- `ANDI` (R153). AND with a sign-extended immediate. -/
  | andi (d : BitVec 7) (a : BitVec 7) (i : BitVec 11)
  /-- `ORI` (R153). OR with a sign-extended immediate. -/
  | ori (d : BitVec 7) (a : BitVec 7) (i : BitVec 11)
  /-- `XORI` (R153). XOR with a sign-extended immediate. -/
  | xori (d : BitVec 7) (a : BitVec 7) (i : BitVec 11)
  /-- `SHI` (R153). Shift or rotate by an immediate amount of a kind selected in the immediate. -/
  | shi (d : BitVec 7) (a : BitVec 7) (k : BitVec 2) (n : BitVec 5)
  /-- `MOVI` (R155). Writes a sign-extended 18-bit immediate. -/
  | movi (d : BitVec 7) (i : BitVec 18)
  /-- `MOVHI` (R155). Writes an 18-bit immediate into bits [31:14] and keeps bits [13:0] of D. -/
  | movhi (d : BitVec 7) (i : BitVec 18)
  /-- `ISETPI` (R154). Integer compare against an 8-bit immediate that writes a predicate. -/
  | isetpi (p : BitVec 3) (a : BitVec 7) (c : BitVec 3) (i : BitVec 8)
  /-- `FADD` (R159). FP32 add with the rounding control in F. -/
  | fadd (d : BitVec 7) (a : BitVec 7) (b : BitVec 7) (f : BitVec 4)
  /-- `FMUL` (R159). FP32 multiply with the rounding control in F. -/
  | fmul (d : BitVec 7) (a : BitVec 7) (b : BitVec 7) (f : BitVec 4)
  /-- `FFMA` (R159). FP32 fused multiply-add into D, rounded once. -/
  | ffma (d : BitVec 7) (a : BitVec 7) (b : BitVec 7) (f : BitVec 4)
  /-- `FMNX` (R160). FP32 minimum, maximum, negate, absolute value or copy-sign. -/
  | fmnx (d : BitVec 7) (a : BitVec 7) (b : BitVec 7) (f : BitVec 4)
  /-- `FSETP` (R161). FP32 compare that writes a predicate. -/
  | fsetp (p : BitVec 3) (a : BitVec 7) (b : BitVec 7) (f : BitVec 4)
  /-- `FSFU` (R162). Evaluates a special function within the stated error bounds. -/
  | fsfu (d : BitVec 7) (a : BitVec 7) (f : BitVec 4)
  /-- `FCVT` (R164). Converts one element between a format and the FP32 or INT32 pivot. -/
  | fcvt (d : BitVec 7) (a : BitVec 7) (g : BitVec 5) (r : BitVec 1) (v : BitVec 1) (f : BitVec 4)
  /-- `FCLASS` (R165). Writes the class mask of one floating-point value. -/
  | fclass (d : BitVec 7) (a : BitVec 7) (f : BitVec 4)
  /-- `HADD2` (R166). Packed FP16 add. -/
  | hadd2 (d : BitVec 7) (a : BitVec 7) (b : BitVec 7) (f : BitVec 4)
  /-- `HMUL2` (R166). Packed FP16 multiply. -/
  | hmul2 (d : BitVec 7) (a : BitVec 7) (b : BitVec 7) (f : BitVec 4)
  /-- `HFMA2` (R166). Packed FP16 fused multiply-add. -/
  | hfma2 (d : BitVec 7) (a : BitVec 7) (b : BitVec 7) (f : BitVec 4)
  /-- `BFMA2` (R166). Packed BF16 fused multiply-add. -/
  | bfma2 (d : BitVec 7) (a : BitVec 7) (b : BitVec 7) (f : BitVec 4)
  /-- `DOT4` (R167). Short packed dot product accumulated into D. -/
  | dot4 (d : BitVec 7) (a : BitVec 7) (b : BitVec 7) (f : BitVec 4)
  /-- `PCVT` (R168). Packs or unpacks one slot of a packed register under a per-strand control word. -/
  | pcvt (d : BitVec 7) (a : BitVec 7) (b : BitVec 7) (f : BitVec 4)
  /-- `MOV` (R169). Copies a value, or broadcasts between scalar and vector registers. -/
  | mov (d : BitVec 7) (a : BitVec 7) (f : BitVec 4)
  /-- `IDX` (R170). Indexed register read or write, or the strand index. -/
  | idx (d : BitVec 7) (a : BitVec 7) (b : BitVec 7) (f : BitVec 4)
  /-- `PLOP` (R171). Any function of two predicates, given by a truth table. -/
  | plop (d : BitVec 3) (a : BitVec 3) (b : BitVec 3) (f : BitVec 4)
  /-- `VOTE` (R175). Any, all, uniform, ballot or count vote over the strand mask. -/
  | vote (d : BitVec 7) (a : BitVec 7) (f : BitVec 4)
  /-- `SHFL` (R176). Gives each strand a value from another strand of the mask. -/
  | shfl (d : BitVec 7) (a : BitVec 7) (b : BitVec 7) (f : BitVec 4)
  /-- `REDUX` (R177). Reduction or scan over the strand mask. -/
  | redux (d : BitVec 7) (a : BitVec 7) (f : BitVec 4)
  /-- `PMOV` (R173). Moves between predicates and registers. -/
  | pmov (d : BitVec 7) (a : BitVec 7) (f : BitVec 4)
  /-- `PSET` (R172). Clears, sets, or sets only the first bit of a predicate. -/
  | pset (p : BitVec 3) (f : BitVec 4)
  /-- `LDB` (R184). Byte load: inline or on a flag, performed here or as a migration point. -/
  | ldb (d : BitVec 7) (a : BitVec 7) (o : BitVec 4) (f : BitVec 4)
  /-- `LDH` (R184). Halfword load. -/
  | ldh (d : BitVec 7) (a : BitVec 7) (o : BitVec 4) (f : BitVec 4)
  /-- `LDW` (R184). Word load. -/
  | ldw (d : BitVec 7) (a : BitVec 7) (o : BitVec 4) (f : BitVec 4)
  /-- `LDD` (R184). Doubleword load into a register pair. -/
  | ldd (d : BitVec 7) (a : BitVec 7) (o : BitVec 4) (f : BitVec 4)
  /-- `LDBA` (R186). Acquire byte load at a scope. -/
  | ldba (d : BitVec 7) (a : BitVec 7) (s : BitVec 3) (o : BitVec 4) (f : BitVec 4)
  /-- `LDHA` (R186). Acquire halfword load. -/
  | ldha (d : BitVec 7) (a : BitVec 7) (s : BitVec 3) (o : BitVec 4) (f : BitVec 4)
  /-- `LDWA` (R186). Acquire word load. -/
  | ldwa (d : BitVec 7) (a : BitVec 7) (s : BitVec 3) (o : BitVec 4) (f : BitVec 4)
  /-- `LDDA` (R186). Acquire doubleword load. -/
  | ldda (d : BitVec 7) (a : BitVec 7) (s : BitVec 3) (o : BitVec 4) (f : BitVec 4)
  /-- `STB` (R187). Byte store, guarded, posted or not. -/
  | stb (d : BitVec 7) (a : BitVec 7) (o : BitVec 4) (p : BitVec 1) (g : BitVec 3)
  /-- `STH` (R187). Halfword store. -/
  | sth (d : BitVec 7) (a : BitVec 7) (o : BitVec 4) (p : BitVec 1) (g : BitVec 3)
  /-- `STW` (R187). Word store. -/
  | stw (d : BitVec 7) (a : BitVec 7) (o : BitVec 4) (p : BitVec 1) (g : BitVec 3)
  /-- `STD` (R187). Doubleword store from a register pair. -/
  | std (d : BitVec 7) (a : BitVec 7) (o : BitVec 4) (p : BitVec 1) (g : BitVec 3)
  /-- `STBL` (R189). Release byte store, held until the release conditions hold. -/
  | stbl (d : BitVec 7) (a : BitVec 7) (s : BitVec 3) (o : BitVec 4) (p : BitVec 1) (g : BitVec 3)
  /-- `STHL` (R189). Release halfword store. -/
  | sthl (d : BitVec 7) (a : BitVec 7) (s : BitVec 3) (o : BitVec 4) (p : BitVec 1) (g : BitVec 3)
  /-- `STWL` (R189). Release word store. -/
  | stwl (d : BitVec 7) (a : BitVec 7) (s : BitVec 3) (o : BitVec 4) (p : BitVec 1) (g : BitVec 3)
  /-- `STDL` (R189). Release doubleword store. -/
  | stdl (d : BitVec 7) (a : BitVec 7) (s : BitVec 3) (o : BitVec 4) (p : BitVec 1) (g : BitVec 3)
  /-- `AADD` (R194). Atomic add, returning or posted. -/
  | aadd (d : BitVec 7) (a : BitVec 7) (b : BitVec 5) (s : BitVec 3) (o : BitVec 2) (p : BitVec 1)
  /-- `ASUB` (R194). Atomic subtract. -/
  | asub (d : BitVec 7) (a : BitVec 7) (b : BitVec 5) (s : BitVec 3) (o : BitVec 2) (p : BitVec 1)
  /-- `AMINS` (R194). Atomic signed minimum. -/
  | amins (d : BitVec 7) (a : BitVec 7) (b : BitVec 5) (s : BitVec 3) (o : BitVec 2) (p : BitVec 1)
  /-- `AMAXS` (R194). Atomic signed maximum. -/
  | amaxs (d : BitVec 7) (a : BitVec 7) (b : BitVec 5) (s : BitVec 3) (o : BitVec 2) (p : BitVec 1)
  /-- `AMINU` (R194). Atomic unsigned minimum. -/
  | aminu (d : BitVec 7) (a : BitVec 7) (b : BitVec 5) (s : BitVec 3) (o : BitVec 2) (p : BitVec 1)
  /-- `AMAXU` (R194). Atomic unsigned maximum. -/
  | amaxu (d : BitVec 7) (a : BitVec 7) (b : BitVec 5) (s : BitVec 3) (o : BitVec 2) (p : BitVec 1)
  /-- `AAND` (R194). Atomic AND. -/
  | aand (d : BitVec 7) (a : BitVec 7) (b : BitVec 5) (s : BitVec 3) (o : BitVec 2) (p : BitVec 1)
  /-- `AOR` (R194). Atomic OR. -/
  | aor (d : BitVec 7) (a : BitVec 7) (b : BitVec 5) (s : BitVec 3) (o : BitVec 2) (p : BitVec 1)
  /-- `AXOR` (R194). Atomic XOR. -/
  | axor (d : BitVec 7) (a : BitVec 7) (b : BitVec 5) (s : BitVec 3) (o : BitVec 2) (p : BitVec 1)
  /-- `AXCH` (R194). Atomic exchange. -/
  | axch (d : BitVec 7) (a : BitVec 7) (b : BitVec 5) (s : BitVec 3) (o : BitVec 2) (p : BitVec 1)
  /-- `ACAS` (R194). Atomic compare-and-swap with the compare value in B5 + 1. -/
  | acas (d : BitVec 7) (a : BitVec 7) (b : BitVec 5) (s : BitVec 3) (o : BitVec 2) (p : BitVec 1)
  /-- `AFADD` (R194). Atomic FP32 add. -/
  | afadd (d : BitVec 7) (a : BitVec 7) (b : BitVec 5) (s : BitVec 3) (o : BitVec 2) (p : BitVec 1)
  /-- `AFMIN` (R194). Atomic FP32 minimum. -/
  | afmin (d : BitVec 7) (a : BitVec 7) (b : BitVec 5) (s : BitVec 3) (o : BitVec 2) (p : BitVec 1)
  /-- `AFMAX` (R194). Atomic FP32 maximum. -/
  | afmax (d : BitVec 7) (a : BitVec 7) (b : BitVec 5) (s : BitVec 3) (o : BitVec 2) (p : BitVec 1)
  /-- `AINCW` (R194). Atomic increment with wrap. -/
  | aincw (d : BitVec 7) (a : BitVec 7) (b : BitVec 5) (s : BitVec 3) (o : BitVec 2) (p : BitVec 1)
  /-- `ADECW` (R194). Atomic decrement with wrap. -/
  | adecw (d : BitVec 7) (a : BitVec 7) (b : BitVec 5) (s : BitVec 3) (o : BitVec 2) (p : BitVec 1)
  /-- `STN` (R190). Word store with nibble enables. -/
  | stn (d : BitVec 7) (a : BitVec 7) (o : BitVec 4) (p : BitVec 1) (g : BitVec 3)
  /-- `STBM` (R191). Word store with bit enables, performed indivisibly at the home. -/
  | stbm (d : BitVec 7) (a : BitVec 7) (b : BitVec 7) (p : BitVec 1) (g : BitVec 3)
  /-- `MIGR_CORE` (R198). Migrates the group to the core named in a scalar. -/
  | migrCore (a : BitVec 7)
  /-- `MIGR_ADDR` (R198). Migrates to the arrival core of the leading address. -/
  | migrAddr (a : BitVec 7)
  /-- `MIGR_LAUNCH` (R198). Migrates back to the launch core of the group's launch slot. -/
  | migrLaunch
  /-- `HOME` (R200). Reports the home, arrival core and page state of each strand's address. -/
  | home (d : BitVec 7) (a : BitVec 7)
  /-- `REJOIN` (R201). Waits for owed flags, returns to the anchor core and arrives at the rejoin record. -/
  | rejoin (b : BitVec 5)
  /-- `BAR_ARRIVE` (R203). Arrives at a named barrier, with an optional count. -/
  | barArrive (s : BitVec 3) (i : BitVec 5) (b : BitVec 7) (c : BitVec 1)
  /-- `BAR_WAIT` (R203). Waits for the generation of the group's token to complete. -/
  | barWait (s : BitVec 3) (i : BitVec 5) (b : BitVec 7) (c : BitVec 1)
  /-- `BAR_SYNC` (R203). Arrives at a barrier, then waits for its generation to complete. -/
  | barSync (s : BitVec 3) (i : BitVec 5) (b : BitVec 7) (c : BitVec 1)
  /-- `BAR_INIT` (R203). Sets the initial and current count of a named barrier. -/
  | barInit (s : BitVec 3) (i : BitVec 5) (b : BitVec 7) (c : BitVec 1)
  /-- `BARRIER_ARRIVAL_MESSAGE` (R39). An arrival made away from the team anchor core reaches that core and is counted. -/
  | barrierArrivalMessage (m : Nat)
  /-- `FENCE` (R206). Orders earlier and later accesses, and optionally tile moves, at a scope. -/
  | fence (s : BitVec 3) (t : BitVec 1) (m : BitVec 2)
  /-- `LJOIN` (R226). Joins a value into a cell of the local lattice replica. -/
  | ljoin (a : BitVec 7) (b : BitVec 7) (t : BitVec 4)
  /-- `LJOINR` (R226). Joins a value into a cell and returns the cell's old value. -/
  | ljoinr (d : BitVec 7) (a : BitVec 7) (b : BitVec 7) (t : BitVec 4)
  /-- `LLD` (R227). Reads a cell of the local replica. -/
  | lld (d : BitVec 7) (a : BitVec 7) (o : BitVec 4) (t : BitVec 4)
  /-- `LLDW` (R228). Waits until every strand's cell passes its threshold, then reads the cells. -/
  | lldw (d : BitVec 7) (a : BitVec 7) (b : BitVec 7) (t : BitVec 4)
  /-- `LSTX` (R229). Monotone store that faults 0x30 if any value lies below its cell. -/
  | lstx (d : BitVec 7) (a : BitVec 7) (o : BitVec 4) (t : BitVec 4)
  /-- `LFLUSH` (R230). Sends changed cells to every replica and waits for their acknowledgements. -/
  | lflush (a : BitVec 7) (t : BitVec 4)
  /-- `LEPOCH` (R231). Returns the epoch up to which this replica reflects every join. -/
  | lepoch (d : BitVec 7) (a : BitVec 7) (t : BitVec 4)
  /-- `RCALL` (R210). Sends a new remote call to the executor of the leading address and sets its flag. -/
  | rcall (h : BitVec 2) (r : BitVec 5) (l : BitVec 2) (a : BitVec 5) (p : BitVec 5) (e : BitVec 4)
  /-- `RCALL_RETRY` (R220). Resends the call outstanding on the flag, with its recorded sequence number. -/
  | rcallRetry (h : BitVec 2) (r : BitVec 5) (l : BitVec 2) (a : BitVec 5) (p : BitVec 5) (e : BitVec 4)
  /-- `RRET` (R215). Ends a visitor: waits for its accesses, sends the reply and frees the slot. -/
  | rret (a : BitVec 7)
  /-- `RSTAT` (R221). Reads the state of the call recorded on a flag. -/
  | rstat (d : BitVec 7) (f : BitVec 4)
  /-- `TMOVE` (R238). Checks a tile-move descriptor, sets its flag, writes the promise and hands the move to an engine. -/
  | tmove (d : BitVec 7) (a : BitVec 7) (f : BitVec 4)
  /-- `TSTAT` (R243). Reads the status word of the move recorded on a flag. -/
  | tstat (d : BitVec 7) (f : BitVec 4)
  /-- `TSTAT_PROM` (R243). Reads the promised completion time of the move recorded on a flag. -/
  | tstatProm (d : BitVec 7) (f : BitVec 4)
  /-- `MLDW` (R248). Loads a weight tile into the shadow plane. -/
  | mldw (a : BitVec 7) (b : BitVec 7) (f : BitVec 4)
  /-- `MSWAP` (R249). Exchanges the active and shadow planes and their tags. -/
  | mswap
  /-- `MSTREAM` (R251). Streams activation rows through the active plane into accumulator rows. -/
  | mstream (a : BitVec 7) (b : BitVec 7) (f : BitVec 4)
  /-- `MDRAIN` (R252). Writes and/or clears accumulator rows and reports OVF. -/
  | mdrain (d : BitVec 7) (a : BitVec 7) (b : BitVec 7) (f : BitVec 4)
  /-- `MLIC_ACQ` (R246). Obtains the pair's matrix licence, waiting if necessary. -/
  | mlicAcq
  /-- `MLIC_TRY` (R246). Obtains the licence only if it is free now, and reports the result in a predicate. -/
  | mlicTry (p : BitVec 3)
  /-- `MLIC_REL` (R246). Discards the matrix state and frees the licence. -/
  | mlicRel
  /-- `MLIC_QRY` (R246). Copies LICSTAT into a scalar. -/
  | mlicQry (d : BitVec 7)
  /-- `XSIG_SIG` (R259). Releases at a scope and signals the twin. -/
  | xsigSig (s : BitVec 3)
  /-- `XSIG_WAIT` (R259). Waits for an unconsumed signal from the twin, consumes it and acquires. -/
  | xsigWait (s : BitVec 3)
  /-- `XSIG_SYNC` (R259). Signals the twin, then waits for its signal. -/
  | xsigSync (s : BitVec 3)
  /-- `CSRR` (R261). Reads a control register. -/
  | csrr (d : BitVec 7) (n : BitVec 11)
  /-- `CSRW` (R261). Writes a control register; general row for registers with no row of their own. -/
  | csrw (a : BitVec 7) (n : BitVec 11)
  /-- `HBEAT` (R335). A write records a heartbeat and sets a new heartbeat deadline for a persistent region. -/
  | hbeat (v : Word)
  /-- `PGREQ` (R279). A write requests residence of a page and places a page-request record in the fault queue. -/
  | pgreq (addr : DWord)
  /-- `SPAD_DESCRIPTOR_WRITE` (R261). A supervisor write changes a scratchpad descriptor for the whole launch. -/
  | spadDescriptorWrite (n : BitVec 4) (v : DWord)
  /-- `TRAPVEC` (R67). A supervisor write of TRAPVEC or RTIMEOUT changes the value for the whole launch. -/
  | trapvec (reply : Bool) (v : DWord)
  /-- `ERET` (R262). Leaves the trap handler, returning to TRAPPC. -/
  | eret
  /-- `CYCLE` (R263). Writes the rc counter or the core's ac count to a pair. -/
  | cycle (d : BitVec 7) (f : BitVec 4)
  /-- `TRACEM` (R264). Appends a marker to the launch's trace stream. -/
  | tracem (a : BitVec 7) (n : BitVec 11)
  /-- `CHAIN_WAIT_CUT` (R319). The wait holds of a stay chain reach 64 ac, so the chain ends and the pipe reservation is dropped. -/
  | chainWaitCut (u : Nat)
  /-- `TRAP_DELIVERY` (R323). At a chain boundary, a pending asynchronous cause is delivered to the handler, or as a fault when TRAPVEC is 0. -/
  | trapDelivery (u : Nat)
  /-- `FAULT_ENTRY_RETRY` (R324). A fault held for a full queue is written once HEAD, re-read at least every 10 µs, shows room. -/
  | faultEntryRetry (k : Nat)
  /-- `PAUSE_END` (R139). Now() reaches the pause end, and the group returns to its priority class. -/
  | pauseEnd (u : Nat)
  /-- `SLEEP_WAKE` (R140). Now() reaches the SLEEP deadline, and the group issues again. -/
  | sleepWake (u : Nat)
  /-- `REPLY_OVERDUE` (R218). A call's deadline passes while its flag is set, so OVERDUE is set and a trap or fault 0x21 becomes pending. -/
  | replyOverdue (c : Nat)
  /-- `PROMISE_MISSED` (R241). Now() reaches a move's promise while its flag is set, so a promise-missed cause becomes pending unless QUIET is set. -/
  | promiseMissed (c : Nat)
  /-- `BARRIER_TIMEOUT` (R334). A barrier timer reaches 1,000 x BAR_TIMEOUT rc, raising fault 0x60 and a watchdog entry. -/
  | barrierTimeout (t b : Nat)
  /-- `HEARTBEAT_MISSED` (R335). Now() passes the heartbeat deadline of an active persistent region, raising fault 0x61. -/
  | heartbeatMissed (region : Nat)
  /-- `XSIG_TIMEOUT` (R260). An XSIG wait or held signal lasts beyond BAR_TIMEOUT, raising fault 0x60. -/
  | xsigTimeout (u : Nat)
  /-- `LATTICE_WAIT_LIMIT` (R228). An LLDW waits past its limit, raising fault 0x33. -/
  | latticeWaitLimit (u : Nat)
  /-- `REMOTE_BUDGET_EXCEEDED` (R214). A visitor's 4,097th issue raises fault 0x24 and ends the body with a fault reply. -/
  | remoteBudgetExceeded (u : Nat)
  /-- `POSTED_ACK_TIMEOUT` (R188). A posted operation unacknowledged for 1,000,000 rc is treated as acknowledged with error 0x18. -/
  | postedAckTimeout (p : Nat)
  /-- `INGOT_ARRIVAL` (R47). An ingot enters the home crossbar: its access is performed and it is delivered to the arrival queue or crucible. -/
  | ingotArrival (m : Nat)
  /-- `INGOT_ADMISSION` (R48). A queued or crucible ingot is admitted when a slot and allocation free, alternating crucible and fresh arrivals. -/
  | ingotAdmission (core : Nat)
  /-- `DISTRIBUTOR_PLACE_TEAM` (R315). The distributor places a waiting team whole once cores, slots, registers, scratchpad ownership and budgets allow. -/
  | distributorPlaceTeam (cores : List Nat)
  /-- `POSTED_OP_ARRIVAL` (R188). A posted store or atomic is performed at the home's memory-side unit and acknowledged, or dropped with an error record. -/
  | postedOpArrival (m : Nat)
  /-- `POSTED_ACK` (R188). An acknowledgement reaches the issuing core; an error acknowledgement leaves a pending error. -/
  | postedAck (m : Nat)
  /-- `HELD_RELEASE_SEND` (R189). A held posted release store is sent once its release conditions hold. -/
  | heldReleaseSend (p : Nat)
  /-- `FLAGGED_LOAD_COMPLETION` (R185). Data of a flagged load arrives: the destinations are written and the flag clears. -/
  | flaggedLoadCompletion (l : Nat)
  /-- `FORWARDED_COMPLETION` (R46). A completion or reply follows forwarding entries to the group and is applied there. -/
  | forwardedCompletion (m : Nat)
  /-- `EXIT_REMOVAL_MESSAGE` (R37). The removal of exited strands reaches a rejoin record on another core. -/
  | exitRemovalMessage (m : Nat)
  /-- `CALL_ARRIVAL` (R212). A call message is queued at the executor, creates a reply-cache entry and is admitted as a visitor. -/
  | callArrival (m : Nat)
  /-- `REPLY_ARRIVAL` (R216). A reply matching its call record writes the reply registers and clears the flag, or sets fault pending. -/
  | replyArrival (m : Nat)
  /-- `RETRY_ARRIVAL` (R220). The home answers a retry from the reply cache, attaches it to an executing entry, executes it, or answers 0x22. -/
  | retryArrival (m : Nat)
  /-- `REPLY_CACHE_EXPIRY` (R219). A done reply-cache entry expires 1,000,000 rc after its reply. -/
  | replyCacheExpiry (e : Nat)
  /-- `WATERMARK_EXPIRY` (R219). A source's watermark expires 1,000,000 rc after its last entry is freed. -/
  | watermarkExpiry (stack dev core : Nat)
  /-- `TILE_MOVE_ACCEPT` (R291). An engine accepts a move that reaches it, or that was held while its queue was full. -/
  | tileMoveAccept (m : Nat)
  /-- `TILE_MOVE_COMPLETION` (R239). Every row of a move has been written and performed, so its flag clears. -/
  | tileMoveCompletion (t : Nat)
  /-- `TILE_MOVE_FAULT` (R242). A row fails, so the flag clears with fault pending and code 0x51. -/
  | tileMoveFault (t : Nat)
  /-- `MATRIX_COMPLETION` (R247). A flagged MLDW, MSTREAM or MDRAIN finishes in the sequencer, and its flag clears. -/
  | matrixCompletion (core : Nat)
  /-- `LICENCE_GRANT` (R246). A freed licence goes to the oldest waiter, loading its image or the zero image. -/
  | licenceGrant (pair : Nat)
  /-- `LICENCE_REACQUIRE` (R256). An admitted image with an interrupted stream requests the licence and continues the stream from MS_ROWS. -/
  | licenceReacquire (u : Nat)
  /-- `LICENCE_FREE_AFTER_KILL` (R257). After a kill, the licence is freed once the array is idle. -/
  | licenceFreeAfterKill (pair : Nat)
  /-- `BURNISH_ROUND_START` (R287). A round starts and sends each partner the cells whose dirty bit for it is set. -/
  | burnishRoundStart (base : Nat)
  /-- `ROUND_DELIVERY` (R287). A round delivery is joined at the receiving replica and acknowledged. -/
  | roundDelivery (m : Nat)
  /-- `ROUND_COMPLETION` (R288). Every delivery of a round has been acknowledged, so a late next round may start. -/
  | roundCompletion (base : Nat)
  /-- `LFLUSH_DELIVERY` (R230). A flush delivery is joined at a replica and acknowledged. -/
  | lflushDelivery (m : Nat)
  /-- `JOIN_LIST_DELIVERY` (R232). Cells sent ahead of an ingot are joined at the destination replica before admission. -/
  | joinListDelivery (m : Nat)
  /-- `REPLICA_RETURN_COPY` (R290). A returning die's replica completes its copy from its ring neighbour and returns to service. -/
  | replicaReturnCopy (die : Nat)
  /-- `PAGE_COPY_COMPLETE` (R284). The page copy ends, and the new home performs the held requests in arrival order. -/
  | pageCopyComplete (g : Nat)
  /-- `PAGE_MOVE_MARKER` (R284). A core's marker reaches the new home, releasing the core's held requests; the last marker completes the move. -/
  | pageMoveMarker (m : Nat)
  /-- `INVALIDATION_ACK` (R280). A buffer or walker drops the range and acknowledges; the last acknowledgement completes the invalidation. -/
  | invalidationAck (v buffer : Nat)
  /-- `CHECKPOINT_SAVE` (R332). After the halt, units are saved into checkpoint slots and the save completion event is reported. -/
  | checkpointSave (u : Nat)
  /-- `LAUNCH_COMPLETION` (R308). Once all groups have retired and all accesses are performed, the launch's completion record is written. -/
  | launchCompletion (l : Nat)
  /-- `WINDOW_OVERRUN_MARK` (R311). An overrun mark for a region arrives, so its system-scope acquires fault 0x1C. -/
  | windowOverrunMark (region : Nat)
  /-- `LAUNCH` (R314). Command that checks and creates a launch context and hands its teams to the distributor. -/
  | launch (qp : Nat)
  /-- `PREEMPT` (R332). Command that halts every covered group within 250 rc and reports halt completion. -/
  | preempt (qp : Nat)
  /-- `RESUME` (R333). Command that re-enters every saved unit of a pre-empted node. -/
  | resume (qp : Nat)
  /-- `RESUMEENTRY` (R328). Command that reads a parked group's image and returns it to the distributor. -/
  | resumeentry (qp : Nat)
  /-- `KILLENTRY` (R329). Command that kills the domain recorded in a fault entry. -/
  | killentry (qp : Nat)
  /-- `INVAL` (R280). Command that invalidates cached translations over a virtual range. -/
  | inval (qp : Nat)
  /-- `PGMOVE` (R284). Command that moves a page to a new home with forwarding, copying and markers. -/
  | pgmove (qp : Nat)
  /-- `CLROVR` (R311). Command that clears a region's overrun mark on this module. -/
  | clrovr (qp : Nat)
  /-- `LATRET` (R286). Command that retires a lattice region and stops its rounds. -/
  | latret (qp : Nat)
  /-- `SETWIN` (R347). Command that sets the session window length W. -/
  | setwin (qp : Nat)
  /-- `SETSPILL` (R271). Command that sets a core's spill allocation. -/
  | setspill (qp : Nat)
  /-- `PEER` (R345). Command that writes a device-table entry and rebinds the peer path. -/
  | peer (qp : Nat)
  /-- `INVENTORY` (R355). Command that writes the inventory block. -/
  | inventory (qp : Nat)
  /-- `POWER` (R352). Command that sets a home stack or compute die to on, parked or off. -/
  | power (qp : Nat)
  /-- `SERVICE` (R350). Command that raises the service level one step at a time. -/
  | service (qp : Nat)
  /-- `SESSION` (R342). Command that records the session root, device number and session identifier. -/
  | session (qp : Nat)
  /-- `UNKNOWN_COMMAND` (R342). A command record with an unknown opcode or a non-zero reserved byte is refused. -/
  | unknownCommand (qp : Nat)
  /-- `CMD_TAIL` (R341). A host write publishes command records for the command processor to take up. -/
  | cmdTail (qp : Nat) (tail : Word)
  /-- `CQ_HEAD` (R341). A host write frees completion ring room, releasing held completion records. -/
  | cqHead (qp : Nat) (head : Word)
  /-- `QUEUE_PAIR_SETUP` (R340). The first SEND on a queue pair sets up its command ring, completion ring and doorbell. -/
  | queuePairSetup (qp : Nat) (bytes : List Byte)
  /-- `RDMA_WRITE` (R340). A host RDMA WRITE is translated and performed in the global window, or NAKed. -/
  | rdmaWrite (qp : Nat) (addr : DWord) (bytes : List Byte)
  /-- `RDMA_READ` (R308). A host RDMA READ is translated and read in single-copy-atomic 8-byte units. -/
  | rdmaRead (qp : Nat) (addr : DWord) (len : Nat)
  /-- `ROCE_ATOMIC` (R339). A RoCE atomic is answered with a NAK for an invalid request. -/
  | roceAtomic (qp : Nat)
  /-- `GRIERN_DATA_FRAME` (R344). A peer data frame is checked, delivered in order and acknowledged cumulatively, or discarded. -/
  | griernDataFrame (k : Nat)
  /-- `GRIERN_ACK_FRAME` (R344). A cumulative acknowledgement frees the sender's held frames. -/
  | griernAckFrame (k : Nat)
  /-- `GRIERN_RESEND_TIMER` (R344). An unacknowledged frame is resent after 20 µs; after 16 sends the path fails. -/
  | griernResendTimer (dev cls : Nat)
  /-- `FLIT_CRC_ERROR` (R337). A flit with a CRC error is retransmitted, and discarded with an error record after three failures. -/
  | flitCrcError (link lane m : Nat)
  /-- `LANE_SAMPLE_WINDOW` (R338). At the end of each 1 ms window, lanes over the error or eye threshold are marked lasting. -/
  | laneSampleWindow (link : Nat) (badEye : List Nat)
  /-- `LANE_SPARE_SWAP` (R338). At the quiet point a spare takes over a lasting lane, or the link halves or fails. -/
  | laneSpareSwap (link lane : Nat)
  /-- `TIME_LOCKED` (R346). The offset stays within 100 ns for 1 s, so the module is locked and writes an event. -/
  | timeLocked (offset : Word)
  /-- `TIME_LOCK_LOST` (R346). The offset estimate exceeds 125 ns, so the lock is lost and an event is written. -/
  | timeLockLost (offset : Word)
  /-- `COOLING_LOOP_LOST` (R351). A loop loss changes clocks and LOWER_ONLY, halts upper holders, or pre-empts everything when both loops are lost. -/
  | coolingLoopLost (bottom : Bool)
  /-- `COOLING_LOOP_RESTORED` (R351). A returning loop restores the full table and clears LOWER_ONLY. -/
  | coolingLoopRestored (bottom : Bool)
  /-- `DRAM_OVER_LIMIT` (R351). With both loops lost, the DRAM exceeds its limit and the stacks are powered off. -/
  | dramOverLimit
  /-- `STACK_WAKE` (R352). A parked stack woken by an access resumes and performs the waiting access. -/
  | stackWake (stack : Nat)
  /-- `DEVICE_RESET` (R348). Reset enters S0 and discards every launch and region. -/
  | deviceReset
  /-- `DRAM_CORRECTED_ERROR` (R354). A corrected DRAM error is written back and counted; the fourth count spares the row. -/
  | dramCorrectedError (stack bank row : Nat)
  /-- `UNCORRECTABLE_ERROR` (R354). An uncorrectable error poisons DRAM or scratchpad storage, or raises 0x7F for group state. -/
  | uncorrectableError (kind place : Nat)
  /-- `PATROL_SCRUB` (R353). Background scrubbing of DRAM and SRAM corrects errors it finds. -/
  | patrolScrub (stack bank row : Nat)
  /-- `REGISTER_SPILL` (R271). Between chains, a core spills or restores the registers of groups that cannot issue. -/
  | registerSpill (u : Nat)
  /-- `SELF_TEST_COMPLETE` (R350). The self-test and link training of a die end, passing or failing, and the pending SERVICE or POWER on completes or is refused with the event bring-up failed. -/
  | selfTestComplete (die : Nat) (pass : Bool)
  /-- `SYSTEM_RELEASE_WINDOW_PASSED` (R310). The issuing module's PTIME reaches (Nl + 2) x W, ending the wait of an inline system-scope release such as FENCE.rel.sys, a non-posted STWL.sys or a BAR arrival. -/
  | systemReleaseWindowPassed (u : Nat)
  /-- `CALL_SEQUENCE_REUSE_WAIT` (R219). The sequence number that a waiting new RCALL would take was last assigned 1,000,000 rc ago, so the call is sent. -/
  | callSequenceReuseWait (u : Nat)
  /-- `SHIPPED_SCRATCHPAD_ACCESS` (R267). A request-class message carrying a scratchpad access or atomic reaches the bank unit of another core, is performed in arrival order and is answered. -/
  | shippedScratchpadAccess (m : Nat)
  /-- `INLINE_ACCESS_COMPLETION` (R185). The data or acknowledgement of an inline load, returning atomic or non-posted store performed without migration returns, the destinations are written and the group may issue again. -/
  | inlineAccessCompletion (u : Nat)
  /-- `ISSUING_CORE_REQUEST` (R221). An RSTAT or TSTAT query, or an RCALL.retry executed away from the issuing core, reaches the issuing core, which answers from the record or stamps and sends the retry. -/
  | issuingCoreRequest (m : Nat)
  /-- `LICENCE_RELEASE_MESSAGE` (R246). The release message of an MLIC.rel executed away from the licensed core reaches that core, which discards the matrix state and frees the licence. -/
  | licenceReleaseMessage (m : Nat)
  /-- `BARRIER_RELEASE_MESSAGE` (R202). The message releasing a barrier waiter reaches a core away from the team anchor, and the waiting fragment resumes with its acquire. -/
  | barrierReleaseMessage (m : Nat)
  /-- `IEEE_1588_MESSAGE` (R346). An IEEE 1588 event or general message arrives on a port, is timestamped, and the servo slews PTIME by at most 200 ppm. -/
  | ieee1588Message (port : Nat) (slew : Int) (offset : Int)
  deriving DecidableEq, Repr

end Sys2Proof
end

