-- ==== Sys2Proof/WellFormed.lean ====
section
/-! DEFINITION. Well-formed instructions: the field values that no description reserves (R86, R87, R90), as far as they do not
depend on the hallmark's uniform bit. A word whose fields break one of these raises fault 0x01. -/

namespace Sys2Proof.Field

/-- D as a destination: 113-119 are illegal (R87). -/
def dst (d : BitVec 7) : Bool := d.toNat < 113 || 120 ≤ d.toNat

/-- D read as a third source and written: a register, not 112-119 (R146, R157). -/
def third (d : BitVec 7) : Bool := d.toNat < 112 || 120 ≤ d.toNat

/-- A register pair of the window or of the twin window (R179, R180). -/
def pair (d : BitVec 7) : Bool := d.toNat ≤ 110 || (120 ≤ d.toNat && d.toNat ≤ 126)

/-- A register pair or `nul` (R180). -/
def pairOrNul (d : BitVec 7) : Bool := pair d || d.toNat == 112

/-- A scalar register field (R128, R235). -/
def scal (a : BitVec 7) : Bool := a.toNat < 112

/-- A scalar pair field (R128, R235). -/
def scalPair (a : BitVec 7) : Bool := a.toNat ≤ 110

/-- A predicate in a 7-bit field (R87, R157). -/
def pred (d : BitVec 7) : Bool := d.toNat < 8

/-- A scope, 0-4 (R86, R90). -/
def scope (s : BitVec 3) : Bool := s.toNat ≤ 4

/-- A completion flag, 0-11 (R184, R221, R235). -/
def flag (f : BitVec 4) : Bool := f.toNat ≤ 11

/-- A lattice type code (R223, R224). -/
def latType (t : BitVec 4) : Bool := 1 ≤ t.toNat && t.toNat ≤ 11

/-- A lattice type with 8-byte cells (R223): MAXU64, MINU64, OR64, MAX2U32. -/
def wideType (t : BitVec 4) : Bool := t.toNat == 7 || t.toNat == 8 || t.toNat == 9 || t.toNat == 11

/-- An atomic's D, scope, order and posted bit (R90, R181). -/
def atomic (d : BitVec 7) (s : BitVec 3) (o : BitVec 2) (p : BitVec 1) : Bool :=
  dst d && scope s && (p == 0#1 || (d.toNat == 112 && (o == 0#2 || o == 2#2)))

/-- A load's D, flag and, for 8 bytes, its pair (R180, R184). -/
def load (wide : Bool) (d a : BitVec 7) (f : BitVec 4) : Bool :=
  (if wide then pairOrNul d else dst d) && pair a && flag f

end Sys2Proof.Field

namespace Sys2Proof
open Sys2Proof.Field

/-- The field values that no description reserves. Rows without a word have no fields to check. -/
def Instr.wf : Instr → Bool
  | .ret a => scalPair a
  | .jtab a b => scal a && scalPair b
  | .live v _ _ _ => v.toNat < 112
  | .sleep a => scalPair a
  | .iadd d _ _ f => dst d && decide (f.toNat ≤ 2)
  | .isub d _ _ f => dst d && decide (f.toNat ≤ 2)
  | .imul d _ _ f => dst d && decide (f.toNat ≤ 2)
  | .imad d _ _ f => third d && decide (f.toNat ≤ 2)
  | .imnx d _ _ f => dst d && decide (f.toNat ≤ 3)
  | .sel d _ _ _ _ => dst d
  | .iaddc d _ _ _ _ => dst d
  | .land d _ _ => dst d
  | .lor d _ _ => dst d
  | .lxor d _ _ => dst d
  | .andn d _ _ => dst d
  | .shl d _ _ f => dst d && decide (f.toNat ≤ 1)
  | .shr d _ _ f => dst d && decide (f.toNat ≤ 2)
  | .bfx d _ _ f => (if f.toNat = 2 then third d else dst d) && decide (f.toNat ≤ 2)
  | .bitop d _ f => dst d && decide (f.toNat ≤ 4)
  | .iaddi d _ _ => dst d
  | .andi d _ _ => dst d
  | .ori d _ _ => dst d
  | .xori d _ _ => dst d
  | .shi d _ _ _ => dst d
  | .movi d _ => dst d
  | .movhi d _ => dst d
  | .fadd d _ _ _ => dst d
  | .fmul d _ _ _ => dst d
  | .ffma d _ _ _ => third d
  | .fmnx d _ b f => dst d && decide (f.toNat ≤ 4) && (b == 0 || !(f.toNat == 2 || f.toNat == 3))
  | .fsfu d _ _ => dst d
  | .fcvt d _ g _ _ _ => dst d && decide (g.toNat ≤ 0x12)
  | .fclass d _ f => dst d && decide (f.toNat ≤ 4)
  | .hadd2 d _ _ _ => dst d
  | .hmul2 d _ _ _ => dst d
  | .hfma2 d _ _ _ => third d
  | .bfma2 d _ _ _ => third d
  | .dot4 d _ _ f => third d && decide (f.toNat % 8 ≤ 6)
  | .pcvt d _ _ _ => third d
  | .mov d a f =>
    if f.toNat = 0 then dst d
    else if f.toNat = 1 then third d && scal a
    else f.toNat = 2 && decide (d.toNat ≤ 112) && third a
  | .idx d a b f =>
    if f.toNat = 0 then dst d && b == 0
    else if f.toNat = 1 then d == 0
    else f.toNat = 2 && dst d && a == 0 && b == 0
  | .vote d a f =>
    if f.toNat ≤ 1 then pred d && pred a
    else if f.toNat = 2 then pred d
    else decide (f.toNat ≤ 4) && dst d && pred a
  | .shfl d _ _ f => dst d && decide (f.toNat ≤ 3)
  | .redux d _ f => dst d && decide (f.toNat ≤ 12)
  | .pmov d a f => if f.toNat = 0 then dst d && pred a else pred d && decide (f.toNat ≤ 2)
  | .pset _ f => decide (f.toNat ≤ 2)
  | .ldb d a _ f => load false d a f
  | .ldh d a _ f => load false d a f
  | .ldw d a _ f => load false d a f
  | .ldd d a _ f => load true d a f
  | .ldba d a s _ f => load false d a f && scope s
  | .ldha d a s _ f => load false d a f && scope s
  | .ldwa d a s _ f => load false d a f && scope s
  | .ldda d a s _ f => load true d a f && scope s
  | .stb _ a _ _ _ => pair a
  | .sth _ a _ _ _ => pair a
  | .stw _ a _ _ _ => pair a
  | .std d a _ _ _ => pair a && pair d
  | .stbl _ a s _ _ _ => pair a && scope s
  | .sthl _ a s _ _ _ => pair a && scope s
  | .stwl _ a s _ _ _ => pair a && scope s
  | .stdl d a s _ _ _ => pair a && pair d && scope s
  | .aadd d a _ s o p => pair a && atomic d s o p
  | .asub d a _ s o p => pair a && atomic d s o p
  | .amins d a _ s o p => pair a && atomic d s o p
  | .amaxs d a _ s o p => pair a && atomic d s o p
  | .aminu d a _ s o p => pair a && atomic d s o p
  | .amaxu d a _ s o p => pair a && atomic d s o p
  | .aand d a _ s o p => pair a && atomic d s o p
  | .aor d a _ s o p => pair a && atomic d s o p
  | .axor d a _ s o p => pair a && atomic d s o p
  | .axch d a _ s o p => pair a && atomic d s o p
  | .acas d a b s o p => pair a && atomic d s o p && b != 31
  | .afadd d a _ s o p => pair a && atomic d s o p
  | .afmin d a _ s o p => pair a && atomic d s o p
  | .afmax d a _ s o p => pair a && atomic d s o p
  | .aincw d a _ s o p => pair a && atomic d s o p
  | .adecw d a _ s o p => pair a && atomic d s o p
  | .stn d a _ _ _ => pair a && pair d
  | .stbm _ a _ _ _ => pair a
  | .migrCore a => scal a
  | .migrAddr a => pair a
  | .home d a => dst d && pair a
  | .barArrive s i b c => scope s && (if c = 1#1 then scal b && i != 0 else b == 0)
  | .barWait s i b c => scope s && (if c = 1#1 then scal b && i != 0 else b == 0)
  | .barSync s i b c => scope s && (if c = 1#1 then scal b && i != 0 else b == 0)
  | .barInit s i b c => scope s && (if c = 1#1 then scal b else b == 0) && i != 0
  | .fence s _ m => scope s && m != 0
  | .ljoin a b t => pair a && latType t && (!wideType t || pair b)
  | .ljoinr d a b t => pair a && latType t && (if wideType t then pair b && pairOrNul d else dst d)
  | .lld d a _ t => pair a && latType t && (if wideType t then pairOrNul d else dst d)
  | .lldw d a b t => pair a && latType t && (if wideType t then pair b && pairOrNul d else dst d)
  | .lstx d a _ t => pair a && latType t && (!wideType t || pair d)
  | .lflush a t => pair a && latType t
  | .lepoch d a t => pair a && latType t && pairOrNul d
  | .rcall h _ _ a _ _ => h != 3 && a != 31
  | .rcallRetry h _ _ a _ _ => h != 3 && a != 31
  | .rret a => scal a
  | .rstat d f => dst d && flag f
  | .tmove d a f => decide (d.toNat ≤ 110 ∨ d.toNat = 112) && decide (a.toNat ≤ 104) && flag f && f != 0
  | .tstat d f => dst d && flag f
  | .tstatProm d f => pair d && flag f
  | .mldw a b f => scalPair a && scalPair b && flag f
  | .mstream a b f => scalPair a && scalPair b && flag f
  | .mdrain d a b f => decide (d.toNat ≤ 110 ∨ d.toNat = 112) && scalPair a && scalPair b && flag f
  | .mlicQry d => scal d
  | .xsigSig s => scope s
  | .xsigWait s => scope s
  | .xsigSync s => scope s
  | .csrr d _ => dst d
  | .cycle d f => pair d && decide (f.toNat ≤ 1)
  | _ => true

end Sys2Proof
end

