-- ==== Sys2Proof/Decode.lean ====
section
/-! DEFINITION. The decoder and the encoder of instruction words (R77, R81, R86 to R90). Decoding is total: every byte
list gives an instruction or the name of what is wrong with it. -/

namespace Sys2Proof

/-- Why a word is no instruction of the table: it raises fault 0x01 (R88, R90). -/
inductive DecodeError where
  /-- Fewer than four bytes. -/
  | truncated
  /-- Major opcode 0x00 or 0x7F, or a reserved one: 0x3E, 0x3F, 0x67. -/
  | illegalMajor (op : Nat)
  /-- A field that the description does not use is not zero, or a variant field names no form of the instruction. -/
  | reservedField (op : Nat)
  deriving DecidableEq, Repr

/-- The instruction of a word (R86 to R89). -/
def decodeWord (w : Word) : Except DecodeError Instr :=
  match (w.extractLsb' 25 7).toNat with
  | 0x01 => if w.extractLsb' 0 25 = 0#25 then .ok .nop else .error (.reservedField 0x01)
  | 0x02 => if w.extractLsb' 16 9 = 0#9 then .ok (.bra (w.extractLsb' 0 16)) else .error (.reservedField 0x02)
  | 0x03 => .ok (.brc (w.extractLsb' 22 3) (w.extractLsb' 21 1) (w.extractLsb' 16 5) (w.extractLsb' 0 16))
  | 0x04 => if w.extractLsb' 16 6 = 0#6 then .ok (.call (w.extractLsb' 22 3) (w.extractLsb' 0 16)) else .error (.reservedField 0x04)
  | 0x05 => if w.extractLsb' 18 7 = 0#7 ∧ w.extractLsb' 0 11 = 0#11 then .ok (.ret (w.extractLsb' 11 7)) else .error (.reservedField 0x05)
  | 0x06 => if w.extractLsb' 18 7 = 0#7 ∧ w.extractLsb' 0 4 = 0#4 then .ok (.jtab (w.extractLsb' 11 7) (w.extractLsb' 4 7)) else .error (.reservedField 0x06)
  | 0x07 => .ok (.pad (w.extractLsb' 24 1) (w.extractLsb' 0 24))
  | 0x08 => if w.extractLsb' 4 21 = 0#21 then .ok (.exit (w.extractLsb' 3 1) (w.extractLsb' 0 3)) else .error (.reservedField 0x08)
  | 0x09 => if w.extractLsb' 11 14 = 0#14 then .ok (.trap (w.extractLsb' 0 11)) else .error (.reservedField 0x09)
  | 0x0A => if w.extractLsb' 16 5 = 0#5 then .ok (.loop (w.extractLsb' 21 4) (w.extractLsb' 0 16)) else .error (.reservedField 0x0A)
  | 0x0B => if w.extractLsb' 12 13 = 0#13 then .ok (.winb (w.extractLsb' 11 1) (w.extractLsb' 0 11)) else .error (.reservedField 0x0B)
  | 0x0C => if w.extractLsb' 12 13 = 0#13 then .ok (.swinb (w.extractLsb' 11 1) (w.extractLsb' 0 11)) else .error (.reservedField 0x0C)
  | 0x0D => if w.extractLsb' 0 1 = 0#1 then .ok (.live (w.extractLsb' 18 7) (w.extractLsb' 12 6) (w.extractLsb' 6 6) (w.extractLsb' 1 5)) else .error (.reservedField 0x0D)
  | 0x0E => if w.extractLsb' 11 14 = 0#14 then .ok (.pause (w.extractLsb' 0 11)) else .error (.reservedField 0x0E)
  | 0x0F => if w.extractLsb' 18 7 = 0#7 ∧ w.extractLsb' 0 11 = 0#11 then .ok (.sleep (w.extractLsb' 11 7)) else .error (.reservedField 0x0F)
  | 0x10 => .ok (.iadd (w.extractLsb' 18 7) (w.extractLsb' 11 7) (w.extractLsb' 4 7) (w.extractLsb' 0 4))
  | 0x11 => .ok (.isub (w.extractLsb' 18 7) (w.extractLsb' 11 7) (w.extractLsb' 4 7) (w.extractLsb' 0 4))
  | 0x12 => .ok (.imul (w.extractLsb' 18 7) (w.extractLsb' 11 7) (w.extractLsb' 4 7) (w.extractLsb' 0 4))
  | 0x13 => .ok (.imad (w.extractLsb' 18 7) (w.extractLsb' 11 7) (w.extractLsb' 4 7) (w.extractLsb' 0 4))
  | 0x14 => .ok (.imnx (w.extractLsb' 18 7) (w.extractLsb' 11 7) (w.extractLsb' 4 7) (w.extractLsb' 0 4))
  | 0x15 => if w.extractLsb' 21 4 = 0#4 then .ok (.isetp (w.extractLsb' 18 3) (w.extractLsb' 11 7) (w.extractLsb' 4 7) (w.extractLsb' 0 4)) else .error (.reservedField 0x15)
  | 0x16 => .ok (.sel (w.extractLsb' 18 7) (w.extractLsb' 11 7) (w.extractLsb' 4 7) (w.extractLsb' 3 1) (w.extractLsb' 0 3))
  | 0x17 => .ok (.iaddc (w.extractLsb' 18 7) (w.extractLsb' 11 7) (w.extractLsb' 4 7) (w.extractLsb' 3 1) (w.extractLsb' 0 3))
  | 0x18 => if w.extractLsb' 0 4 = 0#4 then .ok (.land (w.extractLsb' 18 7) (w.extractLsb' 11 7) (w.extractLsb' 4 7)) else .error (.reservedField 0x18)
  | 0x19 => if w.extractLsb' 0 4 = 0#4 then .ok (.lor (w.extractLsb' 18 7) (w.extractLsb' 11 7) (w.extractLsb' 4 7)) else .error (.reservedField 0x19)
  | 0x1A => if w.extractLsb' 0 4 = 0#4 then .ok (.lxor (w.extractLsb' 18 7) (w.extractLsb' 11 7) (w.extractLsb' 4 7)) else .error (.reservedField 0x1A)
  | 0x1B => if w.extractLsb' 0 4 = 0#4 then .ok (.andn (w.extractLsb' 18 7) (w.extractLsb' 11 7) (w.extractLsb' 4 7)) else .error (.reservedField 0x1B)
  | 0x1C => .ok (.shl (w.extractLsb' 18 7) (w.extractLsb' 11 7) (w.extractLsb' 4 7) (w.extractLsb' 0 4))
  | 0x1D => .ok (.shr (w.extractLsb' 18 7) (w.extractLsb' 11 7) (w.extractLsb' 4 7) (w.extractLsb' 0 4))
  | 0x1E => .ok (.bfx (w.extractLsb' 18 7) (w.extractLsb' 11 7) (w.extractLsb' 4 7) (w.extractLsb' 0 4))
  | 0x1F => if w.extractLsb' 4 7 = 0#7 then .ok (.bitop (w.extractLsb' 18 7) (w.extractLsb' 11 7) (w.extractLsb' 0 4)) else .error (.reservedField 0x1F)
  | 0x20 => .ok (.iaddi (w.extractLsb' 18 7) (w.extractLsb' 11 7) (w.extractLsb' 0 11))
  | 0x21 => .ok (.andi (w.extractLsb' 18 7) (w.extractLsb' 11 7) (w.extractLsb' 0 11))
  | 0x22 => .ok (.ori (w.extractLsb' 18 7) (w.extractLsb' 11 7) (w.extractLsb' 0 11))
  | 0x23 => .ok (.xori (w.extractLsb' 18 7) (w.extractLsb' 11 7) (w.extractLsb' 0 11))
  | 0x24 => if w.extractLsb' 7 4 = 0#4 then .ok (.shi (w.extractLsb' 18 7) (w.extractLsb' 11 7) (w.extractLsb' 5 2) (w.extractLsb' 0 5)) else .error (.reservedField 0x24)
  | 0x25 => .ok (.movi (w.extractLsb' 18 7) (w.extractLsb' 0 18))
  | 0x26 => .ok (.movhi (w.extractLsb' 18 7) (w.extractLsb' 0 18))
  | 0x27 => if w.extractLsb' 21 4 = 0#4 then .ok (.isetpi (w.extractLsb' 18 3) (w.extractLsb' 11 7) (w.extractLsb' 8 3) (w.extractLsb' 0 8)) else .error (.reservedField 0x27)
  | 0x28 => .ok (.fadd (w.extractLsb' 18 7) (w.extractLsb' 11 7) (w.extractLsb' 4 7) (w.extractLsb' 0 4))
  | 0x29 => .ok (.fmul (w.extractLsb' 18 7) (w.extractLsb' 11 7) (w.extractLsb' 4 7) (w.extractLsb' 0 4))
  | 0x2A => .ok (.ffma (w.extractLsb' 18 7) (w.extractLsb' 11 7) (w.extractLsb' 4 7) (w.extractLsb' 0 4))
  | 0x2B => .ok (.fmnx (w.extractLsb' 18 7) (w.extractLsb' 11 7) (w.extractLsb' 4 7) (w.extractLsb' 0 4))
  | 0x2C => if w.extractLsb' 21 4 = 0#4 then .ok (.fsetp (w.extractLsb' 18 3) (w.extractLsb' 11 7) (w.extractLsb' 4 7) (w.extractLsb' 0 4)) else .error (.reservedField 0x2C)
  | 0x2D => if w.extractLsb' 4 7 = 0#7 then .ok (.fsfu (w.extractLsb' 18 7) (w.extractLsb' 11 7) (w.extractLsb' 0 4)) else .error (.reservedField 0x2D)
  | 0x2E => .ok (.fcvt (w.extractLsb' 18 7) (w.extractLsb' 11 7) (w.extractLsb' 6 5) (w.extractLsb' 5 1) (w.extractLsb' 4 1) (w.extractLsb' 0 4))
  | 0x2F => if w.extractLsb' 4 7 = 0#7 then .ok (.fclass (w.extractLsb' 18 7) (w.extractLsb' 11 7) (w.extractLsb' 0 4)) else .error (.reservedField 0x2F)
  | 0x30 => .ok (.hadd2 (w.extractLsb' 18 7) (w.extractLsb' 11 7) (w.extractLsb' 4 7) (w.extractLsb' 0 4))
  | 0x31 => .ok (.hmul2 (w.extractLsb' 18 7) (w.extractLsb' 11 7) (w.extractLsb' 4 7) (w.extractLsb' 0 4))
  | 0x32 => .ok (.hfma2 (w.extractLsb' 18 7) (w.extractLsb' 11 7) (w.extractLsb' 4 7) (w.extractLsb' 0 4))
  | 0x33 => .ok (.bfma2 (w.extractLsb' 18 7) (w.extractLsb' 11 7) (w.extractLsb' 4 7) (w.extractLsb' 0 4))
  | 0x34 => .ok (.dot4 (w.extractLsb' 18 7) (w.extractLsb' 11 7) (w.extractLsb' 4 7) (w.extractLsb' 0 4))
  | 0x35 => .ok (.pcvt (w.extractLsb' 18 7) (w.extractLsb' 11 7) (w.extractLsb' 4 7) (w.extractLsb' 0 4))
  | 0x36 => if w.extractLsb' 4 7 = 0#7 then .ok (.mov (w.extractLsb' 18 7) (w.extractLsb' 11 7) (w.extractLsb' 0 4)) else .error (.reservedField 0x36)
  | 0x37 => .ok (.idx (w.extractLsb' 18 7) (w.extractLsb' 11 7) (w.extractLsb' 4 7) (w.extractLsb' 0 4))
  | 0x38 => if w.extractLsb' 21 4 = 0#4 ∧ w.extractLsb' 14 4 = 0#4 ∧ w.extractLsb' 7 4 = 0#4 then .ok (.plop (w.extractLsb' 18 3) (w.extractLsb' 11 3) (w.extractLsb' 4 3) (w.extractLsb' 0 4)) else .error (.reservedField 0x38)
  | 0x39 => if w.extractLsb' 4 7 = 0#7 then .ok (.vote (w.extractLsb' 18 7) (w.extractLsb' 11 7) (w.extractLsb' 0 4)) else .error (.reservedField 0x39)
  | 0x3A => .ok (.shfl (w.extractLsb' 18 7) (w.extractLsb' 11 7) (w.extractLsb' 4 7) (w.extractLsb' 0 4))
  | 0x3B => if w.extractLsb' 4 7 = 0#7 then .ok (.redux (w.extractLsb' 18 7) (w.extractLsb' 11 7) (w.extractLsb' 0 4)) else .error (.reservedField 0x3B)
  | 0x3C => if w.extractLsb' 4 7 = 0#7 then .ok (.pmov (w.extractLsb' 18 7) (w.extractLsb' 11 7) (w.extractLsb' 0 4)) else .error (.reservedField 0x3C)
  | 0x3D => if w.extractLsb' 21 4 = 0#4 ∧ w.extractLsb' 4 14 = 0#14 then .ok (.pset (w.extractLsb' 18 3) (w.extractLsb' 0 4)) else .error (.reservedField 0x3D)
  | 0x40 => if w.extractLsb' 8 3 = 0#3 then .ok (.ldb (w.extractLsb' 18 7) (w.extractLsb' 11 7) (w.extractLsb' 4 4) (w.extractLsb' 0 4)) else .error (.reservedField 0x40)
  | 0x41 => if w.extractLsb' 8 3 = 0#3 then .ok (.ldh (w.extractLsb' 18 7) (w.extractLsb' 11 7) (w.extractLsb' 4 4) (w.extractLsb' 0 4)) else .error (.reservedField 0x41)
  | 0x42 => if w.extractLsb' 8 3 = 0#3 then .ok (.ldw (w.extractLsb' 18 7) (w.extractLsb' 11 7) (w.extractLsb' 4 4) (w.extractLsb' 0 4)) else .error (.reservedField 0x42)
  | 0x43 => if w.extractLsb' 8 3 = 0#3 then .ok (.ldd (w.extractLsb' 18 7) (w.extractLsb' 11 7) (w.extractLsb' 4 4) (w.extractLsb' 0 4)) else .error (.reservedField 0x43)
  | 0x44 => .ok (.ldba (w.extractLsb' 18 7) (w.extractLsb' 11 7) (w.extractLsb' 8 3) (w.extractLsb' 4 4) (w.extractLsb' 0 4))
  | 0x45 => .ok (.ldha (w.extractLsb' 18 7) (w.extractLsb' 11 7) (w.extractLsb' 8 3) (w.extractLsb' 4 4) (w.extractLsb' 0 4))
  | 0x46 => .ok (.ldwa (w.extractLsb' 18 7) (w.extractLsb' 11 7) (w.extractLsb' 8 3) (w.extractLsb' 4 4) (w.extractLsb' 0 4))
  | 0x47 => .ok (.ldda (w.extractLsb' 18 7) (w.extractLsb' 11 7) (w.extractLsb' 8 3) (w.extractLsb' 4 4) (w.extractLsb' 0 4))
  | 0x48 => if w.extractLsb' 8 3 = 0#3 then .ok (.stb (w.extractLsb' 18 7) (w.extractLsb' 11 7) (w.extractLsb' 4 4) (w.extractLsb' 3 1) (w.extractLsb' 0 3)) else .error (.reservedField 0x48)
  | 0x49 => if w.extractLsb' 8 3 = 0#3 then .ok (.sth (w.extractLsb' 18 7) (w.extractLsb' 11 7) (w.extractLsb' 4 4) (w.extractLsb' 3 1) (w.extractLsb' 0 3)) else .error (.reservedField 0x49)
  | 0x4A => if w.extractLsb' 8 3 = 0#3 then .ok (.stw (w.extractLsb' 18 7) (w.extractLsb' 11 7) (w.extractLsb' 4 4) (w.extractLsb' 3 1) (w.extractLsb' 0 3)) else .error (.reservedField 0x4A)
  | 0x4B => if w.extractLsb' 8 3 = 0#3 then .ok (.std (w.extractLsb' 18 7) (w.extractLsb' 11 7) (w.extractLsb' 4 4) (w.extractLsb' 3 1) (w.extractLsb' 0 3)) else .error (.reservedField 0x4B)
  | 0x4C => .ok (.stbl (w.extractLsb' 18 7) (w.extractLsb' 11 7) (w.extractLsb' 8 3) (w.extractLsb' 4 4) (w.extractLsb' 3 1) (w.extractLsb' 0 3))
  | 0x4D => .ok (.sthl (w.extractLsb' 18 7) (w.extractLsb' 11 7) (w.extractLsb' 8 3) (w.extractLsb' 4 4) (w.extractLsb' 3 1) (w.extractLsb' 0 3))
  | 0x4E => .ok (.stwl (w.extractLsb' 18 7) (w.extractLsb' 11 7) (w.extractLsb' 8 3) (w.extractLsb' 4 4) (w.extractLsb' 3 1) (w.extractLsb' 0 3))
  | 0x4F => .ok (.stdl (w.extractLsb' 18 7) (w.extractLsb' 11 7) (w.extractLsb' 8 3) (w.extractLsb' 4 4) (w.extractLsb' 3 1) (w.extractLsb' 0 3))
  | 0x50 => .ok (.aadd (w.extractLsb' 18 7) (w.extractLsb' 11 7) (w.extractLsb' 6 5) (w.extractLsb' 3 3) (w.extractLsb' 1 2) (w.extractLsb' 0 1))
  | 0x51 => .ok (.asub (w.extractLsb' 18 7) (w.extractLsb' 11 7) (w.extractLsb' 6 5) (w.extractLsb' 3 3) (w.extractLsb' 1 2) (w.extractLsb' 0 1))
  | 0x52 => .ok (.amins (w.extractLsb' 18 7) (w.extractLsb' 11 7) (w.extractLsb' 6 5) (w.extractLsb' 3 3) (w.extractLsb' 1 2) (w.extractLsb' 0 1))
  | 0x53 => .ok (.amaxs (w.extractLsb' 18 7) (w.extractLsb' 11 7) (w.extractLsb' 6 5) (w.extractLsb' 3 3) (w.extractLsb' 1 2) (w.extractLsb' 0 1))
  | 0x54 => .ok (.aminu (w.extractLsb' 18 7) (w.extractLsb' 11 7) (w.extractLsb' 6 5) (w.extractLsb' 3 3) (w.extractLsb' 1 2) (w.extractLsb' 0 1))
  | 0x55 => .ok (.amaxu (w.extractLsb' 18 7) (w.extractLsb' 11 7) (w.extractLsb' 6 5) (w.extractLsb' 3 3) (w.extractLsb' 1 2) (w.extractLsb' 0 1))
  | 0x56 => .ok (.aand (w.extractLsb' 18 7) (w.extractLsb' 11 7) (w.extractLsb' 6 5) (w.extractLsb' 3 3) (w.extractLsb' 1 2) (w.extractLsb' 0 1))
  | 0x57 => .ok (.aor (w.extractLsb' 18 7) (w.extractLsb' 11 7) (w.extractLsb' 6 5) (w.extractLsb' 3 3) (w.extractLsb' 1 2) (w.extractLsb' 0 1))
  | 0x58 => .ok (.axor (w.extractLsb' 18 7) (w.extractLsb' 11 7) (w.extractLsb' 6 5) (w.extractLsb' 3 3) (w.extractLsb' 1 2) (w.extractLsb' 0 1))
  | 0x59 => .ok (.axch (w.extractLsb' 18 7) (w.extractLsb' 11 7) (w.extractLsb' 6 5) (w.extractLsb' 3 3) (w.extractLsb' 1 2) (w.extractLsb' 0 1))
  | 0x5A => .ok (.acas (w.extractLsb' 18 7) (w.extractLsb' 11 7) (w.extractLsb' 6 5) (w.extractLsb' 3 3) (w.extractLsb' 1 2) (w.extractLsb' 0 1))
  | 0x5B => .ok (.afadd (w.extractLsb' 18 7) (w.extractLsb' 11 7) (w.extractLsb' 6 5) (w.extractLsb' 3 3) (w.extractLsb' 1 2) (w.extractLsb' 0 1))
  | 0x5C => .ok (.afmin (w.extractLsb' 18 7) (w.extractLsb' 11 7) (w.extractLsb' 6 5) (w.extractLsb' 3 3) (w.extractLsb' 1 2) (w.extractLsb' 0 1))
  | 0x5D => .ok (.afmax (w.extractLsb' 18 7) (w.extractLsb' 11 7) (w.extractLsb' 6 5) (w.extractLsb' 3 3) (w.extractLsb' 1 2) (w.extractLsb' 0 1))
  | 0x5E => .ok (.aincw (w.extractLsb' 18 7) (w.extractLsb' 11 7) (w.extractLsb' 6 5) (w.extractLsb' 3 3) (w.extractLsb' 1 2) (w.extractLsb' 0 1))
  | 0x5F => .ok (.adecw (w.extractLsb' 18 7) (w.extractLsb' 11 7) (w.extractLsb' 6 5) (w.extractLsb' 3 3) (w.extractLsb' 1 2) (w.extractLsb' 0 1))
  | 0x60 => if w.extractLsb' 18 7 = 0#7 then .ok (.ljoin (w.extractLsb' 11 7) (w.extractLsb' 4 7) (w.extractLsb' 0 4)) else .error (.reservedField 0x60)
  | 0x61 => .ok (.ljoinr (w.extractLsb' 18 7) (w.extractLsb' 11 7) (w.extractLsb' 4 7) (w.extractLsb' 0 4))
  | 0x62 => if w.extractLsb' 8 3 = 0#3 then .ok (.lld (w.extractLsb' 18 7) (w.extractLsb' 11 7) (w.extractLsb' 4 4) (w.extractLsb' 0 4)) else .error (.reservedField 0x62)
  | 0x63 => .ok (.lldw (w.extractLsb' 18 7) (w.extractLsb' 11 7) (w.extractLsb' 4 7) (w.extractLsb' 0 4))
  | 0x64 => if w.extractLsb' 8 3 = 0#3 then .ok (.lstx (w.extractLsb' 18 7) (w.extractLsb' 11 7) (w.extractLsb' 4 4) (w.extractLsb' 0 4)) else .error (.reservedField 0x64)
  | 0x65 => if w.extractLsb' 18 7 = 0#7 ∧ w.extractLsb' 4 7 = 0#7 then .ok (.lflush (w.extractLsb' 11 7) (w.extractLsb' 0 4)) else .error (.reservedField 0x65)
  | 0x66 => if w.extractLsb' 4 7 = 0#7 then .ok (.lepoch (w.extractLsb' 18 7) (w.extractLsb' 11 7) (w.extractLsb' 0 4)) else .error (.reservedField 0x66)
  | 0x68 => if w.extractLsb' 18 7 = 0#7 ∧ w.extractLsb' 0 11 = 0#11 then .ok (.migrCore (w.extractLsb' 11 7)) else if w.extractLsb' 18 7 = 0#7 ∧ w.extractLsb' 0 11 = 1#11 then .ok (.migrAddr (w.extractLsb' 11 7)) else if w.extractLsb' 0 25 = 2#25 then .ok .migrLaunch else .error (.reservedField 0x68)
  | 0x69 => if w.extractLsb' 0 11 = 0#11 then .ok (.home (w.extractLsb' 18 7) (w.extractLsb' 11 7)) else .error (.reservedField 0x69)
  | 0x6A => if w.extractLsb' 16 9 = 0#9 ∧ w.extractLsb' 0 11 = 0#11 then .ok (.rejoin (w.extractLsb' 11 5)) else .error (.reservedField 0x6A)
  | 0x6B => if w.extractLsb' 9 2 = 0#2 then .ok (.rcall (w.extractLsb' 23 2) (w.extractLsb' 18 5) (w.extractLsb' 16 2) (w.extractLsb' 11 5) (w.extractLsb' 4 5) (w.extractLsb' 0 4)) else if w.extractLsb' 9 2 = 2#2 then .ok (.rcallRetry (w.extractLsb' 23 2) (w.extractLsb' 18 5) (w.extractLsb' 16 2) (w.extractLsb' 11 5) (w.extractLsb' 4 5) (w.extractLsb' 0 4)) else .error (.reservedField 0x6B)
  | 0x6C => if w.extractLsb' 18 7 = 0#7 ∧ w.extractLsb' 0 11 = 0#11 then .ok (.rret (w.extractLsb' 11 7)) else .error (.reservedField 0x6C)
  | 0x6D => if w.extractLsb' 4 14 = 0#14 then .ok (.rstat (w.extractLsb' 18 7) (w.extractLsb' 0 4)) else .error (.reservedField 0x6D)
  | 0x6E => if w.extractLsb' 21 4 = 0#4 ∧ w.extractLsb' 16 2 = 0#2 ∧ w.extractLsb' 3 1 = 0#1 ∧ w.extractLsb' 0 2 = 0#2 then .ok (.barArrive (w.extractLsb' 18 3) (w.extractLsb' 11 5) (w.extractLsb' 4 7) (w.extractLsb' 2 1)) else if w.extractLsb' 21 4 = 0#4 ∧ w.extractLsb' 16 2 = 0#2 ∧ w.extractLsb' 3 1 = 0#1 ∧ w.extractLsb' 0 2 = 1#2 then .ok (.barWait (w.extractLsb' 18 3) (w.extractLsb' 11 5) (w.extractLsb' 4 7) (w.extractLsb' 2 1)) else if w.extractLsb' 21 4 = 0#4 ∧ w.extractLsb' 16 2 = 0#2 ∧ w.extractLsb' 3 1 = 0#1 ∧ w.extractLsb' 0 2 = 2#2 then .ok (.barSync (w.extractLsb' 18 3) (w.extractLsb' 11 5) (w.extractLsb' 4 7) (w.extractLsb' 2 1)) else if w.extractLsb' 21 4 = 0#4 ∧ w.extractLsb' 16 2 = 0#2 ∧ w.extractLsb' 3 1 = 0#1 ∧ w.extractLsb' 0 2 = 3#2 then .ok (.barInit (w.extractLsb' 18 3) (w.extractLsb' 11 5) (w.extractLsb' 4 7) (w.extractLsb' 2 1)) else .error (.reservedField 0x6E)
  | 0x6F => if w.extractLsb' 14 11 = 0#11 ∧ w.extractLsb' 3 8 = 0#8 then .ok (.fence (w.extractLsb' 11 3) (w.extractLsb' 2 1) (w.extractLsb' 0 2)) else .error (.reservedField 0x6F)
  | 0x70 => if w.extractLsb' 4 7 = 0#7 then .ok (.tmove (w.extractLsb' 18 7) (w.extractLsb' 11 7) (w.extractLsb' 0 4)) else .error (.reservedField 0x70)
  | 0x71 => if w.extractLsb' 4 14 = 0#14 then .ok (.tstat (w.extractLsb' 18 7) (w.extractLsb' 0 4)) else if w.extractLsb' 4 14 = 1#14 then .ok (.tstatProm (w.extractLsb' 18 7) (w.extractLsb' 0 4)) else .error (.reservedField 0x71)
  | 0x72 => if w.extractLsb' 18 7 = 0#7 then .ok (.mldw (w.extractLsb' 11 7) (w.extractLsb' 4 7) (w.extractLsb' 0 4)) else .error (.reservedField 0x72)
  | 0x73 => if w.extractLsb' 0 25 = 0#25 then .ok .mswap else .error (.reservedField 0x73)
  | 0x74 => if w.extractLsb' 18 7 = 0#7 then .ok (.mstream (w.extractLsb' 11 7) (w.extractLsb' 4 7) (w.extractLsb' 0 4)) else .error (.reservedField 0x74)
  | 0x75 => .ok (.mdrain (w.extractLsb' 18 7) (w.extractLsb' 11 7) (w.extractLsb' 4 7) (w.extractLsb' 0 4))
  | 0x76 => if w.extractLsb' 0 25 = 0#25 then .ok .mlicAcq else if w.extractLsb' 21 4 = 0#4 ∧ w.extractLsb' 0 18 = 1#18 then .ok (.mlicTry (w.extractLsb' 18 3)) else if w.extractLsb' 0 25 = 2#25 then .ok .mlicRel else if w.extractLsb' 0 18 = 3#18 then .ok (.mlicQry (w.extractLsb' 18 7)) else .error (.reservedField 0x76)
  | 0x77 => if w.extractLsb' 21 4 = 0#4 ∧ w.extractLsb' 0 18 = 0#18 then .ok (.xsigSig (w.extractLsb' 18 3)) else if w.extractLsb' 21 4 = 0#4 ∧ w.extractLsb' 0 18 = 1#18 then .ok (.xsigWait (w.extractLsb' 18 3)) else if w.extractLsb' 21 4 = 0#4 ∧ w.extractLsb' 0 18 = 2#18 then .ok (.xsigSync (w.extractLsb' 18 3)) else .error (.reservedField 0x77)
  | 0x78 => if w.extractLsb' 11 7 = 0#7 then .ok (.csrr (w.extractLsb' 18 7) (w.extractLsb' 0 11)) else .error (.reservedField 0x78)
  | 0x79 => if w.extractLsb' 18 7 = 0#7 then .ok (.csrw (w.extractLsb' 11 7) (w.extractLsb' 0 11)) else .error (.reservedField 0x79)
  | 0x7A => if w.extractLsb' 0 25 = 0#25 then .ok .eret else .error (.reservedField 0x7A)
  | 0x7B => if w.extractLsb' 4 14 = 0#14 then .ok (.cycle (w.extractLsb' 18 7) (w.extractLsb' 0 4)) else .error (.reservedField 0x7B)
  | 0x7C => if w.extractLsb' 18 7 = 0#7 then .ok (.tracem (w.extractLsb' 11 7) (w.extractLsb' 0 11)) else .error (.reservedField 0x7C)
  | 0x7D => if w.extractLsb' 8 3 = 0#3 then .ok (.stn (w.extractLsb' 18 7) (w.extractLsb' 11 7) (w.extractLsb' 4 4) (w.extractLsb' 3 1) (w.extractLsb' 0 3)) else .error (.reservedField 0x7D)
  | 0x7E => .ok (.stbm (w.extractLsb' 18 7) (w.extractLsb' 11 7) (w.extractLsb' 4 7) (w.extractLsb' 3 1) (w.extractLsb' 0 3))
  | op => .error (.illegalMajor op)

/-- The word of four bytes, least significant byte first (R3). -/
def wordOfBytes (b0 b1 b2 b3 : Byte) : Word := b3 ++ b2 ++ b1 ++ b0

/-- The decoder on bytes: the first four are the instruction word (R77). -/
def decode : List Byte → Except DecodeError Instr
  | b0 :: b1 :: b2 :: b3 :: _ => decodeWord (wordOfBytes b0 b1 b2 b3)
  | _ => .error .truncated

/-- The four bytes of a word in memory order (R3). -/
def bytesOfWord (w : Word) : List Byte := [w.extractLsb' 0 8, w.extractLsb' 8 8, w.extractLsb' 16 8, w.extractLsb' 24 8]

/-- The instruction read from a word numbered as spec/opcode_table.json numbers it. Every row has one 32-bit word. -/
def decodeTableWord (_nbits w : Nat) : Option Instr :=
  match decode (bytesOfWord (BitVec.ofNat 32 w)) with
  | .ok i => some i
  | .error _ => none

/-- The word of an instruction (R86 to R89); none for a row without a word. -/
def encode : Instr → Option Word
  | .nop => some (0x01#7 ++ 0#25)
  | .bra o => some (0x02#7 ++ 0#9 ++ o)
  | .brc p s b o => some (0x03#7 ++ p ++ s ++ b ++ o)
  | .call l o => some (0x04#7 ++ l ++ 0#6 ++ o)
  | .ret a => some (0x05#7 ++ 0#7 ++ a ++ 0#11)
  | .jtab a b => some (0x06#7 ++ 0#7 ++ a ++ b ++ 0#4)
  | .pad c l => some (0x07#7 ++ c ++ l)
  | .exit s p => some (0x08#7 ++ 0#21 ++ s ++ p)
  | .trap n => some (0x09#7 ++ 0#14 ++ n)
  | .loop c o => some (0x0A#7 ++ c ++ 0#5 ++ o)
  | .winb m k => some (0x0B#7 ++ 0#13 ++ m ++ k)
  | .swinb m k => some (0x0C#7 ++ 0#13 ++ m ++ k)
  | .live v c s b => some (0x0D#7 ++ v ++ c ++ s ++ b ++ 0#1)
  | .pause n => some (0x0E#7 ++ 0#14 ++ n)
  | .sleep a => some (0x0F#7 ++ 0#7 ++ a ++ 0#11)
  | .iadd d a b f => some (0x10#7 ++ d ++ a ++ b ++ f)
  | .isub d a b f => some (0x11#7 ++ d ++ a ++ b ++ f)
  | .imul d a b f => some (0x12#7 ++ d ++ a ++ b ++ f)
  | .imad d a b f => some (0x13#7 ++ d ++ a ++ b ++ f)
  | .imnx d a b f => some (0x14#7 ++ d ++ a ++ b ++ f)
  | .isetp p a b f => some (0x15#7 ++ 0#4 ++ p ++ a ++ b ++ f)
  | .sel d a b s p => some (0x16#7 ++ d ++ a ++ b ++ s ++ p)
  | .iaddc d a b s p => some (0x17#7 ++ d ++ a ++ b ++ s ++ p)
  | .land d a b => some (0x18#7 ++ d ++ a ++ b ++ 0#4)
  | .lor d a b => some (0x19#7 ++ d ++ a ++ b ++ 0#4)
  | .lxor d a b => some (0x1A#7 ++ d ++ a ++ b ++ 0#4)
  | .andn d a b => some (0x1B#7 ++ d ++ a ++ b ++ 0#4)
  | .shl d a b f => some (0x1C#7 ++ d ++ a ++ b ++ f)
  | .shr d a b f => some (0x1D#7 ++ d ++ a ++ b ++ f)
  | .bfx d a b f => some (0x1E#7 ++ d ++ a ++ b ++ f)
  | .bitop d a f => some (0x1F#7 ++ d ++ a ++ 0#7 ++ f)
  | .iaddi d a i => some (0x20#7 ++ d ++ a ++ i)
  | .andi d a i => some (0x21#7 ++ d ++ a ++ i)
  | .ori d a i => some (0x22#7 ++ d ++ a ++ i)
  | .xori d a i => some (0x23#7 ++ d ++ a ++ i)
  | .shi d a k n => some (0x24#7 ++ d ++ a ++ 0#4 ++ k ++ n)
  | .movi d i => some (0x25#7 ++ d ++ i)
  | .movhi d i => some (0x26#7 ++ d ++ i)
  | .isetpi p a c i => some (0x27#7 ++ 0#4 ++ p ++ a ++ c ++ i)
  | .fadd d a b f => some (0x28#7 ++ d ++ a ++ b ++ f)
  | .fmul d a b f => some (0x29#7 ++ d ++ a ++ b ++ f)
  | .ffma d a b f => some (0x2A#7 ++ d ++ a ++ b ++ f)
  | .fmnx d a b f => some (0x2B#7 ++ d ++ a ++ b ++ f)
  | .fsetp p a b f => some (0x2C#7 ++ 0#4 ++ p ++ a ++ b ++ f)
  | .fsfu d a f => some (0x2D#7 ++ d ++ a ++ 0#7 ++ f)
  | .fcvt d a g r v f => some (0x2E#7 ++ d ++ a ++ g ++ r ++ v ++ f)
  | .fclass d a f => some (0x2F#7 ++ d ++ a ++ 0#7 ++ f)
  | .hadd2 d a b f => some (0x30#7 ++ d ++ a ++ b ++ f)
  | .hmul2 d a b f => some (0x31#7 ++ d ++ a ++ b ++ f)
  | .hfma2 d a b f => some (0x32#7 ++ d ++ a ++ b ++ f)
  | .bfma2 d a b f => some (0x33#7 ++ d ++ a ++ b ++ f)
  | .dot4 d a b f => some (0x34#7 ++ d ++ a ++ b ++ f)
  | .pcvt d a b f => some (0x35#7 ++ d ++ a ++ b ++ f)
  | .mov d a f => some (0x36#7 ++ d ++ a ++ 0#7 ++ f)
  | .idx d a b f => some (0x37#7 ++ d ++ a ++ b ++ f)
  | .plop d a b f => some (0x38#7 ++ 0#4 ++ d ++ 0#4 ++ a ++ 0#4 ++ b ++ f)
  | .vote d a f => some (0x39#7 ++ d ++ a ++ 0#7 ++ f)
  | .shfl d a b f => some (0x3A#7 ++ d ++ a ++ b ++ f)
  | .redux d a f => some (0x3B#7 ++ d ++ a ++ 0#7 ++ f)
  | .pmov d a f => some (0x3C#7 ++ d ++ a ++ 0#7 ++ f)
  | .pset p f => some (0x3D#7 ++ 0#4 ++ p ++ 0#14 ++ f)
  | .ldb d a o f => some (0x40#7 ++ d ++ a ++ 0#3 ++ o ++ f)
  | .ldh d a o f => some (0x41#7 ++ d ++ a ++ 0#3 ++ o ++ f)
  | .ldw d a o f => some (0x42#7 ++ d ++ a ++ 0#3 ++ o ++ f)
  | .ldd d a o f => some (0x43#7 ++ d ++ a ++ 0#3 ++ o ++ f)
  | .ldba d a s o f => some (0x44#7 ++ d ++ a ++ s ++ o ++ f)
  | .ldha d a s o f => some (0x45#7 ++ d ++ a ++ s ++ o ++ f)
  | .ldwa d a s o f => some (0x46#7 ++ d ++ a ++ s ++ o ++ f)
  | .ldda d a s o f => some (0x47#7 ++ d ++ a ++ s ++ o ++ f)
  | .stb d a o p g => some (0x48#7 ++ d ++ a ++ 0#3 ++ o ++ p ++ g)
  | .sth d a o p g => some (0x49#7 ++ d ++ a ++ 0#3 ++ o ++ p ++ g)
  | .stw d a o p g => some (0x4A#7 ++ d ++ a ++ 0#3 ++ o ++ p ++ g)
  | .std d a o p g => some (0x4B#7 ++ d ++ a ++ 0#3 ++ o ++ p ++ g)
  | .stbl d a s o p g => some (0x4C#7 ++ d ++ a ++ s ++ o ++ p ++ g)
  | .sthl d a s o p g => some (0x4D#7 ++ d ++ a ++ s ++ o ++ p ++ g)
  | .stwl d a s o p g => some (0x4E#7 ++ d ++ a ++ s ++ o ++ p ++ g)
  | .stdl d a s o p g => some (0x4F#7 ++ d ++ a ++ s ++ o ++ p ++ g)
  | .aadd d a b s o p => some (0x50#7 ++ d ++ a ++ b ++ s ++ o ++ p)
  | .asub d a b s o p => some (0x51#7 ++ d ++ a ++ b ++ s ++ o ++ p)
  | .amins d a b s o p => some (0x52#7 ++ d ++ a ++ b ++ s ++ o ++ p)
  | .amaxs d a b s o p => some (0x53#7 ++ d ++ a ++ b ++ s ++ o ++ p)
  | .aminu d a b s o p => some (0x54#7 ++ d ++ a ++ b ++ s ++ o ++ p)
  | .amaxu d a b s o p => some (0x55#7 ++ d ++ a ++ b ++ s ++ o ++ p)
  | .aand d a b s o p => some (0x56#7 ++ d ++ a ++ b ++ s ++ o ++ p)
  | .aor d a b s o p => some (0x57#7 ++ d ++ a ++ b ++ s ++ o ++ p)
  | .axor d a b s o p => some (0x58#7 ++ d ++ a ++ b ++ s ++ o ++ p)
  | .axch d a b s o p => some (0x59#7 ++ d ++ a ++ b ++ s ++ o ++ p)
  | .acas d a b s o p => some (0x5A#7 ++ d ++ a ++ b ++ s ++ o ++ p)
  | .afadd d a b s o p => some (0x5B#7 ++ d ++ a ++ b ++ s ++ o ++ p)
  | .afmin d a b s o p => some (0x5C#7 ++ d ++ a ++ b ++ s ++ o ++ p)
  | .afmax d a b s o p => some (0x5D#7 ++ d ++ a ++ b ++ s ++ o ++ p)
  | .aincw d a b s o p => some (0x5E#7 ++ d ++ a ++ b ++ s ++ o ++ p)
  | .adecw d a b s o p => some (0x5F#7 ++ d ++ a ++ b ++ s ++ o ++ p)
  | .stn d a o p g => some (0x7D#7 ++ d ++ a ++ 0#3 ++ o ++ p ++ g)
  | .stbm d a b p g => some (0x7E#7 ++ d ++ a ++ b ++ p ++ g)
  | .migrCore a => some (0x68#7 ++ 0#7 ++ a ++ 0#11)
  | .migrAddr a => some (0x68#7 ++ 0#7 ++ a ++ 1#11)
  | .migrLaunch => some (0x68#7 ++ 2#25)
  | .home d a => some (0x69#7 ++ d ++ a ++ 0#11)
  | .rejoin b => some (0x6A#7 ++ 0#9 ++ b ++ 0#11)
  | .barArrive s i b c => some (0x6E#7 ++ 0#4 ++ s ++ 0#2 ++ i ++ b ++ 0#1 ++ c ++ 0#2)
  | .barWait s i b c => some (0x6E#7 ++ 0#4 ++ s ++ 0#2 ++ i ++ b ++ 0#1 ++ c ++ 1#2)
  | .barSync s i b c => some (0x6E#7 ++ 0#4 ++ s ++ 0#2 ++ i ++ b ++ 0#1 ++ c ++ 2#2)
  | .barInit s i b c => some (0x6E#7 ++ 0#4 ++ s ++ 0#2 ++ i ++ b ++ 0#1 ++ c ++ 3#2)
  | .fence s t m => some (0x6F#7 ++ 0#11 ++ s ++ 0#8 ++ t ++ m)
  | .ljoin a b t => some (0x60#7 ++ 0#7 ++ a ++ b ++ t)
  | .ljoinr d a b t => some (0x61#7 ++ d ++ a ++ b ++ t)
  | .lld d a o t => some (0x62#7 ++ d ++ a ++ 0#3 ++ o ++ t)
  | .lldw d a b t => some (0x63#7 ++ d ++ a ++ b ++ t)
  | .lstx d a o t => some (0x64#7 ++ d ++ a ++ 0#3 ++ o ++ t)
  | .lflush a t => some (0x65#7 ++ 0#7 ++ a ++ 0#7 ++ t)
  | .lepoch d a t => some (0x66#7 ++ d ++ a ++ 0#7 ++ t)
  | .rcall h r l a p e => some (0x6B#7 ++ h ++ r ++ l ++ a ++ 0#2 ++ p ++ e)
  | .rcallRetry h r l a p e => some (0x6B#7 ++ h ++ r ++ l ++ a ++ 2#2 ++ p ++ e)
  | .rret a => some (0x6C#7 ++ 0#7 ++ a ++ 0#11)
  | .rstat d f => some (0x6D#7 ++ d ++ 0#14 ++ f)
  | .tmove d a f => some (0x70#7 ++ d ++ a ++ 0#7 ++ f)
  | .tstat d f => some (0x71#7 ++ d ++ 0#14 ++ f)
  | .tstatProm d f => some (0x71#7 ++ d ++ 1#14 ++ f)
  | .mldw a b f => some (0x72#7 ++ 0#7 ++ a ++ b ++ f)
  | .mswap => some (0x73#7 ++ 0#25)
  | .mstream a b f => some (0x74#7 ++ 0#7 ++ a ++ b ++ f)
  | .mdrain d a b f => some (0x75#7 ++ d ++ a ++ b ++ f)
  | .mlicAcq => some (0x76#7 ++ 0#25)
  | .mlicTry p => some (0x76#7 ++ 0#4 ++ p ++ 1#18)
  | .mlicRel => some (0x76#7 ++ 2#25)
  | .mlicQry d => some (0x76#7 ++ d ++ 3#18)
  | .xsigSig s => some (0x77#7 ++ 0#4 ++ s ++ 0#18)
  | .xsigWait s => some (0x77#7 ++ 0#4 ++ s ++ 1#18)
  | .xsigSync s => some (0x77#7 ++ 0#4 ++ s ++ 2#18)
  | .csrr d n => some (0x78#7 ++ d ++ 0#7 ++ n)
  | .csrw a n => some (0x79#7 ++ 0#7 ++ a ++ n)
  | .eret => some (0x7A#7 ++ 0#25)
  | .cycle d f => some (0x7B#7 ++ d ++ 0#14 ++ f)
  | .tracem a n => some (0x7C#7 ++ 0#7 ++ a ++ n)
  | _ => none

/-! ## The hallmark (R81) -/

/-- Distance of slot 1, 2 or 3. -/
def hallDist (h : Word) (slot : Nat) : Nat := (h >>> (30 - 6 * (slot - 1))).toNat % 4

/-- A bit of the five fields of a slot: 3 stay, 2 hold A, 1 hold B, 0 uniform. -/
def hallBit (h : Word) (slot bit : Nat) : Bool := (h >>> (26 - 6 * (slot - 1) + bit)).toNat % 2 == 1

/-- WAIT_SLOT. -/
def hallWaitSlot (h : Word) : Nat := (h >>> 12).toNat % 4

/-- The flags named by WAIT_MASK. -/
def hallWaitFlags (h : Word) : List Nat := (List.range 12).filter fun k => h.getLsbD k

end Sys2Proof
end

