-- ==== Sys2Proof/Machine/State.lean ====
section
/-! DEFINITION. The state of one Jexak J8 module, as plain data, and its value at reset.
Every structure names the rules of spec/ that give its fields. Numbers that the spec counts, indexes or compares are Nat;
register contents, masks and encoded words are bit vectors. Marks: (log n) points to notes/assumptions/n.md. -/

namespace Sys2Proof.Machine

/-! ## Outcomes -/

/-- Why a step can stop with a fault of the MODEL (the device's own faults are next states, R324). -/
inductive Fault where
  /-- An instruction was executed with no group issuing it: raised by every instruction meaning when `State.cur` names no
  unit of `State.units`. Safe: no step of the machine reaches it. -/
  | noGroup
  deriving DecidableEq, Repr, Inhabited

/-- Why a step can be refused. -/
inductive Refusal where
  /-- The instruction has no meaning yet: raised by an arm of `exec`. Safe: nothing is claimed of it. -/
  | notModelled (mnemonic : String)
  deriving DecidableEq, Repr, Inhabited

/-! ## Memory accesses -/

/-- Kind of an access: load, store, atomic (by opcode), STN, STBM (R178). -/
inductive AKind where
  | load
  | store
  | atomic (op : Nat)
  | stn
  | stbm
  deriving DecidableEq, Repr, Inhabited

/-- Place of an access: a DRAM address (module, stack × 2^36 + stack-local address) or a scratchpad key (R267, R293). -/
inductive Loc where
  | dram (dev pa : Nat)
  | spad (key : Nat)
  deriving DecidableEq, Repr, Inhabited

/-- One strand's part of an access: its address, place, data, and enables, mask or compare value. -/
structure StrandAcc where
  strand : Nat
  va : Nat
  loc : Loc
  data : Nat
  aux : Nat
  deriving DecidableEq, Repr, Inhabited

/-- An access of several strands to one destination (R182); `acq` is its acquire scope, 0 for none (R186, R311). -/
structure Access where
  kind : AKind
  n : Nat
  strands : List StrandAcc
  acq : Nat := 0
  deriving DecidableEq, Repr, Inhabited

/-! ## Groups and fragments -/

/-- What a fault pending on a completion flag will raise (R65, R216, R242, R327). -/
structure FlagFault where
  code : Nat
  inner : Nat
  addr : Nat
  bodyPc : Nat
  core : Nat
  device : Nat
  desc : List Word
  progress : Nat
  home : Option (Nat × Nat)
  deriving DecidableEq, Repr, Inhabited

/-- A completion flag f0 to f11 (R65): the set bit, and the fault-pending bit with what it will raise. -/
structure Flag where
  set : Bool
  pending : Option FlagFault
  deriving DecidableEq, Repr, Inhabited

/-- The live-set declaration (R44, R71 dw2). -/
structure Live where
  vbase : Nat
  vcount : Nat
  sbase : Nat
  scount : Nat
  bar : Nat
  declared : Bool
  deriving DecidableEq, Repr, Inhabited

/-- Which register a write names, by allocation index (R57, R59, R63, R64). -/
inductive Reg where
  | vec (k : Nat)
  | scal (k : Nat)
  | twin (k : Nat)
  | pred (k : Nat)
  deriving DecidableEq, Repr, Inhabited

/-- A write not yet visible to every later instruction of its chain (R82, R83): the register, the strands written, their
values (one per strand; for a predicate, one bit per strand in the low bit), the latency class and the count k so far. -/
structure PendWrite where
  reg : Reg
  mask : Word
  vals : List Word
  cls : Nat
  k : Nat
  deriving DecidableEq, Repr, Inhabited

/-- The bundle a group has entered (R77, R78, R85): its address, its hallmark, its three slot words, the first slot that
executes in this entry, and whether the wait of the hallmark has been passed. -/
structure Bundle where
  addr : Nat
  hallmark : Word
  words : List Word
  entry : Nat
  waited : Bool
  deriving DecidableEq, Repr, Inhabited

/-- A fault to be raised (R324, R327): code, ADDR, inner code, DETAIL of a flag, the home at which it arose, DEFERRED. -/
structure FaultReq where
  code : Nat
  addr : Nat
  flag : Option (Nat × FlagFault)
  home : Option (Nat × Nat)
  deferred : Bool
  deriving DecidableEq, Repr, Inhabited

/-- Destination of a value that arrives later: registers by allocation index, a pair when `pair` (R74, R185). -/
structure Dest where
  reg : Option Reg
  pair : Bool
  uni : Bool
  deriving DecidableEq, Repr, Inhabited

/-- Values for a destination: per strand, a 64-bit result (the low word goes to the first register). -/
structure Results where
  dest : Dest
  vals : List (Nat × Nat)
  deriving DecidableEq, Repr, Inhabited

/-- Why a unit does not issue although it is resident and not halted (R318): state after an issue. -/
inductive Wait where
  | none
  /-- Inline access outstanding (R185): results that have arrived, parts still out, whether the instruction ends with it, and the flag of a
  flagged load that begins with strands performed on its core (12 for none). -/
  | inlineAccess (got : List Results) (left : Nat) (advance : Bool) (flag : Nat)
  | sleep (until_ : Nat)
  | bar (id scope token : Nat)
  /-- An arrival sent to a team anchor on another core and not yet counted (R39, R202). -/
  | barSent (id scope kind : Nat)
  | lldw (start : Nat)
  | mlic
  /-- XSIG: waiting for a signal, or held at the limit; `signalled` when the signal half of a sync has completed (R259); since when the
  present stretch counts (R260). -/
  | xsig (scope : Nat) (waiting : Bool) (signalled : Bool) (since : Nat)
  | matrix
  | query (dest : Dest)
  | flush (id : Nat)
  | callSeq
  | window (until_ : Nat)
  deriving DecidableEq, Repr, Inhabited

/-- Where a unit is (R53). -/
inductive Where where
  | resident
  | inFlight
  | queued
  | inCrucible
  | swapped
  /-- On another module (R52); `homeDev` then names that module. -/
  | away
  deriving DecidableEq, Repr, Inhabited

/-- The remote-call side of a visitor (R212 to R216). -/
structure Visitor where
  srcDev : Nat
  srcCore : Nat
  seq : Nat
  flag : Nat
  replies : Nat
  uni : Bool
  issued : Nat
  stack : Nat
  deriving DecidableEq, Repr, Inhabited

/-- Tag of a plane of matrix cells (R254). -/
structure Tag where
  bfmt : Nat
  bblk : Nat
  level : Nat
  bscale : Nat
  valid : Bool
  deriving DecidableEq, Repr, Inhabited

/-- A matrix instruction in the macro-sequencer (R247): kind 0 MLDW, 1 MSTREAM, 2 MDRAIN; flag 0 when inline. -/
structure SeqOp where
  kind : Nat
  gid : Nat
  uid : Nat
  mask : Word
  flag : Nat
  fb : Nat
  ctl : Nat
  row : Nat
  dest : Dest
  novf : Nat
  low : Nat
  /-- The scratchpad descriptors of the launch as they were at its issue (R261). -/
  maps : List DWord
  deriving DecidableEq, Repr, Inhabited

/-- Matrix state of a twin core, or its image (R244, R253, R254). Rows not listed are zero. -/
structure Matrix where
  acc : List (Nat × List Word)
  active : List (Nat × List Word)
  shadow : List (Nat × List Word)
  tagA : Tag
  tagS : Tag
  ovf : List Nat
  dirty : List Nat
  /-- The checkpoint record that holds the rows whose dirty bits are clear (log 42). -/
  record : Option Nat
  stream : Option SeqOp
  deriving DecidableEq, Repr, Inhabited

/-- Registers that travel with a unit that is not resident (R72): live registers, then the destination block. -/
structure Carried where
  v : List (Nat × List Word)
  s : List (Nat × Word)
  destV : List (Nat × List Word)
  destS : List (Nat × Word)
  full : Bool
  /-- Registers of a full image that a completion has written since the image was (R75). -/
  wrote : List Reg
  deriving DecidableEq, Repr, Inhabited

/-- One scheduling context: a whole group, a fragment of one, or a visitor (R29, R32, R212). -/
structure Group where
  uid : Nat
  gid : Nat
  launch : Nat
  team : Nat
  grp : Nat
  visitor : Option Visitor
  loc : Where
  core : Nat
  slot : Nat
  launchCore : Nat
  launchSlot : Nat
  twinned : Bool
  mask : Word
  pc : Nat
  vwb : Nat
  swb : Nat
  live : Live
  /-- p1 to p7 (R64); p0 is not stored. -/
  preds : List Word
  flags : List Flag
  anchorDev : Nat
  anchor : Nat
  rejoin : Nat
  handler : Bool
  trapPc : Nat
  trapAddr : Nat
  trapCause : Word
  /-- Stay chain (R60 to R62, R82): instructions issued in it, bypass latches b0 to b4, hold latches h0 to h2 with their age,
  the rotation pointer, writes still pending, and the ac its wait holds have lasted (R319). -/
  chainLen : Nat
  bypass : List (Option (List Word))
  holds : List (Option (Nat × List Word))
  holdPtr : Nat
  pend : List PendWrite
  chainHold : Nat
  bundle : Option Bundle
  /-- Scheduling (R139, R319, R320, R332); `holding`: its next instruction does not issue yet; `opps`: issue
  opportunities since its last issue, 64 for as many or more (R82, R317). -/
  pauseEnd : Nat
  age : Nat
  opps : Nat
  holding : Bool
  halting : Bool
  halted : Bool
  wait : Wait
  /-- Memory side: what the instruction at pc has still to access, one entry a place, resolved once (R45, R49), pending errors of posted operations, oldest first, each with its place in the order of arrival (R188),
  the error of a held release store (R188), the highest window of a cross-device posted operation on this core (R310), flags
  of flagged acquire loads (R186), a fault found at a home (R47). -/
  visits : List Access
  postErrs : List (Nat × Nat × Nat)
  deferred : Option (Nat × Nat)
  lastWindow : Option Nat
  acqFlags : List Nat
  homeFault : Option FaultReq
  /-- Own joins since arrival on this die (R232): cells (offset), overflow, region bases joined; cells to be joined at the
  destination before admission. -/
  joinList : List Nat
  joinOver : Bool
  joinRegions : List Nat
  joinWait : Nat
  /-- Matrix image carried while the licence is given up (R255, R256). -/
  image : Option Matrix
  msRows : Nat
  msFlag : Nat
  /-- Resume block (R331) read back at re-entry: 0 none, 1 BAR wait, 2 XSIG wait; barrier id; scope; token. -/
  resume : Nat × Nat × Nat × Nat
  /-- Posted operations outstanding at the halt (R312). -/
  haltPosted : Nat
  carried : Option Carried
  /-- Header fields kept with the unit (R71): its region id, the number of its last ingot; the module that holds its launch (0 this
  one), R52, R281. -/
  region : Nat
  seq : Nat
  homeDev : Nat
  /-- Flags whose call or move records are kept on another module: (flag, module) (R211, R243). Causes of asynchronous traps that came
  from one: (flag, cause, TRAPADDR) (R323). -/
  flagDevs : List (Nat × Nat)
  causes : List (Nat × Nat × Nat)
  /-- Tokens of barrier arrivals (R203): barrier id, generation. -/
  tokens : List (Nat × Nat)
  /-- Strands of the load under way whose pages are not resident: zero and p7 = 0 once the load is over (R184, R324). -/
  lateAbsent : Word
  /-- Saved in an anchored slot, into which it goes back (R34, R54; log 41). -/
  inAnchor : Bool
  /-- On its way to its rejoin record (R36, R201). -/
  rejoining : Bool
  /-- The flags that its `EXIT` or `REJOIN` has found owed to it and waits for (R136, R201). -/
  awaited : List Nat
  deriving DecidableEq, Repr, Inhabited

/-- A rejoin record (R35, R36). `lead` is the lead fragment's context once it has arrived; the rest gathers what the arriving
fragments carry into the merged unit. -/
structure Rejoin where
  bar : Nat
  parent : Word
  arrived : Word
  outerDev : Nat
  outerAnchor : Nat
  outerBar : Nat
  lead : Option Group
  uids : List Nat
  errs : List (Nat × Nat × Nat)
  joins : List Nat
  joinOver : Bool
  joinRegions : List Nat
  lastWindow : Option Nat
  deriving DecidableEq, Repr, Inhabited

/-- A resident slot of a core with its allocation (R14, R15, R34, R57, R59, R75). -/
structure Slot where
  core : Nat
  slot : Nat
  gid : Nat
  launch : Nat
  visitor : Bool
  valloc : Nat
  salloc : Nat
  v : List (List Word)
  s : List Word
  vdirty : List Bool
  sdirty : List Bool
  /-- The checkpoint record that holds the registers whose dirty bits are clear (log 42). -/
  record : Option Nat
  /-- Predicate bits p1 to p7 written by fragments that have arrived (R36). -/
  preds : List Word
  records : List Rejoin
  deriving DecidableEq, Repr, Inhabited

/-- A write to x0-x7 in the present ac (R63): which register, by the upper group or the lower one, the strands and their values. -/
structure XWrite where
  reg : Nat
  upper : Bool
  mask : Word
  vals : List Word
  deriving DecidableEq, Repr, Inhabited

/-- The slot pair of two twinned groups (R63, R259, R260): x0 to x7, the writes of the ac `lateAt`, which the twin does not yet see, and
for the lower and the upper side the signals sent, the signals consumed, the time already counted against the XSIG limit and when the
present count began. -/
structure TwinWindow where
  lower : Nat
  slot : Nat
  launch : Nat
  gidLower : Nat
  gidUpper : Nat
  x : List (List Word)
  late : List XWrite
  lateAt : Nat
  sentL : Word
  usedL : Word
  sentU : Word
  usedU : Word
  timeL : Nat
  timeU : Nat
  deriving DecidableEq, Repr, Inhabited

/-- The licence of a twin pair (R245, R246, R255): its lower core, the holding group and licensed core, the waiters in order
(unit, core), and whether a save or a kill holds the licence back. -/
structure TwinPair where
  lower : Nat
  holder : Option Nat
  core : Nat
  waiters : List (Nat × Nat)
  saving : Bool
  dying : Bool
  /-- After a hand-over, the twin of the core that gave the licence up: its waiters come first (R255; DEDUCED, log 70). -/
  prefer : Option Nat
  deriving DecidableEq, Repr, Inhabited

/-- Matrix array and sequencer of a twin core (R244, R247); cores not listed hold the zero image and an idle sequencer. -/
structure MatArray where
  core : Nat
  m : Matrix
  ops : List SeqOp
  deriving DecidableEq, Repr, Inhabited

/-! ## Messages -/

/-- Effective values of a region node as read when a launch is created (R42, R43). -/
structure Node where
  addr : Nat
  regionId : Nat
  priority : Nat
  supervisor : Bool
  policy : Nat
  budgetCores : Nat
  budgetGroups : Nat
  quotaV : Nat
  quotaS : Nat
  quotaSpad : Nat
  quotaLat : Nat
  barTimeout : Nat
  hbeatInt : Nat
  persistent : Bool
  replyTimeout : Nat
  trapVector : Nat
  faultQueue : Nat
  checkpoint : Nat
  privateBase : Nat
  privateSize : Nat
  latticeTable : Nat
  deriving DecidableEq, Repr, Inhabited

/-- An entry of the remote table (R100). -/
structure RemoteEntry where
  offset : Int
  payload : Nat
  reply : Nat
  valid : Bool
  deriving DecidableEq, Repr, Inhabited

/-- A launch context (R314), from its creation until its completion record. -/
structure Launch where
  idx : Nat
  tag : DWord
  qp : Nat
  /-- The node and its ancestors, node first, root last (R43, R325). -/
  chain : List Node
  ptRoot : DWord
  kernel : Nat
  entry : Nat
  valloc : Nat
  salloc : Nat
  teamGroups : Nat
  teams : Nat
  cores : Nat
  stackKind : Bool
  twin : Bool
  args : List Word
  trapVec : Nat
  rTimeout : Nat
  spads : List DWord
  remote : List RemoteEntry
  regions : List Nat
  traceBase : Nat
  traceRecs : Nat
  traceTail : Nat
  traceLost : Nat
  /-- Teams not yet placed; whether the launch has been killed and with which code; whether it is pre-empted; when it arrived
  at the distributor (R315); whether its completion record has been written. -/
  toPlace : List Nat
  killed : Option Nat
  preempted : Bool
  lastWindow : Option Nat
  ended : Bool
  /-- Groups of another module work here under a record of their launch (log 40): that module, and its number for the launch. -/
  guestOf : Option (Nat × Nat)
  deriving DecidableEq, Repr, Inhabited

/-- A remote call as it travels (R210, R220): `entry` is the address of the entry instruction; `launch` is a REGION_ID when `srcDev` is
not 0 (another module). -/
structure CallMsg where
  launch : Nat
  gid : Nat
  team : Nat
  grp : Nat
  entry : Nat
  payload : List (List Word)
  replies : Nat
  seq : Nat
  flag : Nat
  mask : Word
  uni : Bool
  srcDev : Nat
  srcCore : Nat
  dstCore : Nat
  /-- The module address that the call is for (R284). -/
  pa : Nat
  deriving DecidableEq, Repr, Inhabited

/-- A reply: its registers, or a body fault, or a bare code such as 0x22 (R214 to R216, R220). -/
structure Reply where
  dstDev : Nat
  dstCore : Nat
  seq : Nat
  flag : Nat
  uni : Bool
  vals : List (List Word)
  fault : Option FlagFault
  deriving DecidableEq, Repr, Inhabited

/-- What a message carries (R23, R344). -/
inductive Payload where
  /-- An ingot with the access it carries (R47), its destination and flag. -/
  | ingot (u : Group) (acc : Option Access) (dest : Dest) (flag : Nat)
  /-- A group sent back with a fault by another module (R55, R281, R345); `bare` for an ingot that carried no access. -/
  | refuse (gid : Nat) (mask : Word) (bare : Bool) (code addr : Nat)
  | posted (id : Nat) (acc : Access) (window : Option Nat) (region : Nat)
  | ack (id : Nat) (err : Option Nat)
  | call (c : CallMsg)
  | retry (c : CallMsg)
  | reply (r : Reply)
  | spad (uid bank : Nat) (acc : Access) (dest : Dest)
  /-- The part of a flagged load that a bank unit of another core performs (R195, R299): the load, the bank, the access. -/
  | spadLoad (load bank : Nat) (acc : Access)
  | barArrive (gid : Nat) (mask : Word) (b scope kind count : Nat)
  | barRelease (gid : Nat) (mask : Word) (fault : Bool)
  /-- Strands that have exited, for a record on another core; with barrier 0 for the module that holds the launch, which is told once the posted
  operations `after` have been acknowledged (R37, R308). -/
  | exitRemove (gid core bar : Nat) (mask : Word) (after : List Nat)
  /-- Questions of `RSTAT` and `TSTAT`, and a retry, to the issuing core (R220, R221, R243). -/
  | askCall (gid flag : Nat) (mask : Word) (dest : Dest)
  | askMove (gid flag : Nat) (mask : Word) (prom : Bool) (dest : Dest)
  | askRetry (payload : List (List Word)) (entry gid flag : Nat) (mask : Word)
  /-- A cause of an asynchronous trap that follows its group to another module (R323): flag, cause, TRAPADDR. -/
  | cause (gid flag : Nat) (mask : Word) (code addr : Nat)
  | licRelease (pair gid : Nat)
  | joinCells (uid die : Nat) (cells : List (Nat × Nat))
  | round (base k die src : Nat) (cells : List (Nat × Nat))
  | flush (id base die src : Nat) (cells : List (Nat × Nat))
  | move (id : Nat)
  | marker (id core : Nat)
  /-- A window-overrun mark (R311): the region, the window and the address of the late operation. -/
  | overrun (region window addr : Nat)
  | completion (gid flag : Nat) (mask : Word) (res : List Results) (fault : Option FlagFault)
  deriving DecidableEq, Repr, Inhabited

/-- Traffic classes of the fabric (R23). -/
inductive MsgClass where
  | request
  | reply
  | bulk
  | exchange
  deriving DecidableEq, Repr, Inhabited

/-- A message in flight (R23): source core (or 1024 + die for an engine, replica or memory-side unit, or 2048 + twice a module + the port
that it came in by), destination die. `lent` is the launch
of the group that it is about, where it goes to another module (log 40). -/
structure Msg where
  id : Nat
  cls : MsgClass
  src : Nat
  dst : Nat
  body : Payload
  lent : Option Launch := none
  deriving DecidableEq, Repr, Inhabited

/-- A posted operation not yet acknowledged, or a release store held on its core (R188, R189, R196, R310). -/
structure Posted where
  id : Nat
  core : Nat
  slot : Nat
  gid : Nat
  owners : List Nat
  launch : Nat
  dev : Nat
  die : Nat
  addr : Nat
  sentAt : Nat
  window : Option Nat
  /-- A held release store: its access and scope, not yet sent. -/
  held : Option (Access × Nat)
  after : List Nat
  /-- Held operations of the same thread to the same die, which are sent before it (R299). -/
  behind : List Nat
  deriving DecidableEq, Repr, Inhabited

/-- A flagged load not performed by migration (R185): the part of its access that is performed at its completion, the parts sent to bank
units of other cores that are still out, the values that these have answered, the first error of one, and the strands whose pages are not
resident. -/
structure FLoad where
  id : Nat
  gid : Nat
  core : Nat
  flag : Nat
  mask : Word
  acc : Access
  dest : Dest
  left : Nat
  got : List (Nat × Nat)
  err : Option (Nat × Nat)
  absent : Word
  spad : Bool
  deriving DecidableEq, Repr, Inhabited

/-- A call record (R211). -/
structure Call where
  id : Nat
  gid : Nat
  launch : Nat
  mask : Word
  flag : Nat
  core : Nat
  seq : Nat
  exDev : Nat
  exCore : Nat
  entry : Nat
  rb : Nat
  replies : Nat
  vwb : Nat
  swb : Nat
  uni : Bool
  deadline : Nat
  overdue : Bool
  retried : Bool
  delivered : Bool
  /-- Its reply is on its way to its group: the record goes when the flag clears. -/
  answered : Bool
  pa : Nat
  deriving DecidableEq, Repr, Inhabited

/-- A tile move recorded on a flag (R238 to R243, R291). `stage` 0 in flight to its engine, 1 queued, 2 working, 3 killed. -/
structure Move where
  id : Nat
  gid : Nat
  launch : Nat
  mask : Word
  flag : Nat
  core : Nat
  slot : Nat
  uid : Nat
  engine : Nat
  desc : List Word
  progress : Nat
  promise : Nat
  missed : Bool
  delivered : Bool
  stage : Nat
  /-- Posted operations and flagged loads the first read (ACQ) or the last write (REL) waits for (R240), and the highest window of a
  cross-device posted operation before it (R310). -/
  after : List Nat
  window : Option Nat
  deriving DecidableEq, Repr, Inhabited

/-- An entry of a reply cache (R219). `reply` is none while executing. -/
structure CacheEntry where
  id : Nat
  stack : Nat
  dev : Nat
  core : Nat
  seq : Nat
  reply : Option Reply
  attached : Nat
  doneAt : Nat
  deriving DecidableEq, Repr, Inhabited

/-- A watermark of a reply cache (R219). -/
structure Watermark where
  stack : Nat
  dev : Nat
  core : Nat
  seq : Nat
  lastFree : Nat
  deriving DecidableEq, Repr, Inhabited

/-- What waits at a core: a unit already formed (its uid) from a given source core (R48). -/
structure QItem where
  core : Nat
  uid : Nat
  src : Nat
  /-- Bytes of its image, which it takes in a crucible. -/
  size : Nat
  deriving DecidableEq, Repr, Inhabited

/-! ## Lattice -/

/-- A live lattice region with its rounds (R285 to R290). -/
structure LatRegion where
  base : Nat
  size : Nat
  typ : Nat
  butterfly : Bool
  period : Nat
  t0 : Nat
  /-- Next round number; its earliest start; deliveries of the round in flight; start times of the rounds completed under the present schedule,
  newest first; whether the round in flight began under an earlier one; the start of the most recent complete sweep. -/
  round : Nat
  nextAt : Nat
  left : Nat
  started : Option Nat
  done : List Nat
  old : Bool
  sweep : Option Nat
  deriving DecidableEq, Repr, Inhabited

/-- A cell of a replica above its type's bottom (R223, R233, R287): die, offset, value, its dirty bits (the partner dies still to be sent it,
each with the time at which the bit was set, 0 for a bit set by a round's delivery), and the time of its last change at this replica. Cells not
listed hold the bottom. -/
structure LatCell where
  key : Nat
  val : Nat
  dirty : List (Nat × Nat)
  changed : Nat
  deriving DecidableEq, Repr, Inhabited

/-- An LFLUSH in progress (R230): the unit that waits, its region and the deliveries still out. `uid` 0 for the flush a departure
performs (R232). -/
structure Flush where
  id : Nat
  uid : Nat
  base : Nat
  left : Nat
  deriving DecidableEq, Repr, Inhabited

/-! ## Launches, teams, regions -/

/-- One barrier of a team (R203, R334, R364). -/
structure Bar where
  n : Nat
  n0 : Nat
  arrived : Nat
  groups : List Nat
  /-- Strands of groups that have arrived only in part: (group, strands covered). -/
  part : List (Nat × Word)
  gen : Nat
  firstAt : Option Nat
  /-- Group, address of the BAR and scope of the arrival that started the timer. -/
  first : Nat × Nat × Nat
  /-- Pre-empted time not to be counted (R334). -/
  skipped : Nat
  deriving DecidableEq, Repr, Inhabited

/-- A resident team (R38, R39): its cores, the team anchor core, its groups not yet retired, its 32 barriers. -/
structure Team where
  launch : Nat
  idx : Nat
  cores : List Nat
  anchor : Nat
  members : List Nat
  bars : List Bar
  deriving DecidableEq, Repr, Inhabited

/-- Ownership of scratchpad bytes (R268): level 0 unit, 1 cluster, 2 die; the index of that scratchpad; a byte range. -/
structure Owner where
  level : Nat
  index : Nat
  base : Nat
  size : Nat
  region : Nat
  launch : Nat
  deriving DecidableEq, Repr, Inhabited

/-- Heartbeat deadline of a persistent region (R335). -/
structure Heart where
  region : Nat
  deadline : Nat
  last : Nat
  deriving DecidableEq, Repr, Inhabited

/-- A unit swapped out to a fault queue (R324, R328): domain node address, entry index (modulo 2^32), the unit's own part, and the tile
move that its fault 0x51 came from (R242): its flag and what the flag raised. -/
structure Parked where
  domain : Nat
  index : Nat
  qaddr : Nat
  u : Group
  move : Option (Nat × FlagFault)
  deriving DecidableEq, Repr, Inhabited

/-- A fault, page request or watchdog entry that waits for room in its queue (R324, R326). -/
structure HeldEntry where
  domain : Nat
  qaddr : Nat
  ptRoot : DWord
  head : List Byte
  image : List Byte
  tag : Nat
  qp : Option Nat
  region : Nat
  code : Nat
  uid : Option Nat
  /-- For a fault of a unit: the destination block of the faulting instruction, and the tile move of a fault 0x51. -/
  dest : Bool × List Nat
  move : Option (Nat × FlagFault)
  /-- Launches whose completion records come first: the killed ones, for an entry with KILLED (R329, R364). -/
  after : List Nat
  deriving DecidableEq, Repr, Inhabited

/-- A pre-emption in progress or in force (R332, R333). -/
structure Preempt where
  node : Nat
  qp : Nat
  tag : DWord
  since : Nat
  haltTold : Bool
  saveTold : Bool
  deriving DecidableEq, Repr, Inhabited

/-- A unit or an anchored slot saved in a checkpoint slot (R330): where, and the part of it that is not in the record. -/
structure Saved where
  addr : Nat
  mapAddr : Nat
  holder : Bool
  kind : Nat
  launch : Nat
  ptRoot : DWord
  unit : Option Group
  slot : Option Slot
  used : Bool
  /-- It holds the barrier blocks of its team (R331, R332). -/
  bars : Bool
  deriving DecidableEq, Repr, Inhabited

/-! ## Host, peers, services -/

/-- A completion record (R343). -/
structure Completion where
  kind : Nat
  opcode : Nat
  reason : Nat
  region : Nat
  tag : DWord
  detail : Nat
  time : Nat
  deriving DecidableEq, Repr, Inhabited

/-- A queue pair with its rings and doorbell block (R340, R341). `busy` while a command of it is carried out. -/
structure QueuePair where
  id : Nat
  cmdBase : Nat
  physical : Bool
  cmdCount : Nat
  cqAddr : Nat
  cqKey : Nat
  cqCount : Nat
  cmdTail : Nat
  cmdHead : Nat
  cqHead : Nat
  cqTail : Nat
  held : List Completion
  busy : Bool
  error : Bool
  deriving DecidableEq, Repr, Inhabited

/-- What the module sends to the outside on the host's side. -/
inductive HostOut where
  | setupReply (qp doorbell : Nat)
  /-- The 32 bytes of a completion record at its place in the ring (R343). -/
  | completion (qp index : Nat) (bytes : List Byte)
  | cqTail (qp tail : Nat)
  | readData (qp : Nat) (bytes : List Byte)
  | writeAck (qp : Nat)
  | nakAccess (qp : Nat)
  | nakInvalid (qp : Nat)
  | broken (qp : Nat)
  deriving DecidableEq, Repr, Inhabited

/-- A Griern frame (R344): header fields, and the message it carries; `len` is the length of its payload. -/
structure Frame where
  version : Nat
  ftype : Nat
  cls : Nat
  srcDev : Nat
  dstDev : Nat
  session : Nat
  seq : Nat
  ackSeq : Nat
  len : Nat
  w : Nat
  body : Option Msg
  deriving DecidableEq, Repr, Inhabited

/-- A frame on a port (R339, R344): the port, the 32 bytes of its header, the message that its payload is. -/
structure PortFrame where
  port : Nat
  head : List Byte
  body : Option Msg
  deriving DecidableEq, Repr, Inhabited

/-- One direction and class of the path to a peer (R344): next sequence number to send and to expect, frames held with the time
of the last send and the number of sends, and whether the path has failed. -/
structure Path where
  dev : Nat
  cls : Nat
  sendSeq : Nat
  recvSeq : Nat
  unacked : List (Frame × Nat × Nat)
  failed : Bool
  deriving DecidableEq, Repr, Inhabited

/-- An entry of the device table (R345). -/
structure Peer where
  dev : Nat
  port : Nat
  valid : Bool
  ip : List Byte
  deriving DecidableEq, Repr, Inhabited

/-- A fabric link (R337, R338, R355): state 0 full, 1 half, 2 failed; spare lanes left in each direction; the directions at half their
lanes; corrected errors per lane in the present window; lanes marked lasting; retries of the flit on the link; when the present window
began. A lane is numbered 256 × its direction + its place. -/
structure Link where
  state : Nat
  spares : Nat × Nat
  half : List Nat
  errors : List (Nat × Nat)
  lasting : List Nat
  retries : List (Nat × Nat)
  windowAt : Nat
  deriving DecidableEq, Repr, Inhabited

/-- A cached translation (R280): the buffer (core, 1024 + die × 4 + cluster for a walker, 1088 + die for an engine), the root, the
page's virtual base and size, and the leaf entry as it was read. -/
structure TlbEntry where
  buffer : Nat
  root : DWord
  base : Nat
  size : Nat
  leaf : DWord
  deriving DecidableEq, Repr, Inhabited

/-- A translation invalidation not yet complete (R280): buffers that have still to acknowledge. -/
structure Inval where
  id : Nat
  qp : Nat
  tag : DWord
  base : Nat
  pages : Nat
  left : List Nat
  deriving DecidableEq, Repr, Inhabited

/-- A page move (R284): whether the copy is complete, and the cores whose marker is still to come; requests that the new home holds stay in
the fabric. -/
structure PageMove where
  id : Nat
  qp : Nat
  tag : DWord
  va : Nat
  size : Nat
  oldPa : Nat
  newPa : Nat
  copied : Bool
  cores : List Nat
  deriving DecidableEq, Repr, Inhabited

/-- A command that is carried out over time (R271, R329, R345, R350, R352): its opcode, what it works on, two further operands, what it
still waits for (dies whose self-test is out, or launches to end), and for PEER the entry to be written. -/
structure PendCmd where
  qp : Nat
  tag : DWord
  opcode : Nat
  region : Nat
  target : Nat
  arg : Nat
  arg2 : Nat
  left : List Nat
  peer : Option Peer
  deriving DecidableEq, Repr, Inhabited

/-- State that one core keeps beside its slots: next ingot and call sequence numbers (R71, R219), times at which the last call
numbers were assigned, promises booked per engine (R291), the spill allocation (R271), rc count of the issue order. -/
structure CoreState where
  core : Nat
  ingotSeq : Nat
  callSeq : Nat
  callTimes : List (Nat × Nat)
  bookings : List (Nat × Nat)
  spillBase : Nat
  spillSize : Nat
  fresh : Bool
  status : Nat
  deriving DecidableEq, Repr, Inhabited

/-- What the environment chooses (the model's own fields, log 3): the events to come, the rc each step lasts, the cores for the next
teams, the frames standing on the ports, the partitions served next. -/
structure Env where
  agenda : List Instr
  elapsed : List Nat
  places : List (List Nat)
  wire : List PortFrame
  seats : List Nat
  deriving DecidableEq, Repr, Inhabited

/-- The instruction being issued: which unit, its hallmark fields, and the flags its hallmark wait names (R81, R84, R85). `held` is
set when the instruction does not issue yet (R65, R186, R205, R319). -/
structure Issue where
  uid : Nat
  uni : Bool
  stay : Bool
  holdA : Bool
  holdB : Bool
  dist : Nat
  waitMask : List Nat
  held : Bool
  deriving DecidableEq, Repr, Inhabited

/-- An element of error handling kept per DRAM row (R354): stack, bank, row, times of corrected errors in the window, whether the row is lasting
and still in use. -/
structure RowCount where
  stack : Nat
  bank : Nat
  row : Nat
  times : List Nat
  lasting : Bool
  deriving DecidableEq, Repr, Inhabited

end Sys2Proof.Machine

namespace Sys2Proof.Machine

/-- The state of one module. -/
structure State where
  /-- Time (R25, R263, R309, R346): the reference counter, thousandths of ac counted on each die 0-15, PTIME in ns and in
  millionths of ns, whether it has been set, the servo's slew in ppm, the estimated offset, since when that has been within 100 ns, the lock; the
  model's own: counter of free values (log 4), counter of steps and the partition served last (log 3). -/
  now : Nat
  acMilli : List Nat
  ptime : Nat
  ptimeFrac : Nat
  ptimeSet : Bool
  slew : Int
  offset : Int
  lockSince : Option Nat
  locked : Bool
  freeCtr : Nat
  turn : Nat
  lastSeat : Nat
  /-- Pipes that have issued: pipe, ac of its last issue, first ac at which it is not occupied (R317). -/
  pipes : List (Nat × Nat × Nat)
  env : Env
  cur : Issue
  /-- Memories (R265 to R273, R287): DRAM bytes by stack × 2^36 + stack-local address, poisoned granules; scratchpad bytes by
  key, poisoned bank words, ownership; lattice cells and regions. -/
  dram : List Host.Cell
  dramPoison : List Nat
  spad : List Host.Cell
  spadPoison : List Nat
  owners : List Owner
  lat : List LatCell
  latRegions : List LatRegion
  flushes : List Flush
  /-- Groups, slots and what they use. -/
  nextId : Nat
  launches : List Launch
  teams : List Team
  units : List Group
  slots : List Slot
  twins : List TwinWindow
  pairs : List TwinPair
  arrays : List MatArray
  cores : List CoreState
  /-- The fabric: messages in flight, arrival queues, crucibles (R23, R48); outstanding asynchronous work (R65, R188, R211,
  R243); reply caches (R219). -/
  net : List Msg
  queue : List QItem
  crucible : List QItem
  posted : List Posted
  floads : List FLoad
  calls : List Call
  moves : List Move
  cache : List CacheEntry
  watermarks : List Watermark
  /-- Faults and pre-emption (R324 to R335). -/
  parked : List Parked
  heldEntries : List HeldEntry
  preempts : List Preempt
  saved : List Saved
  hearts : List Heart
  pageReqs : List (Nat × Nat)
  /-- Regions marked overrun, each with the window and the address of the late operation (R311, R327). -/
  overruns : List (Nat × Nat × Nat)
  /-- Translation (R280, R284). -/
  tlb : List TlbEntry
  invals : List Inval
  pageMoves : List PageMove
  /-- Frames that their home takes no atomics for, since an invalidation has cleared AT (R280): virtual base, module address, size. -/
  noAtomic : List (Nat × Nat × Nat)
  /-- Host and peers (R340 to R347): session root address and its PT_ROOT, session identifier, device number; window length in µs. -/
  qps : List QueuePair
  hostOut : List HostOut
  sessionRoot : Option Nat
  ptRoot : DWord
  sessionId : Nat
  devNum : Nat
  window : Nat
  peers : List Peer
  paths : List Path
  frameOut : List PortFrame
  mismatched : List (Nat × Nat)
  /-- Services (R337, R338, R348 to R355): level; loops lost; power states of the sixteen dies (0 on, 1 parked, 2 off, 3
  failed); replicas in service; links; corrected-error counts and spare rows used; degraded stacks; commands carried out over time. -/
  service : Nat
  topLost : Bool
  bottomLost : Bool
  dies : List Nat
  replicas : List Bool
  links : List Link
  rowCounts : List RowCount
  spareRows : List (Nat × Nat)
  degraded : List Nat
  pending : List PendCmd
  deriving DecidableEq, Repr, Inhabited

/-- A void issue context: no unit issues. Group number 0 is never given to a unit. -/
def Issue.void : Issue :=
  { uid := 0, uni := false, stay := false, holdA := false, holdB := false, dist := 0, waitMask := [], held := false }

/-- The links of R21 in the numbering of R355: vertical 0-31, ring 32-39, I/O 40-41, bond 42-45; spares by R337. -/
def Link.fresh (spares : Nat) : Link := { state := 0, spares := (spares, spares), half := [], errors := [], lasting := [], retries := [], windowAt := 0 }

/-- The module right after device reset (R25, R309, R341, R345, R348): service level S0, no session, no launch, no group. The
values that a field has because the manual gives none are named in the log (entries 5 to 8). -/
def State.reset : State :=
  { now := 0, acMilli := List.replicate 16 0, ptime := 0, ptimeFrac := 0, ptimeSet := false, slew := 0, offset := 0,
    lockSince := none, locked := false,
    freeCtr := 0, turn := 0, lastSeat := 0, pipes := [],
    env := { agenda := [], elapsed := [], places := [], wire := [], seats := [] },
    cur := Issue.void,
    dram := [], dramPoison := [], spad := [], spadPoison := [], owners := [],
    lat := [], latRegions := [], flushes := [],
    nextId := 1, launches := [], teams := [], units := [], slots := [], twins := [], pairs := [], arrays := [], cores := [],
    net := [], queue := [], crucible := [], posted := [], floads := [], calls := [], moves := [], cache := [], watermarks := [],
    parked := [], heldEntries := [], preempts := [], saved := [], hearts := [], pageReqs := [], overruns := [],
    tlb := [], invals := [], pageMoves := [], noAtomic := [],
    qps := [], hostOut := [], sessionRoot := none, ptRoot := 0, sessionId := 0, devNum := 0, window := 16,
    peers := [], paths := [], frameOut := [], mismatched := [],
    service := 0, topLost := false, bottomLost := false, dies := List.replicate 16 0, replicas := List.replicate 16 true,
    links := List.replicate 40 (Link.fresh 4) ++ List.replicate 2 (Link.fresh 2) ++ List.replicate 4 (Link.fresh 0),
    rowCounts := [], spareRows := [], degraded := [], pending := [] }

end Sys2Proof.Machine
end

