-- ==== Sys2Proof/Machine/Bits.lean ====
section
/-! DEFINITION. Bit fields, strand masks, signed readings, byte order and keyed lists: the helpers of R2, R3, R29 and R76 that
every meaning uses. -/

namespace Sys2Proof.Machine

/-! ## Numbers as bits (R2, R76) -/

/-- Bits [lo + n − 1 : lo] of x (R2). -/
def bits (x lo n : Nat) : Nat := x / 2 ^ lo % 2 ^ n

/-- Bit k of x (R2). -/
def bit (x k : Nat) : Bool := x.testBit k

/-- `Sext(x, n)` (R76). -/
def sext (x n : Nat) : Int := if x % 2 ^ n < 2 ^ (n - 1) then ((x % 2 ^ n : Nat) : Int) else ((x % 2 ^ n : Nat) : Int) - 2 ^ n

/-- `Sat(x, lo, hi)` (R76). -/
def sat (x lo hi : Int) : Int := if x < lo then lo else if hi < x then hi else x

/-- `SatS(y)` (R76). -/
def satS (y : Int) : Int := sat y (-(2 ^ 31)) (2 ^ 31 - 1)

/-- `SatU(y)` (R76). -/
def satU (y : Int) : Int := sat y 0 (2 ^ 32 - 1)

/-- The 32-bit word of an integer, modulo 2^32. -/
def wordOf (z : Int) : Word := BitVec.ofInt 32 z

/-- A word read as a signed integer. -/
def sgn (w : Word) : Int := w.toInt

/-- x as an address of n bits: modulo 2^n. -/
def wrap (n : Nat) (z : Int) : Nat := (z % (2 ^ n : Int)).toNat

/-- 0 or 1. -/
def bitNat (b : Bool) : Nat := if b then 1 else 0

/-- The number whose bit k is element k of the list. -/
def natOfBits : List Bool → Nat
  | [] => 0
  | b :: bs => bitNat b + 2 * natOfBits bs

/-! ## Strand masks (R29) -/

/-- All 32 strands. -/
def allStrands : Word := 0xFFFFFFFF#32

/-- Strand i lies in mask m. -/
def inMask (m : Word) (i : Nat) : Bool := m.getLsbD i

/-- The strands of a mask, ascending. -/
def strands (m : Word) : List Nat := (List.range 32).filter (inMask m)

/-- `Lowest(m)` (R76); 0 for the empty mask. -/
def lowest (m : Word) : Nat := (strands m).head?.getD 0

/-- The mask of the strands that p names. -/
def maskOf (p : Nat → Bool) : Word := BitVec.ofNat 32 (natOfBits ((List.range 32).map p))

/-- The mask of a list of strands. -/
def maskOfList (l : List Nat) : Word := maskOf fun i => l.contains i

/-- Number of strands of a mask. -/
def population (m : Word) : Nat := (strands m).length

/-- 32 values, one per strand. -/
def perStrand (f : Nat → Word) : List Word := (List.range 32).map f

/-- The value of strand i in a list of one value per strand. -/
def laneAt (l : List Word) (i : Nat) : Word := l.getD i 0

/-- `new` on the strands of m, `old` elsewhere (R58). -/
def mergeLanes (m : Word) (new old : List Word) : List Word :=
  perStrand fun i => if inMask m i then laneAt new i else laneAt old i

/-! ## Bytes (R3) -/

/-- The n bytes of x, least significant first. -/
def bytesLE : Nat → Nat → List Byte
  | 0, _ => []
  | n + 1, x => BitVec.ofNat 8 x :: bytesLE n (x / 256)

/-- The number that a list of bytes stores, least significant first. -/
def natLE : List Byte → Nat
  | [] => 0
  | b :: bs => b.toNat + 256 * natLE bs

/-- A field of a record or message of bytes. -/
def field (bs : List Byte) (off n : Nat) : Nat := natLE ((bs.drop off).take n)

/-- x rounded up to a multiple of n. -/
def roundUp (x n : Nat) : Nat := (x + n - 1) / n * n

/-- Zero bytes that pad a list to a multiple of n bytes. -/
def padTo (n : Nat) (l : List Byte) : List Byte := l ++ List.replicate (roundUp l.length n - l.length) 0

/-! ## Lists -/

/-- Element k replaced by f of it. -/
def modAt {α : Type} (l : List α) (k : Nat) (f : α → α) : List α := l.modify k f

/-- Element k replaced by f of it, in a list that reads as d beyond its end. -/
def setAt {α : Type} (d : α) : List α → Nat → (α → α) → List α
  | [], 0, f => [f d]
  | [], k + 1, f => d :: setAt d [] k f
  | a :: t, 0, f => f a :: t
  | a :: t, k + 1, f => a :: setAt d t k f

/-- Value under a key, or a default. -/
def lookupD {α : Type} (l : List (Nat × α)) (k : Nat) (d : α) : α := (l.lookup k).getD d

/-- The list with key k bound to v, sorted by key, one entry a key. -/
def insertKey {α : Type} (k : Nat) (v : α) : List (Nat × α) → List (Nat × α)
  | [] => [(k, v)]
  | (j, w) :: t => if k < j then (k, v) :: (j, w) :: t else if k = j then (k, v) :: t else (j, w) :: insertKey k v t

/-- The list without key k. -/
def eraseKey {α : Type} (k : Nat) (l : List (Nat × α)) : List (Nat × α) := l.filter fun e => e.1 != k

/-- An ascending list of numbers with x added once. -/
def insertNat (x : Nat) : List Nat → List Nat
  | [] => [x]
  | y :: t => if x < y then x :: y :: t else if x = y then y :: t else y :: insertNat x t

/-- The first element that f ranks least; earlier elements win ties. -/
def leastBy {α : Type} (lt : α → α → Bool) : List α → Option α
  | [] => none
  | a :: t => some (t.foldl (fun best x => if lt x best then x else best) a)

/-- Lexicographic comparison of two ranks. -/
def lexLt : List Nat → List Nat → Bool
  | [], _ => false
  | _, [] => false
  | a :: s, b :: t => if a < b then true else if b < a then false else lexLt s t

end Sys2Proof.Machine
end

