-- ==== Sys2Proof/Machine/Mem.lean ====
section
/-! DEFINITION. Byte memories in canonical form (DRAM, R272; scratchpads, R267): reads and writes of bytes and of
little-endian values (R3), and the poison of DRAM granules (R273) and of scratchpad bank words (R270). -/

namespace Sys2Proof.Machine

/-- What a byte that nothing has written reads as. DESIGN CHOICE (log 6). -/
def Memory.blank : Byte := 0

/-- Canonical form: addresses strictly rising, no entry equal to what an unlisted address reads as. -/
def Memory.wf : List Host.Cell → Bool
  | [] => true
  | [(_, b)] => b != Memory.blank
  | (a, b) :: (a', b') :: t => b != Memory.blank && decide (a < a') && Memory.wf ((a', b') :: t)

/-- The byte at an address. -/
def Memory.read : List Host.Cell → Nat → Byte
  | [], _ => Memory.blank
  | (k, b) :: t, a => if a = k then b else Memory.read t a

/-- The memory with one byte written. -/
def Memory.write : List Host.Cell → Nat → Byte → List Host.Cell
  | [], a, b => if b = Memory.blank then [] else [(a, b)]
  | (k, c) :: t, a, b =>
    if a < k then (if b = Memory.blank then (k, c) :: t else (a, b) :: (k, c) :: t)
    else if a = k then (if b = Memory.blank then t else (a, b) :: t)
    else (k, c) :: Memory.write t a b

/-- n bytes from an address upward. -/
def Memory.readBytes (m : List Host.Cell) : Nat → Nat → List Byte
  | _, 0 => []
  | a, n + 1 => Memory.read m a :: Memory.readBytes m (a + 1) n

/-- Bytes written from an address upward. -/
def Memory.writeBytes : List Host.Cell → Nat → List Byte → List Host.Cell
  | m, _, [] => m
  | m, a, b :: bs => Memory.writeBytes (Memory.write m a b) (a + 1) bs

/-- The n-byte little-endian value at an address (R3). -/
def Memory.readLE (m : List Host.Cell) (a n : Nat) : Nat := natLE (Memory.readBytes m a n)

/-- An n-byte little-endian value written at an address (R3). -/
def Memory.writeLE (m : List Host.Cell) (a n x : Nat) : List Host.Cell := Memory.writeBytes m a (bytesLE n x)

/-- The granules of `size` bytes that n bytes at a touch. -/
def granules (size a n : Nat) : List Nat := (List.range ((a + n - 1) / size - a / size + 1)).map fun k => a / size + k

/-- Whether one of the n bytes at a lies in a poisoned granule. -/
def poisoned (size : Nat) (p : List Nat) (a n : Nat) : Bool := (granules size a n).any p.contains

/-- Whether a write of n bytes at a covers a poisoned granule only in part, which counts as a read of it (R270, R273). -/
def partPoisoned (size : Nat) (p : List Nat) (a n : Nat) : Bool :=
  (granules size a n).any fun g => p.contains g && !(decide (a ≤ g * size) && decide (g * size + size ≤ a + n))

/-- The granules of which writes of n bytes at several addresses cover every byte. -/
def wholeGranules (size n : Nat) (as : List Nat) : List Nat :=
  (as.map (· / size)).eraseDups.filter fun g =>
    (List.range size).all fun k => as.any fun a => decide (a ≤ g * size + k) && decide (g * size + k < a + n)

/-- Poison after an ordinary write of n bytes at a: a granule that is written whole is cleared (R270, R273). -/
def poisonAfterWrite (size : Nat) (p : List Nat) (a n : Nat) : List Nat :=
  p.filter fun g => !(decide (a ≤ g * size) && decide (g * size + size ≤ a + n))

end Sys2Proof.Machine
end

