-- ==== Sys2Proof/Machine/Units.lean ====
section
/-! DEFINITION. The composition of the module (R11 to R15), and how a meaning finds and replaces the parts of the state:
units, slots, launches, twin windows, cores, messages. -/

namespace Sys2Proof.Machine

/-! ## Cores and dies (R12, R13) -/

/-- `DIEID` of a core. -/
def dieOf (core : Nat) : Nat := core / 64

/-- Cluster of a core within its die. -/
def clusterOf (core : Nat) : Nat := core / 16 % 4

/-- Whether a core is a stack core. -/
def isStackCore (core : Nat) : Bool := decide (512 ≤ core)

/-- The home stack on whose base die a stack core lies. -/
def stackOf (core : Nat) : Nat := core / 64 - 8

/-- The twin of a twin core (R13). -/
def twinOf (core : Nat) : Nat := core ^^^ 0x40

/-- The lower core of a twin pair, which numbers it (R13). -/
def pairOf (core : Nat) : Nat := if bit core 6 then core - 0x40 else core

/-- A core of the upper die of its twin stack (R13). -/
def isUpper (core : Nat) : Bool := bit core 6 && !isStackCore core

/-- Slots of a core (R14, R15). -/
def slotsOf (core : Nat) : Nat := if isStackCore core then 128 else 512

/-- Vector registers of 128 bytes in a core's file (R14, R15). -/
def vfileOf (core : Nat) : Nat := if isStackCore core then 2048 else 8192

/-- Scalar registers of 4 bytes in a core's file (R14, R15). -/
def sfileOf (core : Nat) : Nat := if isStackCore core then 16384 else 65536

/-- Entries of a core's arrival queue (R15, R48). -/
def queueSize (core : Nat) : Nat := if isStackCore core then 32 else 64

/-- The arrival core for a leading address homed in stack h (R18). -/
def arrivalCore (h a : Nat) : Nat := 512 + 64 * h + bits a 8 6

/-- The stack whose crucible takes the overflow of a core's queue (R48). -/
def crucibleStack (core : Nat) : Nat := if isStackCore core then stackOf core else core % 8

/-- The partition and the pipe of a slot (R317). -/
def pipeOf (core slot : Nat) : Nat × Nat := if isStackCore core then (0, slot % 2) else (slot % 4, slot / 4 % 8)

/-! ## Finding and replacing -/

namespace State

/-- The unit of a number. -/
def unit? (s : State) (uid : Nat) : Option Group := s.units.find? fun g => g.uid == uid

/-- A unit replaced by its new value. -/
def putUnit (s : State) (g : Group) : State := { s with units := s.units.map fun h => if h.uid = g.uid then g else h }

/-- A unit changed in place. -/
def modUnit (s : State) (uid : Nat) (f : Group → Group) : State :=
  { s with units := s.units.map fun h => if h.uid = uid then f h else h }

/-- A unit removed. -/
def dropUnit (s : State) (uid : Nat) : State := { s with units := s.units.filter fun h => h.uid != uid }

/-- A unit added. -/
def addUnit (s : State) (g : Group) : State := { s with units := s.units ++ [g] }

/-- The slot of a core. -/
def slot? (s : State) (core slot : Nat) : Option Slot := s.slots.find? fun x => x.core == core && x.slot == slot

/-- A slot replaced by its new value. -/
def putSlot (s : State) (x : Slot) : State :=
  { s with slots := s.slots.map fun y => if y.core = x.core ∧ y.slot = x.slot then x else y }

/-- A slot freed. -/
def freeSlot (s : State) (core slot : Nat) : State :=
  { s with slots := s.slots.filter fun y => !(y.core == core && y.slot == slot) }

/-- The launch of an index. -/
def launch? (s : State) (l : Nat) : Option Launch := s.launches.find? fun x => x.idx == l

/-- A launch changed in place. -/
def modLaunch (s : State) (l : Nat) (f : Launch → Launch) : State :=
  { s with launches := s.launches.map fun x => if x.idx = l then f x else x }

/-- The state that a core keeps beside its slots. -/
def coreState (s : State) (c : Nat) : CoreState :=
  (s.cores.find? fun x => x.core == c).getD
    { core := c, ingotSeq := 0, callSeq := 0, callTimes := [], bookings := [], spillBase := 0, spillSize := 0, fresh := false,
      status := 0 }

/-- The state of a core replaced. -/
def putCore (s : State) (x : CoreState) : State :=
  { s with cores := if s.cores.any fun y => y.core == x.core then s.cores.map fun y => if y.core = x.core then x else y
    else s.cores ++ [x] }

/-- A new number, never used before, and the state that has used it. -/
def takeId (s : State) : Nat × State := (s.nextId, { s with nextId := s.nextId + 1 })

/-- A message put on its way (R23). -/
def send (s : State) (cls : MsgClass) (src dst : Nat) (body : Payload) : State :=
  { s with nextId := s.nextId + 1, net := s.net ++ [{ id := s.nextId, cls, src, dst, body }] }

/-- The message of a number. -/
def msg? (s : State) (m : Nat) : Option Msg := s.net.find? fun x => x.id == m

/-- A message that is first of its request-class path: nothing from the same source to the same die stands before it (R23). -/
def ready? (s : State) (m : Nat) : Option Msg :=
  match s.msg? m with
  | none => none
  | some x =>
    if x.cls = .request then
      match s.net.find? fun y => y.cls == .request && y.src == x.src && y.dst == x.dst with
      | some y => if y.id = m then some x else none
      | none => none
    else some x

/-- A message taken from the fabric. -/
def dropMsg (s : State) (m : Nat) : State := { s with net := s.net.filter fun x => x.id != m }

/-- The twin window that a slot of a launch reaches from a core (R63). -/
def twinWindow? (s : State) (launch core slot : Nat) : Option TwinWindow :=
  s.twins.find? fun w => w.launch == launch && w.lower == pairOf core && w.slot == slot

/-- A twin window replaced. -/
def putTwin (s : State) (w : TwinWindow) : State :=
  { s with twins := s.twins.map fun y => if y.lower = w.lower ∧ y.slot = w.slot ∧ y.launch = w.launch then w else y }

/-- ac counted so far on the die of a core (R6, R263). -/
def acOf (s : State) (core : Nat) : Nat := s.acMilli.getD (dieOf core) 0 / 1000

/-- Microseconds, R5: 1 µs is 1,000 rc. -/
def us (n : Nat) : Nat := 1000 * n

end State

/-! ## Twin registers (R63) -/

/-- A write laid over the registers. -/
def XWrite.over (x : List (List Word)) (w : XWrite) : List (List Word) := setAt [] x w.reg (mergeLanes w.mask w.vals)

/-- The registers once the writes of an ac are over: for a strand that both groups wrote, the lower group's value stands. -/
def TwinWindow.all (w : TwinWindow) : List (List Word) :=
  (w.late.filter (·.upper) ++ w.late.filter (!·.upper)).foldl XWrite.over w.x

/-- The window in the ac t: the writes of an earlier one are over. -/
def TwinWindow.settle (w : TwinWindow) (t : Nat) : TwinWindow :=
  if w.lateAt = t then w else { w with x := w.all, late := [], lateAt := t }

/-- Strands of a register that one group has written in the present ac. -/
def TwinWindow.mine (w : TwinWindow) (upper : Bool) (k : Nat) : Word :=
  w.late.foldl (fun m e => if e.upper = upper ∧ e.reg = k then m ||| e.mask else m) 0

/-- What a group reads in the ac t: everything written before it, its own writes, and where both have written the lower group's. -/
def TwinWindow.seen (w : TwinWindow) (t : Nat) (upper : Bool) : List (List Word) :=
  let w := w.settle t
  let own := (w.late.filter fun e => e.upper == upper).foldl XWrite.over w.x
  if upper then (w.late.filter (!·.upper)).foldl (fun x e => XWrite.over x { e with mask := e.mask &&& w.mine true e.reg }) own else own

/-- Writes made by a group in the ac t. -/
def TwinWindow.write (w : TwinWindow) (t : Nat) (ws : List XWrite) : TwinWindow :=
  let w := w.settle t
  { w with late := w.late ++ ws }

/-! ## Service (R348, R349, R352) -/

/-- A home stack performs accesses: on, or parked and woken by the access, within the service level, no command to turn it off having been
taken up (R352). -/
def stackUp (s : State) (h : Nat) : Bool :=
  decide (s.dies.getD (8 + h) 2 ≤ 1) && !(s.pending.any fun p => p.opcode == 0x0E && p.target == 8 + h && p.arg == 2) && (s.service == 2 || (s.service == 1 && h == 0))

/-- A die is in service. -/
def dieUp (s : State) (d : Nat) : Bool :=
  s.dies.getD d 2 == 0 && (s.service == 2 || (s.service == 1 && (d == 8 || d ≤ 1)))

/-- A core may execute groups: its die in service, the core neither off nor failed, within the service level. -/
def coreUp (s : State) (c : Nat) : Bool :=
  dieUp s (dieOf c) && (s.coreState c).status == 0 && (s.service == 2 || isStackCore c || c == 0x000 || c == 0x040)

/-! ## Routes (R21, R22, R338) -/

/-- The source of a message that came from a module by a port. -/
def peerSrc (dev port : Nat) : Nat := 2048 + 2 * dev + port

/-- The module that a message came from; its source is then 2048 or more. -/
def peerOf (src : Nat) : Nat := (src - 2048) / 2

/-- Where a message enters the fabric: the die of a core, or of an engine or unit; 16 is the I/O die, 17 and 18 its ports 0 and 1. -/
def sourceDie (src : Nat) : Nat := if src < 1024 then dieOf src else if src ≤ 1040 then src - 1024 else 17 + src % 2

/-- The ring links from home stack h to home stack g: the shorter direction, increasing at distance 4 (R22, numbers of R355). -/
def ringRoute (h g : Nat) : List Nat :=
  let up := (g + 8 - h) % 8
  if up ≤ 4 then (List.range up).map fun i => 32 + (h + i) % 8 else (List.range (8 - up)).map fun i => 32 + (g + i) % 8

/-- The home stack through which a stack reaches the I/O die. -/
def ioStack (h : Nat) : Nat := if h = 7 ∨ h ≤ 2 then 0 else 4

/-- The links of a route between two dies, in the numbers of R355 (R22). The table is followed in each direction, also where its rows for
ring pairs at distance 4 and for two twin stacks do not give the same path back; a message between the two dies of one twin stack has no
row and meets no link that could fail (DESIGN CHOICE, log 71). -/
def routeLinks (a b : Nat) : List Nat :=
  let io (h : Nat) : List Nat := ringRoute h (ioStack h) ++ [if ioStack h = 0 then 40 else 41]
  let twinIo (k : Nat) : List Nat := if k ≤ 1 then [8 * k, 40] else [8 * k + 4, 41]
  let inside (a b : Nat) : List Nat :=
    if a < 8 then
      (if b < 8 then (if a / 2 = b / 2 then [] else [8 * (a / 2) + 2 * (b / 2), 8 * (b / 2) + 2 * (b / 2)]) else [8 * (a / 2) + (b - 8)])
    else if b < 8 then [8 * (b / 2) + (a - 8)]
    else ringRoute (a - 8) (b - 8)
  if a = b then []
  else if b = 16 then (if a < 8 then twinIo (a / 2) else if a < 16 then io (a - 8) else [])
  else if a = 16 then (if b < 8 then twinIo (b / 2) else io (b - 8))
  else if a = 17 then 40 :: inside 8 b
  else if a = 18 then 41 :: inside 12 b
  else inside a b

/-- No link of the route of a message has failed (R338). -/
def routeUp (s : State) (src dst : Nat) : Bool := (routeLinks (sourceDie src) dst).all fun j => (s.links.getD j default).state != 2

/-! ## Launch and region of a unit (R41 to R43) -/

/-- The launch of a unit. -/
def launchOf (s : State) (g : Group) : Launch := (s.launch? g.launch).getD default

/-- The region node of a launch, with its effective values (R43). -/
def Launch.node (l : Launch) : Node := l.chain.headD default

/-- Whether a unit runs in supervisor mode (R67). -/
def supervisor (s : State) (g : Group) : Bool := (launchOf s g).node.supervisor

/-- The units of a group that have not retired; a visitor has a group number of its own. -/
def unitsOfGroup (s : State) (gid : Nat) : List Group := s.units.filter fun g => g.gid == gid

/-- The strands of a group held by its units; strands waiting in rejoin records are not among them (R36, R37). -/
def unionMask (l : List Group) : Word := l.foldl (fun m g => m ||| g.mask) 0

/-- The unit that a completion of strands m of a group goes to: the one holding the lowest unexited strand of m, or else the lowest
unexited strand of the group (R65). Strands of fragments waiting at a rejoin record belong to the record: they are owed nothing
(R201). -/
def owedUnit (s : State) (gid : Nat) (m : Word) : Option Group :=
  let us := unitsOfGroup s gid
  let live := unionMask us &&& m
  let pick := lowest (if live = 0#32 then unionMask us else live)
  us.find? fun g => inMask g.mask pick

/-! ## Free values -/

/-- The counter of the free values, read and advanced (log 4). -/
def State.takeFree (s : State) : Nat × State := (s.freeCtr, { s with freeCtr := s.freeCtr + 1 })

end Sys2Proof.Machine
end

