-- ==== Sys2Proof/Machine/Operands.lean ====
section
/-! DEFINITION. Operand fields (R86, R87): which registers an instruction names and in which order they are checked (R57, R61, R63,
R91), which uniform bits are legal (R84), the class of an instruction (R60, R82), and how a source field is read (R61, R62, R76,
R82, R83). -/

namespace Sys2Proof.Machine

/-! ## What an instruction names -/

/-- A named operand: a source field of R87, a destination field, a field that names vector or twin registers whatever the uniform
bit, a field that names scalars whatever the uniform bit; each with its number of consecutive registers. -/
inductive Opnd where
  | src (f n : Nat)
  | dst (f n : Nat)
  | vec (f n : Nat)
  | scal (k n : Nat)
  deriving DecidableEq, Repr

/-- The 64-bit control registers (R66). -/
def csrWide (n : Nat) : Bool :=
  n == 0x000 || n == 0x001 || n == 0x022 || n == 0x030 || n == 0x032 || n == 0x033 || n == 0x042 ||
    (decide (0x050 ≤ n) && decide (n ≤ 0x05F))

/-- The numbers that name a control register (R66, R69). -/
def csrListed (n : Nat) : Bool :=
  n ≤ 0x001 || (decide (0x010 ≤ n) && decide (n ≤ 0x015)) || (decide (0x020 ≤ n) && decide (n ≤ 0x023)) ||
    (decide (0x030 ≤ n) && decide (n ≤ 0x033)) || (decide (0x040 ≤ n) && decide (n ≤ 0x042)) ||
    (decide (0x050 ≤ n) && decide (n ≤ 0x05F)) || n == 0x060 || n == 0x061

/-- Width in registers of a control register. -/
def csrRegs (n : Nat) : Nat := if csrWide n then 2 else 1

/-- Registers of a lattice cell (R224). -/
def cellRegs (t : BitVec 4) : Nat := if Field.wideType t then 2 else 1

end Sys2Proof.Machine

namespace Sys2Proof
open Machine (Opnd)
open Machine.Opnd

/-- The registers that an instruction names, in the order D, A, B (R91 step 5). Calls name their ranges by the launch's table
(R209) and a reply its registers by the call (R215): those are added where they are known. -/
def Instr.opnds (uni : Bool) : Instr → List Opnd
  | .call l _ => [scal (2 * l.toNat) 2]
  | .ret a => [scal a.toNat 2]
  | .jtab a b => [scal a.toNat 1, scal b.toNat 2]
  | .loop c _ => [scal c.toNat 1]
  | .sleep a => [scal a.toNat 2]
  | .iadd d a b _ | .isub d a b _ | .imul d a b _ | .imad d a b _ | .imnx d a b _ | .shl d a b _ | .shr d a b _ | .bfx d a b _
  | .fadd d a b _ | .fmul d a b _ | .ffma d a b _ | .hadd2 d a b _ | .hmul2 d a b _ | .hfma2 d a b _ | .bfma2 d a b _
  | .dot4 d a b _ | .pcvt d a b _ | .shfl d a b _ => [dst d.toNat 1, src a.toNat 1, src b.toNat 1]
  | .land d a b | .lor d a b | .lxor d a b | .andn d a b => [dst d.toNat 1, src a.toNat 1, src b.toNat 1]
  | .sel d a b _ _ | .iaddc d a b _ _ => [dst d.toNat 1, src a.toNat 1, src b.toNat 1]
  | .isetp _ a b _ | .fsetp _ a b _ => [src a.toNat 1, src b.toNat 1]
  | .isetpi _ a _ _ => [src a.toNat 1]
  | .bitop d a _ | .fsfu d a _ | .fclass d a _ => [dst d.toNat 1, src a.toNat 1]
  | .fcvt d a _ _ _ _ => [dst d.toNat 1, src a.toNat 1]
  | .iaddi d a _ | .andi d a _ | .ori d a _ | .xori d a _ => [dst d.toNat 1, src a.toNat 1]
  | .shi d a _ _ => [dst d.toNat 1, src a.toNat 1]
  | .movi d _ | .movhi d _ => [dst d.toNat 1]
  | .fmnx d a b f =>
    if f.toNat = 2 ∨ f.toNat = 3 then [dst d.toNat 1, src a.toNat 1] else [dst d.toNat 1, src a.toNat 1, src b.toNat 1]
  | .mov d a f =>
    if f.toNat = 0 then [dst d.toNat 1, src a.toNat 1]
    else if f.toNat = 1 then [vec d.toNat 1, scal a.toNat 1]
    else (if d.toNat < 112 then [scal d.toNat 1] else []) ++ [vec a.toNat 1]
  | .idx d a b f =>
    if f.toNat = 0 then [dst d.toNat 1, src a.toNat 1]
    else if f.toNat = 1 then [src a.toNat 1, src b.toNat 1]
    else [dst d.toNat 1]
  | .vote d a f =>
    if f.toNat = 2 then [src a.toNat 1] else if 3 ≤ f.toNat then [dst d.toNat 1] else []
  | .redux d a _ => [dst d.toNat 1, if uni then vec a.toNat 1 else src a.toNat 1]
  | .pmov d a f => if f.toNat = 0 then [dst d.toNat 1] else [src a.toNat 1]
  | .ldb d a _ _ | .ldh d a _ _ | .ldw d a _ _ => [dst d.toNat 1, src a.toNat 2]
  | .ldd d a _ _ => [dst d.toNat 2, src a.toNat 2]
  | .ldba d a _ _ _ | .ldha d a _ _ _ | .ldwa d a _ _ _ => [dst d.toNat 1, src a.toNat 2]
  | .ldda d a _ _ _ => [dst d.toNat 2, src a.toNat 2]
  | .stb d a _ _ _ | .sth d a _ _ _ | .stw d a _ _ _ => [src d.toNat 1, src a.toNat 2]
  | .std d a _ _ _ | .stn d a _ _ _ => [src d.toNat 2, src a.toNat 2]
  | .stbl d a _ _ _ _ | .sthl d a _ _ _ _ | .stwl d a _ _ _ _ => [src d.toNat 1, src a.toNat 2]
  | .stdl d a _ _ _ _ => [src d.toNat 2, src a.toNat 2]
  | .stbm d a b _ _ => [src d.toNat 1, src a.toNat 2, src b.toNat 1]
  | .acas d a b _ _ _ => [dst d.toNat 1, src a.toNat 2, src b.toNat 2]
  | .aadd d a b _ _ _ | .asub d a b _ _ _ | .amins d a b _ _ _ | .amaxs d a b _ _ _ | .aminu d a b _ _ _ | .amaxu d a b _ _ _
  | .aand d a b _ _ _ | .aor d a b _ _ _ | .axor d a b _ _ _ | .axch d a b _ _ _ | .afadd d a b _ _ _ | .afmin d a b _ _ _
  | .afmax d a b _ _ _ | .aincw d a b _ _ _ | .adecw d a b _ _ _ => [dst d.toNat 1, src a.toNat 2, src b.toNat 1]
  | .migrCore a => [scal a.toNat 1]
  | .migrAddr a => [vec a.toNat 2]
  | .home d a => [dst d.toNat 1, src a.toNat 2]
  | .barArrive _ _ b c | .barWait _ _ b c | .barSync _ _ b c | .barInit _ _ b c => if c = 1#1 then [scal b.toNat 1] else []
  | .ljoin a b t => [src a.toNat 2, src b.toNat (Machine.cellRegs t)]
  | .ljoinr d a b t => [dst d.toNat (Machine.cellRegs t), src a.toNat 2, src b.toNat (Machine.cellRegs t)]
  | .lld d a _ t => [dst d.toNat (Machine.cellRegs t), src a.toNat 2]
  | .lldw d a b t => [dst d.toNat (Machine.cellRegs t), src a.toNat 2, src b.toNat (Machine.cellRegs t)]
  | .lstx d a _ t => [src d.toNat (Machine.cellRegs t), src a.toNat 2]
  | .lflush a _ => [vec a.toNat 2]
  | .lepoch d a _ => [if d.toNat = 112 then dst 112 2 else vec d.toNat 2, vec a.toNat 2]
  | .rcall _ _ _ a _ _ | .rcallRetry _ _ _ a _ _ => [src a.toNat 2]
  | .rstat d _ | .tstat d _ => [dst d.toNat 1]
  | .tmove d a _ => (if d.toNat = 112 then [] else [scal d.toNat 2]) ++ [scal a.toNat 8]
  | .tstatProm d _ => [dst d.toNat 2]
  | .mldw a b _ | .mstream a b _ => [scal a.toNat 2, scal b.toNat 2]
  | .mdrain d a b _ => (if d.toNat = 112 then [] else [scal d.toNat 2]) ++ [scal a.toNat 2, scal b.toNat 2]
  | .mlicQry d => [scal d.toNat 1]
  | .csrr d n => [dst d.toNat (Machine.csrRegs n.toNat)]
  | .csrw a n => [src a.toNat (Machine.csrRegs n.toNat)]
  | .cycle d _ => [dst d.toNat 2]
  | .tracem a _ => [src a.toNat 1]
  | _ => []

/-- Uniform bit: 0 no uniform form, 1 accepted without effect, 2 uniform form (R84, R127, R156, R178, R207, R234). -/
def Instr.uniForm : Instr → Nat
  | .nop | .pad _ _ | .pset _ _ | .fence _ _ _ | .lflush _ _ | .lepoch _ _ _ => 1
  | .bra _ | .call _ _ | .ret _ | .jtab _ _ | .exit _ _ | .trap _ | .loop _ _ | .winb _ _ | .swinb _ _ | .live _ _ _ _ | .pause _
  | .sleep _ | .vote _ _ _ | .shfl _ _ _ _ | .migrCore _ | .migrAddr _ | .migrLaunch | .rejoin _ | .barArrive _ _ _ _
  | .barWait _ _ _ _ | .barSync _ _ _ _ | .barInit _ _ _ _ | .tmove _ _ _ | .mldw _ _ _ | .mswap | .mstream _ _ _
  | .mdrain _ _ _ _ | .mlicAcq | .mlicTry _ | .mlicRel | .mlicQry _ | .xsigSig _ | .xsigWait _ | .xsigSync _ | .eret => 0
  | _ => 2

/-- An address pair in uniform form is a scalar pair (R179; DEDUCED, log 20). -/
def Instr.pairOk (uni : Bool) : Instr → Bool
  | .ldb _ a _ _ | .ldh _ a _ _ | .ldw _ a _ _ | .ldd _ a _ _ | .stb _ a _ _ _ | .sth _ a _ _ _ | .stw _ a _ _ _ | .std _ a _ _ _
  | .stn _ a _ _ _ | .stbm _ a _ _ _ => !uni || Field.scalPair a
  | .ldba _ a _ _ _ | .ldha _ a _ _ _ | .ldwa _ a _ _ _ | .ldda _ a _ _ _ => !uni || Field.scalPair a
  | .stbl _ a _ _ _ _ | .sthl _ a _ _ _ _ | .stwl _ a _ _ _ _ | .stdl _ a _ _ _ _ => !uni || Field.scalPair a
  | .aadd _ a _ _ _ _ | .asub _ a _ _ _ _ | .amins _ a _ _ _ _ | .amaxs _ a _ _ _ _ | .aminu _ a _ _ _ _ | .amaxu _ a _ _ _ _
  | .aand _ a _ _ _ _ | .aor _ a _ _ _ _ | .axor _ a _ _ _ _ | .axch _ a _ _ _ _ | .acas _ a _ _ _ _ | .afadd _ a _ _ _ _
  | .afmin _ a _ _ _ _ | .afmax _ a _ _ _ _ | .aincw _ a _ _ _ _ | .adecw _ a _ _ _ _ => !uni || Field.scalPair a
  | .home _ a => !uni || Field.scalPair a
  | .ljoin a _ _ | .ljoinr _ a _ _ | .lld _ a _ _ | .lldw _ a _ _ | .lstx _ a _ _ => !uni || Field.scalPair a
  | .csrr d n => !Machine.csrWide n.toNat || Field.pair d
  | .csrw a n => !Machine.csrWide n.toNat || Field.pair a
  | .redux _ a f => !uni || (Field.third a && f.toNat != 12)
  | .mov _ _ f => uni || f.toNat == 0
  | _ => true

/-- Fault 0x01 is not raised: field values, uniform bit, forms that need or forbid the uniform bit (R84, R90). -/
def Instr.legal (uni : Bool) (i : Instr) : Bool := i.wf && (!uni || i.uniForm != 0) && i.pairOk uni

/-- Latency class (R82); 0 for the instructions that end a chain or take effect at issue. -/
def Instr.cls : Instr → Nat
  | .imul _ _ _ _ | .imad _ _ _ _ | .fadd _ _ _ _ | .fmul _ _ _ _ | .ffma _ _ _ _ | .fmnx _ _ _ _ | .fsetp _ _ _ _ | .fclass _ _ _
  | .hadd2 _ _ _ _ | .hmul2 _ _ _ _ | .hfma2 _ _ _ _ | .bfma2 _ _ _ _ => 2
  | .fsfu _ _ _ | .fcvt _ _ _ _ _ _ | .dot4 _ _ _ _ | .pcvt _ _ _ _ | .idx _ _ _ _ | .vote _ _ _ | .shfl _ _ _ _ | .redux _ _ _ => 3
  | .iadd _ _ _ _ | .isub _ _ _ _ | .imnx _ _ _ _ | .isetp _ _ _ _ | .sel _ _ _ _ _ | .iaddc _ _ _ _ _ | .land _ _ _ | .lor _ _ _
  | .lxor _ _ _ | .andn _ _ _ | .shl _ _ _ _ | .shr _ _ _ _ | .bfx _ _ _ _ | .bitop _ _ _ | .iaddi _ _ _ | .andi _ _ _ | .ori _ _ _
  | .xori _ _ _ | .shi _ _ _ _ | .movi _ _ | .movhi _ _ | .isetpi _ _ _ _ | .mov _ _ _ | .plop _ _ _ _ | .pmov _ _ _ | .pset _ _
  | .pad _ _ => 1
  | _ => 0

/-- The instructions that do not end a chain (R60). -/
def Instr.inChain (i : Instr) : Bool :=
  i.cls != 0 || (match i with | .nop | .winb _ _ | .swinb _ _ | .live _ _ _ _ => true | _ => false)

/-- Instructions that raise fault 0x42 on a stack core (R15). -/
def Instr.needsMatrix : Instr → Bool
  | .mlicAcq | .mlicTry _ | .mlicRel | .mlicQry _ | .mldw _ _ _ | .mswap | .mstream _ _ _ | .mdrain _ _ _ _ => true
  | _ => false

/-- Lattice instructions, which raise fault 0x42 at S1 (R207). -/
def Instr.isLattice : Instr → Bool
  | .ljoin _ _ _ | .ljoinr _ _ _ _ | .lld _ _ _ _ | .lldw _ _ _ _ | .lstx _ _ _ _ | .lflush _ _ | .lepoch _ _ _ => true
  | _ => false

/-- The control-register writes that user mode may not make (R67). -/
def Instr.privileged : Instr → Bool
  | .csrw _ n => n == 0x030 || n == 0x041 || (decide (0x050 ≤ n.toNat) && decide (n.toNat ≤ 0x05F))
  | _ => false

/-- `XSIG`, which needs the twin window (R40, R259). -/
def Instr.isXsig : Instr → Bool
  | .xsigSig _ | .xsigWait _ | .xsigSync _ => true
  | _ => false

/-- The memory, migration, barrier, remote, lattice and tile instructions that a flagged acquire load holds back (R186). -/
def Instr.heldByAcquire (i : Instr) : Bool :=
  !i.inChain && (match i with
    | .bra _ | .brc _ _ _ _ | .call _ _ | .ret _ | .jtab _ _ | .loop _ _ | .exit _ _ | .trap _ | .pause _ | .sleep _ | .eret
    | .csrr _ _ | .csrw _ _ | .cycle _ _ | .tracem _ _ | .mldw _ _ _ | .mswap | .mstream _ _ _ | .mdrain _ _ _ _ | .mlicAcq
    | .mlicTry _ | .mlicRel | .mlicQry _ | .xsigSig _ | .xsigWait _ | .xsigSync _ => false
    | _ => true)

/-- The completion flag that an asynchronous instruction names (R65, R184, R208, R236, R247): an `RCALL.retry` waits on none. -/
def Instr.asyncFlag : Instr → Option Nat
  | .ldb _ _ _ f | .ldh _ _ _ f | .ldw _ _ _ f | .ldd _ _ _ f => if f = 0#4 then none else some f.toNat
  | .ldba _ _ _ _ f | .ldha _ _ _ _ f | .ldwa _ _ _ _ f | .ldda _ _ _ _ f => if f = 0#4 then none else some f.toNat
  | .rcall h _ l _ _ _ => some (4 * h.toNat + l.toNat)
  | .tmove _ _ f => some f.toNat
  | .mldw _ _ f | .mstream _ _ f | .mdrain _ _ _ f => if f = 0#4 then none else some f.toNat
  | _ => none

/-- The named flag whose pending fault the instruction raises before it issues: `TMOVE` discards it (R65, R238). -/
def Instr.raisesFlag (i : Instr) : Option Nat :=
  match i with
  | .tmove _ _ _ => none
  | _ => i.asyncFlag

/-- The fields that a hold bit captures: A and B (R84). -/
def Instr.holdA : Instr → Option Nat
  | .iadd _ a _ _ | .isub _ a _ _ | .imul _ a _ _ | .imad _ a _ _ | .imnx _ a _ _ | .shl _ a _ _ | .shr _ a _ _ | .bfx _ a _ _
  | .fadd _ a _ _ | .fmul _ a _ _ | .ffma _ a _ _ | .hadd2 _ a _ _ | .hmul2 _ a _ _ | .hfma2 _ a _ _ | .bfma2 _ a _ _
  | .dot4 _ a _ _ | .pcvt _ a _ _ | .shfl _ a _ _ | .fmnx _ a _ _ | .isetp _ a _ _ | .fsetp _ a _ _ | .isetpi _ a _ _ => some a.toNat
  | .land _ a _ | .lor _ a _ | .lxor _ a _ | .andn _ a _ | .sel _ a _ _ _ | .iaddc _ a _ _ _ => some a.toNat
  | .bitop _ a _ | .fsfu _ a _ | .fclass _ a _ | .fcvt _ a _ _ _ _ | .iaddi _ a _ | .andi _ a _ | .ori _ a _ | .xori _ a _
  | .shi _ a _ _ | .mov _ a _ | .redux _ a _ => some a.toNat
  | .idx _ a _ f => if f.toNat ≤ 1 then some a.toNat else none
  | .vote _ a f => if f.toNat = 2 then some a.toNat else none
  | .pmov _ a f => if f.toNat = 0 then none else some a.toNat
  | _ => none

/-- The B source that a hold bit captures. -/
def Instr.holdB : Instr → Option Nat
  | .iadd _ _ b _ | .isub _ _ b _ | .imul _ _ b _ | .imad _ _ b _ | .imnx _ _ b _ | .shl _ _ b _ | .shr _ _ b _ | .bfx _ _ b _
  | .fadd _ _ b _ | .fmul _ _ b _ | .ffma _ _ b _ | .hadd2 _ _ b _ | .hmul2 _ _ b _ | .hfma2 _ _ b _ | .bfma2 _ _ b _
  | .dot4 _ _ b _ | .pcvt _ _ b _ | .shfl _ _ b _ | .isetp _ _ b _ | .fsetp _ _ b _ => some b.toNat
  | .land _ _ b | .lor _ _ b | .lxor _ _ b | .andn _ _ b | .sel _ _ b _ _ | .iaddc _ _ b _ _ => some b.toNat
  | .fmnx _ _ b f => if f.toNat = 2 ∨ f.toNat = 3 then none else some b.toNat
  | .idx _ _ b f => if f.toNat = 1 then some b.toNat else none
  | _ => none

end Sys2Proof

namespace Sys2Proof.Machine

/-! ## Reading registers (R57, R59, R61 to R64, R82, R83) -/

/-- What an issuing instruction sees: the state, its unit with the distances of its pending writes advanced, its slot, whether it
executes in uniform form. -/
structure Ctx where
  s : State
  g : Group
  sl : Slot
  uni : Bool
  deriving Inhabited

/-- The value of one strand of a register as an instruction sees it: the last visible write in program order (R83). -/
def visible (p : List PendWrite) (r : Reg) (i : Nat) (old : Word) : Word :=
  p.foldl (fun w e => if decide (e.reg = r) && inMask e.mask i && decide (e.cls ≤ e.k) then laneAt e.vals i else w) old

/-- Strand i of a vector register of an allocation. -/
def Slot.vec (sl : Slot) (k i : Nat) : Word := laneAt (sl.v.getD k []) i

/-- A scalar register of an allocation. -/
def Slot.scal (sl : Slot) (k : Nat) : Word := sl.s.getD k 0

namespace Ctx

/-- `V(k, i)` (R76) by allocation index. -/
def vecAt (c : Ctx) (k i : Nat) : Word := visible c.g.pend (.vec k) i (c.sl.vec k i)

/-- A scalar by allocation index. -/
def scalAt (c : Ctx) (k : Nat) : Word := visible c.g.pend (.scal k) 0 (c.sl.scal k)

/-- `V(k, i)`. -/
def v (c : Ctx) (k i : Nat) : Word := c.vecAt (c.g.vwb + k) i

/-- `S(k)`. -/
def sreg (c : Ctx) (k : Nat) : Word := c.scalAt (c.g.swb + k)

/-- The 64-bit value of a scalar pair (R3, R128). -/
def spair (c : Ctx) (k : Nat) : Nat := pairValue (c.sreg k) (c.sreg (k + 1))

/-- A predicate (R64); p0 reads as all ones. -/
def pred (c : Ctx) (k : Nat) : Word :=
  if k = 0 then allStrands
  else c.g.pend.foldl (fun w e =>
    if decide (e.reg = .pred k) && decide (e.cls ≤ e.k) then (w &&& ~~~e.mask) ||| (laneAt e.vals 0 &&& e.mask) else w)
    (c.g.preds.getD (k - 1) 0)

/-- The latch of a source field 112–119, if it holds a value: hold latches for the two instructions after the capture (R61). -/
def latch (c : Ctx) (f : Nat) : Option (List Word) :=
  if f < 115 then
    match c.g.holds.getD (f - 112) none with
    | some (age, vals) => if age < 2 then some vals else none
    | none => none
  else c.g.bypass.getD (f - 115) none

/-- The twin window that the unit reaches where it stands: only in its launch slot on its launch core (R40). -/
def twin? (c : Ctx) : Option TwinWindow :=
  if c.g.twinned ∧ c.g.core = c.g.launchCore ∧ c.g.slot = c.g.launchSlot then c.s.twinWindow? c.g.launch c.g.core c.g.slot else none

/-- Strand i of x(k), as this group sees it in the present ac (R63). -/
def x (c : Ctx) (k i : Nat) : Word :=
  match c.twin? with
  | some w => laneAt ((w.seen (c.s.acOf w.lower) (isUpper c.g.core)).getD k []) i
  | none => 0

/-- The lowest strand of the strand mask. -/
def low (c : Ctx) : Nat := lowest c.g.mask

/-- Latch or twin register of a field above 111, for a strand; the uniform form reads the lowest strand (R62, R63). -/
def special (c : Ctx) (f i : Nat) : Word :=
  if f < 120 then laneAt ((c.latch f).getD []) i else c.x (f - 120) i

/-- `Src(f, i)` (R76). -/
def src (c : Ctx) (f i : Nat) : Word :=
  if f < 112 then (if c.uni then c.sreg f else c.v f i)
  else c.special f (if c.uni then c.low else i)

/-- A field that names a vector or twin register whatever the uniform bit. -/
def vsrc (c : Ctx) (f i : Nat) : Word := if f < 112 then c.v f i else c.special f i

/-- A 64-bit source pair (R3). -/
def src64 (c : Ctx) (f i : Nat) : Nat := pairValue (c.src f i) (c.src (f + 1) i)

/-- The active strands of an instruction without a guard, lowest only in uniform form (R29, R31). -/
def active (c : Ctx) : List Nat := if c.uni then [c.low] else strands c.g.mask

/-! ## Checks of R91 -/

/-- Whether the operand names a twin register. -/
def namesTwin (o : Opnd) : Bool :=
  match o with
  | .src f _ | .dst f _ | .vec f _ => decide (120 ≤ f)
  | .scal _ _ => false

/-- The first window register of an operand that lies outside the allocation (R57, R59). -/
def outside (c : Ctx) (o : Opnd) : Option Nat :=
  let v (f n : Nat) := if f < 112 then (List.range n).find? fun j => decide (c.sl.valloc ≤ c.g.vwb + f + j) else none
  let s (f n : Nat) := if f < 112 then (List.range n).find? fun j => decide (c.sl.salloc ≤ c.g.swb + f + j) else none
  match o with
  | .src f n | .dst f n => ((if c.uni then s f n else v f n)).map (f + ·)
  | .vec f n => (v f n).map (f + ·)
  | .scal f n => (s f n).map (f + ·)

/-- A void latch that the operand reads (R61). -/
def voidLatch (c : Ctx) (o : Opnd) : Option Nat :=
  match o with
  | .src f _ | .vec f _ => if 112 ≤ f ∧ f < 120 ∧ (c.latch f).isNone then some f else none
  | _ => none

/-- A fault without a memory address or with one, precise, of the instruction. -/
def faultReq (code addr : Nat) : FaultReq := { code, addr, flag := none, home := none, deferred := false }

/-- Steps 2 to 6 of R91 for an instruction with its operands. Only `CSRW` is privileged, and R261 puts its fault 0x08 at step 8. -/
def checks (c : Ctx) (i : Instr) (ops : List Opnd) : Option FaultReq :=
  if !i.legal c.uni then some (faultReq 0x01 0)
  else if (i.needsMatrix && isStackCore c.g.core) || (i.isLattice && c.s.service == 1) then some (faultReq 0x42 0)
  else if (i.isXsig || ops.any namesTwin) && c.twin?.isNone then some (faultReq 0x43 0)
  else match ops.findSome? c.outside with
    | some k => some (faultReq 0x06 k)
    | none =>
      match ops.findSome? c.voidLatch with
      | some f => some (faultReq 0x07 f)
      | none => none

end Ctx

end Sys2Proof.Machine
end

