-- ==== Sys2Proof/Config.lean ====
section
/-! DEFINITION. What an implementation of the Jexak J8 fixes and the manual leaves open: free values. Each is an opaque
constant, so nothing can be proved of its value; the operations that use one keep the limits the manual sets on it. -/

namespace Sys2Proof.Config

/-- How far, in units in the last place, an `FSFU` result lies from the rounded exact value: an index into the results that the
bound of R162 allows, for function number and operand ("a fixed function of the operand", R162). Log 9. -/
opaque fsfuChoice : Nat → Word → Nat

/-- Whether a translation that finds an old entry in a buffer uses it, before the invalidation completes (R280), for a free-value
counter and an address. Log 10. -/
opaque usesOldEntry : Nat → Nat → Bool

/-- How far beyond `Now() + 1` a promised completion time lies (R241), for a free-value counter. Log 11. -/
opaque promiseDelay : Nat → Nat

/-- The physical row of each logical row of a twin core's array, as reported in the inventory (R123, R355). It is used only
where it is a row map by R123. Log 12. -/
opaque rowMap : Nat → List Nat

/-- Payload bytes of a data frame (R344: the layout of a payload is not given), for a free-value counter. Log 74. -/
opaque payloadLength : Nat → BitVec 16

/-- The device address of the doorbell block of a queue pair (R341). Log 14. -/
opaque doorbell : Nat → Nat

/-- Which free slot of a core an admitted group takes (R48), for a free-value counter: an index into the free slots. Log 16. -/
opaque slotChoice : Nat → Nat

/-- A word of another module's memory read over the reply class (R80), for a free-value counter, a module and an address. Log 15. -/
opaque peerWord : Nat → Nat → Nat → Word

/-- `TEAMID` of the entry that a missed heartbeat writes, for a free-value counter: R364 excepts it from the fields that are 0 and states
no value. Log 17. -/
opaque watchTeam : Nat → Nat

/-- The cooling state that an inventory reports while both loops are lost: R355 names no code for it. Log 24. -/
opaque bothLostCode : Nat → Byte

/-- Stack-local address of the first byte of a DRAM row: how rows lie in the address space is the implementation's (R354, R370). Log 33. -/
opaque rowAddr : Nat → Nat → Nat → Nat

/-- Granules of 32 bytes of the rows that an entry of a stack's remap table maps (R354). Log 33. -/
opaque remapGranules : Nat → Nat → List Nat

end Sys2Proof.Config
end

