-- ==== Sys2Proof/Machine/Translate.lean ====
section
/-! DEFINITION. Page tables, translation and its permission faults, private addresses, and the device's own accesses to global
memory by virtual address (R16, R266, R274 to R278, R280, R282, R369). -/

namespace Sys2Proof.Machine

/-! ## DRAM (R272, R273) -/

/-- Module address of a stack-local address. -/
def dramAt (stack loc : Nat) : Nat := stack * 2 ^ 36 + loc

/-- The bytes of DRAM from a module address. -/
def State.dramRead (s : State) (pa n : Nat) : Nat := Memory.readLE s.dram pa n

/-- Whether bytes of DRAM lie in a poisoned granule. -/
def State.dramBad (s : State) (pa n : Nat) : Bool := poisoned 32 s.dramPoison pa n

/-- Bytes written to DRAM; whole granules written lose their poison. -/
def State.dramWrite (s : State) (pa : Nat) (bs : List Byte) : State :=
  { s with dram := Memory.writeBytes s.dram pa bs, dramPoison := poisonAfterWrite 32 s.dramPoison pa bs.length }

/-! ## Pages that move (R284) -/

/-- A page move whose old frame holds a module address (R284). -/
def moveOver (s : State) (pa : Nat) : Option PageMove := s.pageMoves.find? fun p => decide (p.oldPa ≤ pa) && decide (pa < p.oldPa + p.size)

/-- A page move whose new frame holds a module address and whose copy is not complete. -/
def moveInto (s : State) (pa : Nat) : Option PageMove :=
  s.pageMoves.find? fun p => !p.copied && decide (p.newPa ≤ pa) && decide (pa < p.newPa + p.size)

/-- Where an access to a module address is performed: in the new frame once its page has been copied there. Until then the copy, which is one
step, takes along what the old frame holds. -/
def fwdPa (s : State) (pa : Nat) : Nat :=
  match moveOver s pa with
  | some p => if p.copied then p.newPa + (pa - p.oldPa) else pa
  | none => pa

/-- A core holds its requests to the new frame of a page that moves: its marker has not reached the new home (R284 step 3). -/
def markerHeld (s : State) (core pa : Nat) : Bool :=
  s.pageMoves.any fun p => decide (p.newPa ≤ pa) && decide (pa < p.newPa + p.size) && p.cores.contains core

/-! ## The walk (R274 to R277, R369) -/

/-- A malformed or poisoned entry met by a walk: poisoned or not, its address, its level, its bytes as read. -/
structure WalkErr where
  poison : Bool
  addr : Nat
  level : Nat
  raw : Nat
  deriving DecidableEq, Repr, Inhabited

/-- What a walk finds: the leaf entry and its level; no leaf; no leaf because of a bad entry. -/
inductive Walk where
  | leaf (raw level : Nat)
  | noLeaf
  | bad (e : WalkErr)
  deriving DecidableEq, Repr, Inhabited

/-- First stack-local address of a crucible (R272). -/
def crucibleBase : Nat := 0xFFC000000

/-- A table entry read at a level is malformed (R277). -/
def tableBad (level e : Nat) : Bool :=
  let loc := bits e 12 28 * 2 ^ 8
  level == 3 || bits e 2 6 != 0 || bits e 40 24 != 0 || decide (8 ≤ bits e 8 4) || decide (crucibleBase ≤ loc) ||
    ((level == 0 || level == 1) && loc % 2 ^ 12 != 0)

/-- Bytes of a page whose leaf stands at a level. -/
def pageSize (level : Nat) : Nat := if level = 1 then 2 ^ 30 else if level = 2 then 2 ^ 21 else 2 ^ 16

/-- A leaf entry read at a level is malformed (R276, R277): no byte of its page lies in a crucible (R272). -/
def leafBad (level e : Nat) : Bool :=
  let frame := bits e 26 20
  level == 0 || bit e 25 || bits e 46 18 != 0 || decide (8 ≤ bits e 9 4) || decide (crucibleBase < frame * 2 ^ 16 + pageSize level) ||
    (level == 1 && frame % 2 ^ 14 != 0) || (level == 2 && frame % 2 ^ 5 != 0) || (bit e 8 && bits e 13 12 != 0)

/-- Index of an address at a level (R274). -/
def walkIndex (v level : Nat) : Nat :=
  match level with
  | 0 => bits v 39 17
  | 1 => bits v 30 9
  | 2 => bits v 21 9
  | _ => bits v 16 5

/-- The walk from the table that entry `t` names, at `level`, with `fuel` levels left. -/
def walkFrom (s : State) (v : Nat) : Nat → Nat → Nat → Walk
  | 0, _, _ => .noLeaf
  | fuel + 1, level, t =>
    let a := fwdPa s (dramAt (bits t 8 4) (bits t 12 28 * 2 ^ 8 + 8 * walkIndex v level))
    if s.dramBad a 8 then .bad { poison := true, addr := a, level, raw := 0 }
    else
      let e := s.dramRead a 8
      if !bit e 0 then .noLeaf
      else if bit e 1 then (if leafBad level e then .bad { poison := false, addr := a, level, raw := e } else .leaf e level)
      else if tableBad level e then .bad { poison := false, addr := a, level, raw := e }
      else walkFrom s v fuel (level + 1) e

/-- A root entry names a level-0 table of 1 MiB (R274). -/
def rootBad (r : Nat) : Bool :=
  !bit r 0 || bit r 1 || bits r 2 6 != 0 || bits r 40 24 != 0 || decide (8 ≤ bits r 8 4) || bits r 12 12 != 0 ||
    decide (crucibleBase ≤ bits r 12 28 * 2 ^ 8)

/-- The walk of a virtual address from a root. -/
def walk (s : State) (root : DWord) (a : Nat) : Walk :=
  if rootBad root.toNat then .noLeaf else walkFrom s (bits a 0 56) 4 0 root.toNat

/-- A page as an access uses it. -/
structure Page where
  raw : Nat
  size : Nat
  deriving DecidableEq, Repr, Inhabited

namespace Page
def rd (p : Page) : Bool := bit p.raw 2
def wr (p : Page) : Bool := bit p.raw 3
def ex (p : Page) : Bool := bit p.raw 4
def at_ (p : Page) : Bool := bit p.raw 5
def priv (p : Page) : Bool := bit p.raw 6
def res (p : Page) : Bool := bit p.raw 7
def dup (p : Page) : Bool := bit p.raw 8
/-- Home stack (R16). -/
def home (p : Page) : Nat := bits p.raw 9 4
/-- Module (R16); 0 is this module. -/
def device (p : Page) : Nat := bits p.raw 13 12
/-- Stack-local address of an address in the page (R276). -/
def loc (p : Page) (a : Nat) : Nat := bits p.raw 26 20 * 2 ^ 16 + a % p.size
/-- Module address of an address in the page. -/
def pa (p : Page) (a : Nat) : Nat := dramAt p.home (p.loc a)
end Page

/-- The walker of a core's cluster, by its buffer number (R280). -/
def walkerOf (core : Nat) : Nat := 1024 + core / 16

/-- Where a translation looks for held leaf entries: a core in its own buffer and in its cluster's walker, an engine in its own (R280). -/
def buffersOf (buffer : Nat) : List Nat := if buffer < 1024 then [buffer, walkerOf buffer] else [buffer]

/-- An entry holds the translation of an address. -/
def TlbEntry.covers (t : TlbEntry) (buffer : Nat) (root : DWord) (v : Nat) : Bool :=
  t.buffer == buffer && t.root == root && decide (t.base ≤ v) && decide (v < t.base + t.size)

/-- Translation of an address in a buffer: the leaf by the tables, or an old leaf that a buffer still holds and uses (R280). -/
def lookupPage (s : State) (buffer : Nat) (root : DWord) (a : Nat) : Except (Option WalkErr) Page :=
  let v := bits a 0 56
  let held := (buffersOf buffer).flatMap fun b => s.tlb.filter fun t => t.covers b root v
  let now := walk s root v
  let fresh : Except (Option WalkErr) Page :=
    match now with
    | .leaf raw level => .ok { raw, size := pageSize level }
    | .noLeaf => .error none
    | .bad e => .error (some e)
  held.foldr (fun t other =>
    let old : Page := { raw := t.leaf.toNat, size := t.size }
    let either : Except (Option WalkErr) Page := if Config.usesOldEntry s.freeCtr (t.buffer * 2 ^ 56 + t.base) then .ok old else other
    match other with
    | .ok p => if p = old then other else either
    | .error _ => either) fresh

/-- The leaf noted in the buffers that a translation went through (R280): one entry a page. -/
def State.notePage (s : State) (buffer : Nat) (root : DWord) (a : Nat) : State :=
  let v := bits a 0 56
  match walk s root v with
  | .leaf raw level =>
    let new := (buffersOf buffer).filter fun b => !s.tlb.any fun t => t.covers b root v
    { s with tlb := s.tlb ++ new.map fun b =>
        { buffer := b, root := root, base := v / pageSize level * pageSize level, size := pageSize level, leaf := BitVec.ofNat 64 raw } }
  | _ => s

/-- The kinds of `Translate` (R278). -/
inductive TKind where
  | read
  | write
  | atomic
  | exec
  | locate
  deriving DecidableEq, Repr, Inhabited

/-- The permission fault of a page for a kind (R278). -/
def permFault (k : TKind) (super : Bool) (p : Page) : Option Nat :=
  if p.priv && !super then some 0x14
  else match k with
    | .read => if p.rd then none else some 0x10
    | .write => if p.wr then none else some 0x11
    | .atomic => if !p.rd then some 0x10 else if !p.wr then some 0x11 else if !p.at_ then some 0x13 else none
    | .exec => if p.ex then none else some 0x12
    | .locate => none

/-- The fault of a kind where no leaf is found (R278, R369). -/
def noLeafFault (k : TKind) : Option WalkErr → Nat
  | some e => if e.poison then 0x19 else (match k with | .write => 0x11 | .exec => 0x12 | _ => 0x10)
  | none => match k with | .write => 0x11 | .exec => 0x12 | _ => 0x10

/-- `Translate(a, k)` (R76, R278): the page, or the fault code with the bad entry met by the walk. `MIGR.addr` and `RCALL` read the
leaf alone (R198, R209: permission and resident bits play no part): they use `lookupPage`. -/
def translate (s : State) (buffer : Nat) (root : DWord) (super : Bool) (k : TKind) (a : Nat) :
    Except (Nat × Option WalkErr) Page :=
  match lookupPage s buffer root a with
  | .error e => .error (noLeafFault k e, e)
  | .ok p =>
    match permFault k super p with
    | some c => .error (c, none)
    | none => .ok p

/-! ## Private addresses (R266) -/

/-- The global address of a private address for a strand and a size, or none when the offset is out of range. -/
def privateConv (l : Launch) (g : Group) (i n a : Nat) : Option Nat :=
  let o := bits a 0 56
  let nd := l.node
  if nd.privateSize < o + n then none
  else
    let gidx := g.team * l.teamGroups + g.grp
    let pb := nd.privateBase / 2 ^ 8 * 2 ^ 8 + gidx * 32 * nd.privateSize
    let r := pb + 256 * (o / 8) + 8 * i + o % 8
    if r / 2 ^ 56 = 0 then some r else none

/-! ## The device's own accesses by virtual address

Fault queues, checkpoint areas, region blocks, descriptors and rings lie in global memory (R272). -/

/-- Spans of at most 64 KiB, each in one page: (virtual address, length). -/
def spans : Nat → Nat → Nat → List (Nat × Nat)
  | 0, _, _ => []
  | fuel + 1, a, n =>
    if n = 0 then []
    else
      let k := min n (2 ^ 16 - a % 2 ^ 16)
      (a, k) :: spans fuel (a + k) (n - k)

/-- A span's module address when the device may read or write it. -/
def devPage (s : State) (root : DWord) (wr : Bool) (a n : Nat) : Option Nat :=
  match walk s root a with
  | .leaf raw level =>
    let p : Page := { raw, size := pageSize level }
    let bad := if wr then partPoisoned 32 s.dramPoison (fwdPa s (p.pa a)) n else s.dramBad (fwdPa s (p.pa a)) n
    if a / 2 ^ 56 = 0 ∧ p.device = 0 ∧ p.res ∧ (if wr then p.wr ∧ !p.dup else p.rd) ∧ !bad then some (fwdPa s (p.pa a)) else none
  | _ => none

/-- Bytes read by virtual address. -/
def devRead (s : State) (root : DWord) (a n : Nat) : Option (List Byte) :=
  (spans (n / 2 ^ 16 + 2) a n).foldl (fun acc x =>
    match acc, devPage s root false x.1 x.2 with
    | some l, some pa => some (l ++ Memory.readBytes s.dram pa x.2)
    | _, _ => none) (some [])

/-- Bytes written by virtual address; nothing is written unless every byte can be. -/
def devWrite (s : State) (root : DWord) (a : Nat) (bs : List Byte) : Option State :=
  let sp := spans (bs.length / 2 ^ 16 + 2) a bs.length
  if sp.all fun x => (devPage s root true x.1 x.2).isSome then
    some (sp.foldl (fun t x =>
      match devPage s root true x.1 x.2 with
      | some pa => t.dramWrite pa ((bs.drop (x.1 - a)).take x.2)
      | none => t) s)
  else none

/-- A little-endian value read by virtual address. -/
def devReadLE (s : State) (root : DWord) (a n : Nat) : Option Nat := (devRead s root a n).map natLE

end Sys2Proof.Machine
end

