-- ==== Sys2Proof/Machine/Scratch.lean ====
section
/-! DEFINITION. Scratchpads: windows, sizes, ownership, descriptors, swizzle, poison (R20, R69, R265, R267 to R270). -/

namespace Sys2Proof.Machine

/-- Level of a scratchpad window: 0 unit, 1 cluster, 2 die (R265). -/
def spadLevel (a : Nat) : Option Nat :=
  match bits a 56 8 with
  | 0xFF => some 0
  | 0xFE => some 1
  | 0xFD => some 2
  | _ => none

/-- Bytes of a scratchpad (R14, R15, R267). -/
def spadSize (core level : Nat) : Nat :=
  if isStackCore core then (if level = 0 then 2 ^ 17 else if level = 1 then 2 ^ 21 else 2 ^ 24)
  else (if level = 0 then 2 ^ 19 else if level = 1 then 2 ^ 22 else 2 ^ 25)

/-- Which scratchpad of a level a core reaches (R20). -/
def spadIndex (core level : Nat) : Nat := if level = 0 then core else if level = 1 then core / 16 else core / 64

/-- Key of a physical scratchpad byte. -/
def spadKey (core level p : Nat) : Nat := (level * 1024 + spadIndex core level) * 2 ^ 26 + p

/-- Banks of a level (R267). -/
def spadBanks (level : Nat) : Nat := if level = 0 then 32 else if level = 1 then 64 else 128

/-- Row width of a level (R267). -/
def spadRow (level : Nat) : Nat := 16 * spadBanks level

/-- The core whose bank unit holds a physical offset (R267). -/
def bankCore (core level p : Nat) : Nat :=
  let t := p / spadRow level
  if level = 0 then core else if level = 1 then core / 16 * 16 + t % 16 else core / 64 * 64 + t % 64

/-- Fields of a descriptor (R69); LEVEL 3 and SWIZZLE 7 are unused. -/
def spadBase (d : DWord) : Nat := bits d.toNat 0 26
def spadBytes (d : DWord) : Nat := if bits d.toNat 58 2 = 3 ∨ bits d.toNat 60 3 = 7 then 0 else bits d.toNat 32 26
def spadLvl (d : DWord) : Nat := bits d.toNat 58 2
def spadSwz (d : DWord) : Nat := bits d.toNat 60 3

/-- The descriptor of lowest number that holds a byte of a level (R269). -/
def spadDesc (l : Launch) (level o : Nat) : Option DWord :=
  l.spads.find? fun d => spadLvl d == level && decide (spadBase d ≤ o) && decide (o < spadBase d + spadBytes d)

/-- Whether a region owns a byte of a scratchpad (R268). -/
def spadOwned (s : State) (region level idx o : Nat) : Bool :=
  s.owners.any fun w => w.region == region && w.level == level && w.index == idx && decide (w.base ≤ o) && decide (o < w.base + w.size)

/-- Every byte of an access lies in a descriptor and is owned by the region (R268). -/
def spadOk (s : State) (l : Launch) (core level o n : Nat) : Bool :=
  decide (o + n ≤ spadSize core level) &&
    (List.range n).all fun k => (spadDesc l level (o + k)).isSome && spadOwned s l.node.regionId level (spadIndex core level) (o + k)

/-- Physical offset under a base, size and swizzle code (R269). -/
def swizzle (level base size code o : Nat) : Nat :=
  let o' := o - base
  let w := spadRow level
  if code = 0 ∨ size < o' / w * w + w then o
  else
    let span := 2 ^ (code + 3)
    let t := o' / w
    let j := o' % w / 16
    let key := t * (span / 16) % spadBanks level
    base + t * w + 16 * (j ^^^ key) + o' % 16

/-- Physical offset of an ordinary access (R269). -/
def spadPhys (l : Launch) (level o : Nat) : Nat :=
  match spadDesc l level o with
  | some d => swizzle level (spadBase d) (spadBytes d) (spadSwz d) o
  | none => o

/-- Bytes of a scratchpad by key. -/
def State.spadRead (s : State) (key n : Nat) : Nat := Memory.readLE s.spad key n

/-- Whether a bank word that the bytes touch is poisoned (R270). -/
def State.spadBad (s : State) (key n : Nat) : Bool := poisoned 16 s.spadPoison key n

/-- Bytes written to a scratchpad; whole bank words lose their poison. -/
def State.spadWrite (s : State) (key : Nat) (bs : List Byte) : State :=
  { s with spad := Memory.writeBytes s.spad key bs, spadPoison := poisonAfterWrite 16 s.spadPoison key bs.length }

/-- The bytes [o, o + n) of a row fall within descriptors of the level and are owned, without being written out one by one where a
single descriptor and owner hold them (R238, R247). -/
def spadRangeOk (s : State) (l : Launch) (core level o n : Nat) : Bool :=
  decide (o + n ≤ spadSize core level) &&
    ((l.spads.any fun d => spadLvl d == level && decide (spadBase d ≤ o) && decide (o + n ≤ spadBase d + spadBytes d)) &&
      (s.owners.any fun w => w.region == l.node.regionId && w.level == level && w.index == spadIndex core level &&
        decide (w.base ≤ o) && decide (o + n ≤ w.base + w.size)) ||
    spadOk s l core level o n)

end Sys2Proof.Machine
end

