-- ==== Sys2Proof/Machine/Image.lean ====
section
/-! DEFINITION. Images of groups in memory: the header (R71), the ingot (R72, R73), register bodies, the destination block (R74),
and what is read back from an image at re-entry. -/

namespace Sys2Proof.Machine

/-- Fields packed from bit 0 upward: (width, value). -/
def pack : List (Nat × Nat) → Nat
  | [] => 0
  | (w, x) :: t => x % 2 ^ w + 2 ^ w * pack t

/-! ## What travels (R44, R72, R74) -/

/-- Allocation indices of the live vector registers. -/
def liveV (g : Group) (valloc : Nat) : List Nat :=
  if g.live.declared then (List.range g.live.vcount).map (g.live.vbase + ·)
  else (List.range (min 112 (valloc - g.vwb))).map (g.vwb + ·)

/-- Allocation indices of the live scalar registers. -/
def liveS (g : Group) (salloc : Nat) : List Nat :=
  if g.live.declared then (List.range g.live.scount).map (g.live.sbase + ·)
  else (List.range (min 112 (salloc - g.swb))).map (g.swb + ·)

/-- The destination block of an instruction (R74), as an operand. -/
def destBlock (uni : Bool) (i : Instr) : Option Opnd :=
  match i with
  | .mov d _ f => if d.toNat < 112 then (if f.toNat = 0 then some (.dst d.toNat 1) else (i.opnds uni).head?) else none
  | .lepoch d _ _ => if d.toNat < 112 then some (.vec d.toNat 2) else none
  | .tmove d _ _ | .mdrain d _ _ _ => if d.toNat < 112 then some (.scal d.toNat 2) else none
  | .mlicQry d => some (.scal d.toNat 1)
  | _ =>
    match (i.opnds uni).head? with
    | some (.dst f n) => if f < 112 then some (.dst f n) else none
    | _ => none

/-- Allocation indices and kind (scalar or not) of a destination block. -/
def destRegs (g : Group) (uni : Bool) : Option Opnd → Bool × List Nat
  | some (.dst f n) => if uni then (true, (List.range n).map (g.swb + f + ·)) else (false, (List.range n).map (g.vwb + f + ·))
  | some (.vec f n) => (false, (List.range n).map (g.vwb + f + ·))
  | some (.scal f n) => (true, (List.range n).map (g.swb + f + ·))
  | _ => (false, [])

/-- The registers of a unit as it leaves a slot: live registers, and destinations (R46, R74). -/
def carry (g : Group) (sl : Slot) (destS : Bool) (dest : List Nat) : Carried :=
  let lanes (k : Nat) := perStrand fun i => if inMask g.mask i then sl.vec k i else 0
  { v := (liveV g sl.valloc).map fun k => (k, lanes k),
    s := (liveS g sl.salloc).map fun k => (k, sl.scal k),
    destV := if destS then [] else dest.map fun k => (k, lanes k),
    destS := if destS then dest.map fun k => (k, sl.scal k) else [],
    full := false, wrote := [] }

/-- Every register, for a checkpoint record (R75). -/
def carryAll (g : Group) (sl : Slot) : Carried :=
  { v := (List.range sl.valloc).map fun k => (k, perStrand fun i => if inMask g.mask i then sl.vec k i else 0),
    s := (List.range sl.salloc).map fun k => (k, sl.scal k), destV := [], destS := [], full := true, wrote := [] }

/-! ## Register bodies (R73) -/

/-- Delta of a strand from the base as a signed integer. -/
def laneDelta (base x : Word) : Int := (x - base).toInt

/-- Format byte of a register (R73). -/
def bodyFormat (mask : Word) (lanes : List Word) : Nat :=
  let base := laneAt lanes (lowest mask)
  let ds := (strands mask).map fun i => laneDelta base (laneAt lanes i)
  let fits (n : Nat) := ds.all fun d => decide (-(2 ^ (8 * n - 1)) ≤ d) && decide (d < 2 ^ (8 * n - 1))
  if ds.all (· == 0) then 0x20 else if fits 1 then 0x10 else if fits 2 then 0x11 else if fits 3 then 0x12 else 0x00

/-- Body of a register in a format, not padded. -/
def bodyBytes (mask : Word) (lanes : List Word) (f : Nat) : List Byte :=
  let base := laneAt lanes (lowest mask)
  if f = 0x20 then bytesLE 4 base.toNat
  else if f = 0x00 then (List.range 32).flatMap fun i => bytesLE 4 (if inMask mask i then (laneAt lanes i).toNat else 0)
  else
    let n := f - 0x0F
    bytesLE 4 base.toNat ++ (List.range 32).flatMap fun i =>
      bytesLE n (if inMask mask i then wrap (8 * n) (laneDelta base (laneAt lanes i)) else 0)

/-- Bytes of a body before padding; none for a format byte not in the table. -/
def bodySize (f : Nat) : Option Nat :=
  match f with
  | 0x20 => some 4 | 0x10 => some 36 | 0x11 => some 68 | 0x12 => some 100 | 0x00 => some 128
  | _ => none

/-- The register of a body (R73): strands outside the mask read zero. -/
def bodyLanes (mask : Word) (f : Nat) (bs : List Byte) : List Word :=
  let base := natLE (bs.take 4)
  perStrand fun i =>
    if !inMask mask i then 0
    else if f = 0x20 then BitVec.ofNat 32 base
    else if f = 0x00 then BitVec.ofNat 32 (natLE ((bs.drop (4 * i)).take 4))
    else
      let n := f - 0x0F
      wordOf (base + sext (natLE ((bs.drop (4 + n * i)).take n)) (8 * n))

/-! ## The header (R71) -/

/-- What the header holds beside the unit itself. -/
structure HeadInfo where
  valloc : Nat
  salloc : Nat
  region : Nat
  lic : Bool
  seq : Nat
  deriving DecidableEq, Repr, Inhabited

/-- Header doubleword 2 bits [53:0]: windows and live declaration, the form of a record's lead context (R71, R331). -/
def liveWord (vwb swb : Nat) (l : Live) : Nat :=
  pack [(9, vwb), (9, swb), (9, l.vbase), (6, l.vcount), (9, l.sbase), (6, l.scount), (5, l.bar), (1, bitNat l.declared)]

/-- The eight doublewords of a header. -/
def headWords (g : Group) (h : HeadInfo) (c : Carried) : List Nat :=
  let isS := !c.destS.isEmpty
  let dest := if isS then c.destS.map (·.1) else c.destV.map (·.1)
  let p (k : Nat) := (g.preds.getD (k - 1) 0).toNat
  let setBits := natOfBits (g.flags.map (·.set))
  let faultBits := natOfBits (g.flags.map fun f => f.pending.isSome)
  [ pack [(54, g.pc / 4), (10, g.anchor)],
    pack [(32, g.mask.toNat), (10, h.valloc), (10, h.salloc), (9, g.launchSlot), (2, dest.length), (1, bitNat isS)],
    pack [(54, liveWord g.vwb g.swb g.live), (1, bitNat g.handler), (1, bitNat h.lic), (1, bitNat g.twinned)],
    pack [(32, p 1), (32, p 2)], pack [(32, p 3), (32, p 4)], pack [(32, p 5), (32, p 6)], pack [(32, p 7), (32, h.region)],
    pack [(12, setBits), (12, faultBits), (12, h.seq), (9, dest.headD 0), (9, g.msRows), (4, g.msFlag), (5, g.rejoin)] ]

/-- Header bytes. -/
def headBytes (g : Group) (h : HeadInfo) (c : Carried) : List Byte := (headWords g h c).flatMap (bytesLE 8)

/-- Trap block (R72). -/
def trapBlock (g : Group) : List Byte :=
  bytesLE 8 g.trapPc ++ bytesLE 8 g.trapAddr ++ bytesLE 4 g.trapCause.toNat ++ List.replicate 12 0

/-- The ingot of a unit (R72). -/
def ingotBytes (g : Group) (h : HeadInfo) (c : Carried) : List Byte :=
  headBytes g h c ++ (if g.handler then trapBlock g else []) ++
    padTo 8 (c.v.map fun r => BitVec.ofNat 8 (bodyFormat g.mask r.2)) ++
    (c.v.flatMap fun r => padTo 8 (bodyBytes g.mask r.2 (bodyFormat g.mask r.2))) ++
    padTo 8 (c.s.flatMap fun r => bytesLE 4 r.2.toNat) ++
    (if c.destS.isEmpty then
      c.destV.flatMap fun r => (List.range 32).flatMap fun i => bytesLE 4 (if inMask g.mask i then (laneAt r.2 i).toNat else 0)
    else padTo 8 (c.destS.flatMap fun r => bytesLE 4 r.2.toNat))

/-! ## Reading an image back (R71, R73, R328) -/

/-- Bodies read in order from the bytes after the format bytes; none when a format byte is not in the table. -/
def readBodies (mask : Word) : List (Nat × Nat) → List Byte → Option (List (Nat × List Word) × List Byte)
  | [], bs => some ([], bs)
  | (k, f) :: t, bs =>
    match bodySize f with
    | none => none
    | some n =>
      match readBodies mask t (bs.drop (roundUp n 8)) with
      | none => none
      | some (rs, rest) => some ((k, bodyLanes mask f (bs.take n)) :: rs, rest)

/-- The registers of an image, given what the unit carried when it was written. -/
def readCarried (g : Group) (c : Carried) (bs : List Byte) : Option Carried :=
  let fmts := (bs.take c.v.length).map (·.toNat)
  match readBodies g.mask ((c.v.map (·.1)).zip fmts) (bs.drop (roundUp c.v.length 8)) with
  | none => none
  | some (v, rest) =>
    let s := (c.s.zipIdx).map fun r => (r.1.1, BitVec.ofNat 32 (natLE ((rest.drop (4 * r.2)).take 4)))
    let rest := rest.drop (roundUp (4 * c.s.length) 8)
    let destV := (c.destV.zipIdx).map fun r => (r.1.1, bodyLanes g.mask 0x00 (rest.drop (128 * r.2)))
    let destS := (c.destS.zipIdx).map fun r => (r.1.1, BitVec.ofNat 32 (natLE ((rest.drop (4 * r.2)).take 4)))
    some { c with v, s, destV, destS }

/-- The unit of an ingot image read back: only PC_W may differ from what was written, and every format byte must be in the table; none
makes the re-entry fail with fault 0x7F (R71, R73). -/
def readIngot (g : Group) (h : HeadInfo) (c : Carried) (bs : List Byte) : Option Group :=
  let dw0 := natLE (bs.take 8)
  let g' := { g with pc := 4 * bits dw0 0 54 }
  let body := if g.handler then bs.drop 96 else bs.drop 64
  let trapOk := !g.handler || (bs.drop 64).take 32 == trapBlock g
  if bs.take 64 = headBytes g' h c ∧ trapOk then (readCarried g c body).map fun c' => { g' with carried := some c' }
  else none

end Sys2Proof.Machine
end

