-- ==== Sys2Proof/Machine/Licence.lean ====
section
/-! DEFINITION. The matrix licence of a twin pair and the matrix arrays (R137, R244 to R246, R254 to R258). -/

namespace Sys2Proof.Machine

/-- An invalid tag (R254). -/
def Tag.none : Tag := { bfmt := 0, bblk := 0, level := 0, bscale := 0, valid := false }

/-- The zero image (R244). -/
def Matrix.zeroImage : Matrix :=
  { acc := [], active := [], shadow := [], tagA := Tag.none, tagS := Tag.none, ovf := [], dirty := [], record := none, stream := none }

namespace State

/-- The array of a core. -/
def array (s : State) (core : Nat) : MatArray :=
  (s.arrays.find? fun a => a.core == core).getD { core, m := Matrix.zeroImage, ops := [] }

/-- The array of a core replaced. -/
def putArray (s : State) (a : MatArray) : State :=
  { s with arrays := a :: s.arrays.filter fun b => b.core != a.core }

/-- The licence of a pair. -/
def pair (s : State) (lower : Nat) : TwinPair :=
  (s.pairs.find? fun p => p.lower == lower).getD
    { lower, holder := none, core := lower, waiters := [], saving := false, dying := false, prefer := none }

/-- The licence of a pair replaced. -/
def putPair (s : State) (p : TwinPair) : State :=
  { s with pairs := p :: s.pairs.filter fun q => q.lower != p.lower }

/-- `LICSTAT`.LOWER_ONLY: the top cooling loop is lost (R70, R351). -/
def lowerOnly (s : State) : Bool := s.topLost

/-- The pair whose licence a group holds (R245). -/
def licenceOf (s : State) (gid : Nat) : Option TwinPair := s.pairs.find? fun p => p.holder == some gid

end State

/-- The image that a group carries, whichever of its units has it (R256). -/
def imageOf (s : State) (gid : Nat) : Option Matrix := s.units.findSome? fun h => if h.gid = gid then h.image else none

/-- The requests of a group for a licence are over: its units that wait for one execute their instruction again. -/
def endWaits (s : State) (gid : Nat) : State :=
  let mine (u : Nat) : Bool := s.units.any fun h => h.uid == u && h.gid == gid
  { s with
    pairs := s.pairs.map fun p => { p with waiters := p.waiters.filter fun w => !mine w.1 }
    units := s.units.map fun h => if h.gid = gid ∧ h.wait = .mlic then { h with wait := .none } else h }

/-- A grant (R245, R256): the licence goes to the group of a unit, its image or the zero image is loaded into the array of its core,
and an interrupted stream goes on. A group holds one licence, and all of it: its other fragments that wait, for this licence or for
another pair's, execute their instruction again, which now finds the licence held (DEDUCED, log 70). -/
def grant (s : State) (lower : Nat) (maps : List DWord) (g : Group) : State :=
  let m := (imageOf s g.gid).getD Matrix.zeroImage
  let ops := match m.stream with | some o => [{ o with uid := g.uid, maps }] | none => []
  let s := (endWaits s g.gid).putArray { core := g.core, m := { m with stream := none }, ops }
  let s := s.putPair { s.pair lower with holder := some g.gid, core := g.core, saving := false, dying := false, prefer := none }
  { s with units := s.units.map fun h => if h.gid = g.gid then { h with image := none, msRows := 0, msFlag := 0 } else h }

/-- The waiter that a freed licence goes to (R246, R255): the oldest on the preferred core if one is named, else the oldest; none on
an upper die while LOWER_ONLY is 1. -/
def nextWaiter (s : State) (p : TwinPair) : Option (Nat × Nat) :=
  let ok := p.waiters.filter fun w => !(s.lowerOnly && isUpper w.2)
  match p.prefer with
  | some c => (ok.find? fun w => w.2 == c).orElse fun _ => ok.head?
  | none => ok.head?

/-- The licence given up: its holder loses it, its array stands idle with the zero image; the grant is made by LICENCE_GRANT. -/
def freeLicence (s : State) (p : TwinPair) : State :=
  (s.putArray { core := p.core, m := Matrix.zeroImage, ops := [] }).putPair
    { p with holder := none, saving := false, dying := false, prefer := none }

/-- The matrix state of a holder taken into an image (R254, R255): the sequencer stops at a row boundary, an interrupted stream is
recorded, its rows done standing in it. -/
def takeImage (s : State) (p : TwinPair) : Matrix :=
  let a := s.array p.core
  { a.m with stream := (a.ops.find? fun o => o.kind == 1).orElse fun _ => a.m.stream }

/-- Halting and saving of a holder's matrix state, after which the licence is free (R255 steps 1 to 3, R257): an `MLDW` or `MDRAIN` in
progress is taken to its end by `finish` before. -/
def giveUpImage (s : State) (g : Group) : State × Group :=
  match s.licenceOf g.gid with
  | none => (s, g)
  | some p =>
    let m := takeImage s p
    let (rows, flag) := match m.stream with | some o => (o.row, o.flag) | none => (0, 0)
    let s := freeLicence s p
    (s.putPair { s.pair p.lower with prefer := some (twinOf p.core) }, { g with image := some m, msRows := rows, msFlag := flag })

/-- A group that holds the licence of a core of an upper die, and gives it up for the loss of the top cooling loop (R257). -/
def upperHolder (s : State) (gid : Nat) : Bool := s.topLost && (s.licenceOf gid).any fun p => p.saving && isUpper p.core

/-- Side block of an image (R254). -/
def tagWord (t : Tag) : Nat := pack [(4, t.bfmt), (2, t.bblk), (2, t.level), (16, t.bscale), (1, bitNat t.valid)]

def sideBlock (m : Matrix) : List Byte :=
  let (fb, ctl, st) := match m.stream with | some o => (o.fb, o.ctl, 1 + 2 * bitNat (o.flag == 0)) | none => (0, 0, 0)
  bytesLE 32 (natOfBits ((List.range 256).map m.ovf.contains)) ++ bytesLE 4 (tagWord m.tagA) ++ bytesLE 4 (tagWord m.tagS) ++
    bytesLE 8 fb ++ bytesLE 8 ctl ++ bytesLE 1 st ++ List.replicate 7 0

/-- Bytes of 128 words of a row. -/
def rowBytes (rows : List (Nat × List Word)) (q : Nat) : List Byte :=
  let r := lookupD rows q []
  (List.range 128).flatMap fun n => bytesLE 4 (laneAt r n).toNat

/-- The 128 words of a row read back. -/
def rowOfBytes (bs : List Byte) : List Word := (List.range 128).map fun n => BitVec.ofNat 32 (natLE ((bs.drop (4 * n)).take 4))

end Sys2Proof.Machine
end

