-- ==== Sys2Proof/Machine/Numbers.lean ====
section
/-! DEFINITION. Number formats, rounding, conversions, special functions and the residue triple (R104 to R119, R160 to R165,
R168). A floating-point value is an exact dyadic number with a sign, an infinity or NaN; one rounding function serves every
format. -/

namespace Sys2Proof.Machine

/-! ## Floating-point values (R107, R113) -/

/-- An exact value: (−1)^neg × m × 2^e, an infinity or NaN. -/
inductive FVal where
  | nan
  | inf (neg : Bool)
  | fin (neg : Bool) (m : Nat) (e : Int)
  deriving DecidableEq, Repr, Inhabited

/-- Signed mantissa of a finite value. -/
def signed (neg : Bool) (m : Nat) : Int := if neg then -(m : Int) else m

/-- The exact value z × 2^e; a zero is +0. -/
def FVal.ofInt (z e : Int) : FVal := .fin (decide (z < 0)) z.natAbs e

/-- Exact sum of two values; `rd` when the rounding mode is toward −∞, which decides the sign of a zero sum (R113). -/
def FVal.add (rd : Bool) : FVal → FVal → FVal
  | .nan, _ => .nan
  | _, .nan => .nan
  | .inf a, .inf b => if a = b then .inf a else .nan
  | .inf a, _ => .inf a
  | _, .inf b => .inf b
  | .fin a m e, .fin b n f =>
    let g := min e f
    let z := signed a m * 2 ^ (e - g).toNat + signed b n * 2 ^ (f - g).toNat
    if z = 0 then .fin (if m = 0 ∧ n = 0 ∧ a = b then a else rd) 0 0 else .ofInt z g

/-- Exact product (R113). -/
def FVal.mul : FVal → FVal → FVal
  | .nan, _ => .nan
  | _, .nan => .nan
  | .inf a, .inf b => .inf (a != b)
  | .inf a, .fin b n _ => if n = 0 then .nan else .inf (a != b)
  | .fin a m _, .inf b => if m = 0 then .nan else .inf (a != b)
  | .fin a m e, .fin b n f => .fin (a != b) (m * n) (e + f)

/-- x × 2^k. -/
def FVal.scale (k : Int) : FVal → FVal
  | .fin s m e => .fin s m (e + k)
  | x => x

/-- Exact sum of a list of addends. -/
def FVal.sum (rd : Bool) : List FVal → FVal
  | [] => .fin false 0 0
  | x :: xs => xs.foldl (FVal.add rd) x

/-! ## Formats (R104, R107) -/

/-- A floating-point format: exponent bits, mantissa bits, bias, the code of the largest finite value, infinities, the canonical NaN
if there is one, and whether FTZ applies (R111). -/
structure Fmt where
  ebits : Nat
  mbits : Nat
  bias : Nat
  maxCode : Nat
  hasInf : Bool
  nan : Option Nat
  ftz : Bool
  deriving DecidableEq, Repr, Inhabited

def Fmt.fp32 : Fmt := ⟨8, 23, 127, 0x7F7FFFFF, true, some 0x7FC00000, true⟩
def Fmt.fp16 : Fmt := ⟨5, 10, 15, 0x7BFF, true, some 0x7E00, true⟩
def Fmt.bf16 : Fmt := ⟨8, 7, 127, 0x7F7F, true, some 0x7FC0, true⟩
def Fmt.e4m3 : Fmt := ⟨4, 3, 7, 0x7E, false, some 0x7F, false⟩
def Fmt.e5m2 : Fmt := ⟨5, 2, 15, 0x7B, true, some 0x7E, false⟩
def Fmt.e3m2 : Fmt := ⟨3, 2, 3, 0x1F, false, none, false⟩
def Fmt.e2m3 : Fmt := ⟨2, 3, 1, 0x1F, false, none, false⟩
def Fmt.e2m1 : Fmt := ⟨2, 1, 1, 0x7, false, none, false⟩

/-- Width of a format in bits. -/
def Fmt.width (f : Fmt) : Nat := 1 + f.ebits + f.mbits

/-- The value of a code (R107). -/
def Fmt.value (f : Fmt) (code : Nat) : FVal :=
  let mag := bits code 0 (f.ebits + f.mbits)
  let neg := bit code (f.ebits + f.mbits)
  if f.maxCode < mag ∧ (f.hasInf ∨ f.nan.isSome) then (if f.hasInf ∧ mag = f.maxCode + 1 then .inf neg else .nan)
  else
    let e := mag / 2 ^ f.mbits
    let x := mag % 2 ^ f.mbits
    if e = 0 then .fin neg x (1 - (f.bias : Int) - f.mbits) else .fin neg (2 ^ f.mbits + x) ((e : Int) - f.bias - f.mbits)

/-- A subnormal value read as zero of its sign (R111). -/
def Fmt.flush (f : Fmt) (x : FVal) : FVal :=
  match x with
  | .fin s m e => if f.ftz ∧ m < 2 ^ f.mbits ∧ e = 1 - (f.bias : Int) - f.mbits then .fin s 0 0 else x
  | _ => x

/-- The value of an operand under a rounding control (R111). -/
def Fmt.operand (f : Fmt) (m code : Nat) : FVal := if bit m 2 then f.flush (f.value code) else f.value code

/-! ## Rounding (R109, R110) -/

/-- m × 2^e divided by 2^q, rounded to an integer magnitude by mode rm (0 RNE, 1 RZ, 2 RU, 3 RD); `neg` is the sign. -/
def roundAt (rm : Nat) (neg : Bool) (m : Nat) (e q : Int) : Nat :=
  if q ≤ e then m * 2 ^ (e - q).toNat
  else
    let k := (q - e).toNat
    let lo := m / 2 ^ k
    let r := m % 2 ^ k
    let up :=
      if r = 0 then false
      else if rm = 0 then decide (2 ^ k < 2 * r) || (decide (2 * r = 2 ^ k) && lo % 2 == 1)
      else if rm = 1 then false
      else if rm = 2 then !neg
      else neg
    if up then lo + 1 else lo

/-- The sign bit of a format at its place. -/
def Fmt.signed (f : Fmt) (neg : Bool) (mag : Nat) : Nat := (if neg then 2 ^ (f.ebits + f.mbits) else 0) + mag

/-- An exact value rounded to a format under a rounding control (R110 to R113). -/
def Fmt.round (f : Fmt) (m : Nat) (x : FVal) : Nat :=
  match x with
  | .nan => f.nan.getD 0
  | .inf neg => if f.hasInf then f.signed neg (f.maxCode + 1)
      else if f.nan.isSome ∧ !bit m 3 then f.nan.getD 0 else f.signed neg f.maxCode
  | .fin neg mant e =>
    if mant = 0 then f.signed neg 0
    else
      let emin : Int := 1 - (f.bias : Int) - f.mbits
      let q := max (Nat.log2 mant + e - f.mbits) emin
      let n := roundAt (m % 4) neg mant e q
      let code := (q - emin).toNat * 2 ^ f.mbits + n
      if f.maxCode < code then
        if bit m 3 then f.signed neg f.maxCode
        else if f.hasInf then
          (if m % 4 = 0 ∨ (m % 4 = 2 ∧ !neg) ∨ (m % 4 = 3 ∧ neg) then f.signed neg (f.maxCode + 1)
            else f.signed neg f.maxCode)
        else if f.nan.isSome then f.nan.getD 0
        else f.signed neg f.maxCode
      else if f.ftz ∧ bit m 2 ∧ code < 2 ^ f.mbits then f.signed neg 0
      else f.signed neg code

/-- `Round32(x, m)` (R109). -/
def round32 (m : Nat) (x : FVal) : Word := BitVec.ofNat 32 (Fmt.fp32.round m x)

/-- The FP32 value of a word. -/
def f32 (w : Word) : FVal := Fmt.fp32.value w.toNat

/-- Rounding mode toward −∞ (R109). -/
def isRd (m : Nat) : Bool := m % 4 == 3

/-! ## FP32 comparisons (R160, R161, R165) -/

/-- A word that is an FP32 NaN. -/
def isNan32 (w : Word) : Bool := decide (0x7F800000 < bits w.toNat 0 31)

/-- Order of FP32 values; the zeros are equal. -/
def key32 (w : Word) : Int := if bit w.toNat 31 then -(bits w.toNat 0 31 : Int) else bits w.toNat 0 31

/-- Order of FP32 values with −0 below +0. -/
def keyZ32 (w : Word) : Int := if bit w.toNat 31 then -(bits w.toNat 0 31 : Int) - 1 else bits w.toNat 0 31

/-- The canonical NaN of FP32. -/
def nan32 : Word := 0x7FC00000#32

/-- `.min` and `.max` of R160. -/
def fminmax (mx : Bool) (a b : Word) : Word :=
  if isNan32 a then (if isNan32 b then nan32 else b)
  else if isNan32 b then a
  else if mx then (if keyZ32 a < keyZ32 b then b else a)
  else (if keyZ32 b < keyZ32 a then b else a)

/-- A condition of `FSETP` (R161). -/
def fcond (c : Nat) (a b : Word) : Bool :=
  let un := isNan32 a || isNan32 b
  match c with
  | 0 => !un && decide (key32 a = key32 b)
  | 1 => un || decide (key32 a ≠ key32 b)
  | 2 => !un && decide (key32 a < key32 b)
  | 3 => !un && decide (key32 a ≤ key32 b)
  | 4 => !un && decide (key32 b < key32 a)
  | 5 => !un && decide (key32 b ≤ key32 a)
  | 6 => !un
  | _ => un

/-- The class mask of a code of a format (R165). -/
def fclassOf (f : Fmt) (code : Nat) : Nat :=
  let mag := bits code 0 (f.ebits + f.mbits)
  let neg := bit code (f.ebits + f.mbits)
  match f.value code with
  | .nan => if f.hasInf ∧ !bit code (f.mbits - 1) then 2 ^ 8 else 2 ^ 9
  | .inf _ => if neg then 2 ^ 0 else 2 ^ 7
  | .fin _ _ _ =>
    if mag = 0 then (if neg then 2 ^ 3 else 2 ^ 4)
    else if mag < 2 ^ f.mbits then (if neg then 2 ^ 2 else 2 ^ 5)
    else (if neg then 2 ^ 1 else 2 ^ 6)

/-! ## The residue triple (R117 to R119) -/

/-- An invalid triple. -/
def rtBad (w : Nat) : Bool := bits w 27 5 != 0 || decide (509 ≤ bits w 0 9) || bits w 9 9 == 511

/-- Reconstruction of a triple from its residues (R119). -/
def rtJoin (a1 a2 a3 : Nat) : Int :=
  let x := (a1 * 22238720 + a2 * 66455040 + a3 * 44476929) % 133170688
  if 66585344 ≤ x then (x : Int) - 133170688 else x

/-- The integer of a valid triple. -/
def rtValue (w : Nat) : Int := rtJoin (bits w 0 9) (bits w 9 9) (bits w 18 9)

/-- The triple of an integer (R118). -/
def rtOf (saturate : Bool) (x : Int) : Nat :=
  let y := if saturate then sat x (-66585344) 66585343 else x
  (y % 509).toNat + (y % 511).toNat * 2 ^ 9 + (y % 512).toNat * 2 ^ 18

/-! ## Conversions (R115) -/

/-- A number as a conversion sees it: an integer, a real, or an invalid triple. -/
inductive Num where
  | int (z : Int)
  | real (x : FVal)
  | bad
  deriving DecidableEq, Repr, Inhabited

/-- Width of a format number (R104). -/
def fmtWidth (n : Nat) : Nat :=
  match n with
  | 0x00 | 0x01 | 0x08 | 0x12 => 32
  | 0x02 | 0x03 | 0x09 | 0x0A => 16
  | 0x04 | 0x05 | 0x0B | 0x0C | 0x10 | 0x11 => 8
  | 0x0D | 0x0E => 6
  | _ => 4

/-- Elements of a format that a register holds (R105, R168). -/
def fmtCapacity (n : Nat) : Nat := if fmtWidth n = 6 then 5 else 32 / fmtWidth n

/-- An integer format is signed. -/
def fmtSigned (n : Nat) : Bool := n % 2 == 0

/-- The floating-point format of a number from 0x08 to 0x0F. -/
def fmtOf (n : Nat) : Fmt :=
  match n with
  | 0x09 => .fp16 | 0x0A => .bf16 | 0x0B => .e4m3 | 0x0C => .e5m2 | 0x0D => .e3m2 | 0x0E => .e2m3 | 0x0F => .e2m1
  | _ => .fp32

/-- Least and largest value of an integer format (R106). -/
def intRange (n : Nat) : Int × Int :=
  if fmtSigned n then (-(2 ^ (fmtWidth n - 1)), 2 ^ (fmtWidth n - 1) - 1) else (0, 2 ^ fmtWidth n - 1)

/-- The value of a code of a format under a rounding control. -/
def numOf (n m code : Nat) : Num :=
  let c := bits code 0 (fmtWidth n)
  if n < 8 then .int (if fmtSigned n then sext c (fmtWidth n) else c)
  else if n < 0x10 then .real ((fmtOf n).operand m c)
  else if n = 0x10 then .real (if c = 0xFF then .nan else .fin false 1 ((c : Int) - 127))
  else if n = 0x11 then .real (.ofInt (sext c 8) (-6))
  else if rtBad c then .bad else .int (rtValue c)

/-- A real rounded to an integer by RM and clamped; NaN gives 0 (R115). -/
def realToInt (m : Nat) (lo hi : Int) (x : FVal) : Int :=
  match x with
  | .nan => 0
  | .inf neg => if neg then lo else hi
  | .fin neg mant e => sat (signed neg (roundAt (m % 4) neg mant e 0)) lo hi

/-- E8M0 code of a real (R115). -/
def realToE8m0 (x : FVal) : Nat :=
  match x with
  | .nan => 0xFF
  | .inf _ => 0xFF
  | .fin _ mant e => if mant = 0 then 0 else (sat (Nat.log2 mant + e + 127) 0 254).toNat

/-- An integer as a real. -/
def intReal (z : Int) : FVal := FVal.ofInt z 0

/-- The code, in the width of the destination format, of a number converted under a rounding control (R115, R118). -/
def convertTo (n m : Nat) (x : Num) : Nat :=
  let w := fmtWidth n
  if n < 8 then
    match x with
    | .int z => wrap w (if bit m 3 then sat z (intRange n).1 (intRange n).2 else z)
    | .bad => wrap w (if bit m 3 then sat (-(2 ^ 31)) (intRange n).1 (intRange n).2 else -(2 ^ 31))
    | .real v => wrap w (realToInt m (intRange n).1 (intRange n).2 v)
  else if n < 0x10 then
    match x with
    | .int z => (fmtOf n).round m (intReal z)
    | .bad => (fmtOf n).round m .nan
    | .real v => (fmtOf n).round m v
  else if n = 0x10 then
    match x with
    | .int z => realToE8m0 (intReal z)
    | .bad => 0xFF
    | .real v => realToE8m0 v
  else if n = 0x11 then
    match x with
    | .int z => wrap 8 (sat (z * 64) (-128) 127)
    | .bad => 0
    | .real v => wrap 8 (realToInt m (-128) 127 (v.scale 6))
  else
    match x with
    | .int z => rtOf (bit m 3) z
    | .bad => 0
    | .real v => rtOf true (realToInt m (-(2 ^ 31)) (2 ^ 31 - 1) v)

/-- A code of width w placed in a word: sign copies above INT16, INT8 and INT4, zeros above every other format (R164). -/
def widen (n code : Nat) : Word :=
  if n < 8 ∧ fmtSigned n then wordOf (sext code (fmtWidth n)) else BitVec.ofNat 32 code

/-- `FCVT` of one element (R164): format X, direction, pivot, rounding control. -/
def fcvtOf (x : Nat) (toPivot intPivot : Bool) (m : Nat) (a : Word) : Word :=
  let p := if intPivot then 0x00 else 0x08
  if toPivot then widen p (convertTo p m (numOf x m a.toNat)) else widen x (convertTo x m (numOf p m a.toNat))

/-- The real that a number denotes; an invalid triple denotes none. -/
def numReal (x : Num) : FVal :=
  match x with
  | .int z => intReal z
  | .real v => v
  | .bad => .nan

/-- `PCVT` of one strand (R168): rounding control m, control word c, operands a and d. An invalid `.rt` word unpacked with SCALED and SCALE
0xFF, which two sentences of the rule name, gives −2,147,483,648 (DEDUCED, log 82). -/
def pcvtOf (m : Nat) (c a d : Word) : Word :=
  let n := bits c.toNat 0 5
  let slot := bits c.toNat 5 3
  let unpack := bit c.toNat 8
  let scaled := bit c.toNat 9
  let sc := bits c.toNat 16 8
  let w := fmtWidth n
  if n = 0x00 ∨ n = 0x01 ∨ n = 0x08 ∨ 0x13 ≤ n ∨ fmtCapacity n ≤ slot then (if unpack then 0#32 else d)
  else
    let pivot := if n < 8 ∨ n = 0x12 then 0x00 else 0x08
    if unpack then
      let x := numOf n m (bits a.toNat (w * slot) w)
      let y : Num :=
        if x = .bad then .bad
        else if scaled then (if sc = 0xFF then .real .nan else .real ((numReal x).scale ((sc : Int) - 127)))
        else x
      BitVec.ofNat 32 (convertTo pivot m y)
    else
      let x := numOf pivot m a.toNat
      let e :=
        if scaled then
          (if sc = 0xFF then 0 else convertTo n (m ||| 8) (.real ((numReal x).scale (127 - (sc : Int)))))
        else convertTo n m x
      BitVec.ofNat 32 (d.toNat - bits d.toNat (w * slot) w * 2 ^ (w * slot) + e % 2 ^ w * 2 ^ (w * slot))

/-! ## Packed and dot-product arithmetic (R166, R167) -/

/-- One rounded a × b + d, a + b or a × b of a format's codes under a rounding control. -/
def fmaCode (f : Fmt) (m a b d : Nat) : Nat :=
  f.round m (FVal.add (isRd m) (FVal.mul (f.operand m a) (f.operand m b)) (f.operand m d))

def faddCode (f : Fmt) (m a b : Nat) : Nat := f.round m (FVal.add (isRd m) (f.operand m a) (f.operand m b))

def fmulCode (f : Fmt) (m a b : Nat) : Nat := f.round m (FVal.mul (f.operand m a) (f.operand m b))

/-- Two 16-bit elements computed apart (R166). -/
def packed2 (f : Nat → Nat) : Word := BitVec.ofNat 32 (f 0 % 2 ^ 16 + f 1 % 2 ^ 16 * 2 ^ 16)

/-- Element j of 16 bits. -/
def half (w : Word) (j : Nat) : Nat := bits w.toNat (16 * j) 16

/-- `DOT4` of one strand (R167). -/
def dot4Of (fv : Nat) (a b d : Word) : Word :=
  let t := fv % 8
  let satur := bit fv 3
  if t = 5 ∨ t = 6 then
    let f := if t = 5 then Fmt.e4m3 else Fmt.e5m2
    let prods := (List.range 4).map fun j => FVal.mul (f.value (bits a.toNat (8 * j) 8)) (f.value (bits b.toNat (8 * j) 8))
    round32 (if satur then 8 else 0) (FVal.add false (FVal.sum false prods) (f32 d))
  else
    let w := if t = 3 ∨ t = 4 then 4 else 8
    let el (sg : Bool) (x : Word) (j : Nat) : Int :=
      if sg then sext (bits x.toNat (w * j) w) w else bits x.toNat (w * j) w
    let aS := t == 0 || t == 2 || t == 3
    let bS := t == 0 || t == 3
    let s := ((List.range (32 / w)).map fun j => el aS a j * el bS b j).foldl (· + ·) 0
    let u := t == 1 || t == 4
    let y := (if u then (d.toNat : Int) else sgn d) + s
    wordOf (if satur then (if u then satU y else satS y) else y)

/-! ## Special functions (R162, R163)

The exact value is enclosed between two rationals p / 2^96 × 2^e; the result is one of the FP32 values within the bound of R162,
chosen by a free function of the operand (log 9). -/

/-- Working precision. -/
def fx : Nat := 96

/-- ⌊√n⌋ by bits, k steps. -/
def isqrtAux : Nat → Nat → Nat → Nat
  | 0, _, r => r
  | k + 1, n, r => if (r + 2 ^ k) * (r + 2 ^ k) ≤ n then isqrtAux k n (r + 2 ^ k) else isqrtAux k n r

/-- ⌊√n⌋. -/
def isqrt (n : Nat) : Nat := isqrtAux (Nat.log2 n / 2 + 1) n 0

/-- ⌊2^fx × log₂ x⌋ for 1 ≤ x < 2 given as x × 2^fx, by k squarings. -/
def log2Aux : Nat → Nat → Nat → Nat
  | 0, _, acc => acc
  | k + 1, x, acc =>
    let y := x * x / 2 ^ fx
    if 2 ^ (fx + 1) ≤ y then log2Aux k (y / 2) (2 * acc + 1) else log2Aux k y (2 * acc)

/-- 2^(f / 2^fx) × 2^fx for 0 ≤ f < 2^fx: bit by bit with roots of 2. -/
def exp2Aux : Nat → Nat → Nat → Nat → Nat
  | 0, _, _, acc => acc
  | k + 1, f, root, acc =>
    let root' := isqrt (root * 2 ^ fx)
    exp2Aux k (2 * f % 2 ^ fx) root' (if 2 ^ fx ≤ 2 * f then acc * root' / 2 ^ fx else acc)

/-- 2^(f / 2^fx) in units of 2^−fx. -/
def exp2Fx (f : Nat) : Nat := exp2Aux 80 f (2 * 2 ^ fx) (2 ^ fx)

/-- π × 2^96. -/
def piFx : Nat := 248902613312231085230521944622

/-- log₂ e × 2^96. -/
def log2eFx : Nat := 114302077158074026402637675936

/-- Sine or cosine series at x, all in units of 2^−fx: terms from n downward are added while fuel lasts. -/
def trigAux : Nat → Nat → Int → Int → Int → Int
  | 0, _, _, _, acc => acc
  | k + 1, n, x2, term, acc =>
    let t := -(term * x2 / 2 ^ fx) / ((n + 1) * (n + 2) : Nat)
    trigAux k (n + 2) x2 t (acc + t)

/-- sin(π y) or cos(π y) for 0 ≤ y ≤ 1/2, y in units of 2^−fx. -/
def sinpiFx (y : Nat) : Int := let x : Int := piFx * y / 2 ^ fx; trigAux 20 1 (x * x / 2 ^ fx) x x

def cospiFx (y : Nat) : Int := let x : Int := piFx * y / 2 ^ fx; trigAux 20 0 (x * x / 2 ^ fx) (2 ^ fx) (2 ^ fx)

/-- tanh series for small x: x − x³/3 + 2x⁵/15 − 17x⁷/315 + 62x⁹/2835, as a factor of x, in units of 2^−fx for x² in the same. -/
def tanhFactor (x2 : Nat) : Int :=
  let p1 : Int := x2; let p2 : Int := p1 * p1 / 2 ^ fx; let p3 := p2 * p1 / 2 ^ fx; let p4 := p2 * p2 / 2 ^ fx
  2 ^ fx - p1 / 3 + 2 * p2 / 15 - 17 * p3 / 315 + 62 * p4 / 2835

/-- The FP32 code at a place of the order of `key32`. -/
def codeOfKey (k : Int) : Word := if k < 0 then BitVec.ofNat 32 (2 ^ 31 + k.natAbs) else BitVec.ofNat 32 k.toNat

/-- An exact value rounded toward −∞ or +∞ to FP32, as an ordered key. -/
def keyDown (x : FVal) : Int := key32 (round32 3 x)
def keyUp (x : FVal) : Int := key32 (round32 2 x)

/-- ulp of R114 as an exponent, for a value of magnitude m × 2^e. -/
def ulpExp (m : Nat) (e : Int) : Int := if m = 0 then -149 else max (Nat.log2 m + e) (-126) - 23

/-- The FP32 value that the free choice picks among those within b (z, e: b = z × 2^e) of a value enclosed by [lo, hi] × 2^g. Where the
value lies so far beyond the FP32 range that none is (`.rcp` of a small subnormal), R162 states no result: the choice is between the largest
finite value and infinity, the two that R110 gives for an overflow (DESIGN CHOICE, log 9). -/
def fsfuPick (fn : Nat) (a : Word) (lo hi : Int) (g : Int) (bz : Nat) (be : Int) : Word :=
  let l := keyUp (FVal.add false (.ofInt lo g) (.fin true bz be))
  let h := keyDown (FVal.add false (.ofInt hi g) (.fin false bz be))
  codeOfKey (min l h + ((Config.fsfuChoice fn a % ((h - l).natAbs + 1) : Nat) : Int))

/-- A value of magnitude enclosed by [lo, hi] × 2^g with an error of b ulp, ulp = 2^ue. -/
def fsfuNear (fn : Nat) (a : Word) (neg : Bool) (lo hi : Nat) (g : Int) (b : Nat) (ue : Int) : Word :=
  fsfuPick fn a (signed neg (if neg then hi else lo)) (signed neg (if neg then lo else hi)) g b ue

/-- A value of magnitude enclosed by [lo, hi] × 2^g, of the binade of lo, with an error of b ulp. -/
def fsfuUlp (fn : Nat) (a : Word) (neg : Bool) (lo hi : Nat) (g : Int) (b : Nat) : Word :=
  fsfuNear fn a neg lo hi g b (ulpExp lo g)

/-- The signed zero, infinity and powers of two that R163 names. -/
def signZero (neg : Bool) : Word := if neg then 0x80000000#32 else 0#32
def signInf (neg : Bool) : Word := if neg then 0xFF800000#32 else 0x7F800000#32
def one32 (neg : Bool) : Word := if neg then 0xBF800000#32 else 0x3F800000#32

/-- m is a power of two. -/
def isPow2 (m : Nat) : Bool := decide (0 < m) && 2 ^ Nat.log2 m == m

/-- The fraction of m × 2^e in units of 2^−fx, for e ≥ −fx after the integer part is dropped modulo 2. -/
def frac2 (m : Nat) (e : Int) : Nat :=
  let k := e + fx
  (if 0 ≤ k then m * 2 ^ k.toNat else m / 2 ^ (-k).toNat) % 2 ^ (fx + 1)

/-- A result before the flush of `.ftz`: function number, operand, the operand's value. -/
def fsfuCore (fn : Nat) (a : Word) (x : FVal) : Word :=
  match x with
  | .nan => nan32
  | .inf neg =>
    match fn with
    | 0 => signZero neg
    | 1 => if neg then nan32 else 0#32
    | 2 => if neg then nan32 else signInf false
    | 3 => if neg then nan32 else signInf false
    | 4 => if neg then 0#32 else signInf false
    | 7 => one32 neg
    | _ => nan32
  | .fin neg m e =>
    match fn with
    | 0 =>
      if m = 0 then signInf neg
      else if isPow2 m then round32 0 (.fin neg 1 (-(Nat.log2 m + e)))
      else
        let q := 2 ^ (2 * fx) / m
        let g : Int := -(2 * fx : Nat) - e
        fsfuUlp fn a neg q (q + 1) g 1
    | 1 =>
      if m = 0 then signInf neg
      else if neg then nan32
      else
        let (m', e') := if e % 2 = 0 then (m, e) else (2 * m, e - 1)
        let q := isqrt (2 ^ (4 * fx) / m')
        fsfuUlp fn a false q (q + 1) (-(2 * fx : Nat) - e' / 2) 1
    | 2 =>
      if m = 0 then signZero neg
      else if neg then nan32
      else
        let (m', e') := if e % 2 = 0 then (m, e) else (2 * m, e - 1)
        let n := m' * 2 ^ 64
        let q := isqrt n
        round32 0 (.fin false (2 * q + (if q * q = n then 0 else 1)) (e' / 2 - 33))
    | 3 =>
      if m = 0 then signInf true
      else if neg then nan32
      else if isPow2 m then round32 0 (intReal (Nat.log2 m + e))
      else
        let n := Nat.log2 m
        let z : Int := (n + e) * 2 ^ fx + log2Aux fx (m * 2 ^ fx / 2 ^ n) 0
        if n + e = -1 ∨ n + e = 0 then fsfuPick fn a (z - 2 ^ 20) (z + 2 ^ 20) (-(fx : Nat)) 1 (-22)
        else fsfuNear fn a (decide (z < 0)) (z.natAbs - 2 ^ 20) (z.natAbs + 2 ^ 20) (-(fx : Nat)) 2 (ulpExp z.natAbs (-(fx : Nat)))
    | 4 =>
      let z := realToInt 3 (-1000) 1000 x
      if m = 0 then one32 false
      else if 128 ≤ z then signInf false
      else if decide (realToInt 2 (-1000) 1000 x = z) && decide (-149 ≤ z) then round32 0 (.fin false 1 z)
      else if z < -200 then fsfuPick fn a 0 1 (-200) 2 (-149)
      else
        let f := frac2 m e % 2 ^ fx
        let y := if neg then (if f = 0 then 2 ^ (fx + 1) else exp2Fx (2 ^ fx - f)) else exp2Fx f
        fsfuNear fn a false (y - 2 ^ 20) (y + 2 ^ 20) (z - (fx : Nat)) 2 (max z (-126) - 23)
    | 7 =>
      if m = 0 then signZero neg
      else
        let n := Nat.log2 m + e
        if n < -70 then fsfuUlp fn a neg (m * 2 ^ 60 - 1) (m * 2 ^ 60) (e - 60) 2
        else if n < -10 then
          let x2 := if 0 ≤ 2 * e + fx then m * m * 2 ^ (2 * e + fx).toNat else m * m / 2 ^ (-(2 * e + fx)).toNat
          let t := (tanhFactor x2).toNat * m
          fsfuUlp fn a neg (t - 2 ^ 30) (t + 2 ^ 30) (e - (fx : Nat)) 2
        else if 5 ≤ n then fsfuUlp fn a neg (2 ^ fx - 2 ^ 6) (2 ^ fx) (-(fx : Nat)) 2
        else
          let k := e + 1
          let t := if 0 ≤ k then log2eFx * m * 2 ^ k.toNat else log2eFx * m / 2 ^ (-k).toNat
          let y := exp2Fx (t % 2 ^ fx) * 2 ^ (t / 2 ^ fx)
          let r := (y - 2 ^ fx) * 2 ^ fx / (y + 2 ^ fx)
          fsfuUlp fn a neg (r - 2 ^ 40) (r + 2 ^ 40) (-(fx : Nat)) 2
    | _ =>
      let y := frac2 m e
      let h := y % 2 ^ fx
      let odd := decide (2 ^ fx ≤ y)
      if h = 0 ∧ (-(fx : Int) ≤ e ∨ m = 0) then
        (if fn = 5 then signZero neg else one32 (odd && decide (Nat.log2 m + e < 23)))
      else if h * 2 = 2 ^ fx ∧ -(fx : Int) ≤ e then
        (if fn = 5 then one32 (odd != neg) else 0#32)
      else
        let w := if h * 2 ≤ 2 ^ fx then h else 2 ^ fx - h
        let v : Int :=
          if fn = 5 then (if odd != neg then -(sinpiFx w) else sinpiFx w)
          else (if odd != decide (2 ^ fx < h * 2) then -(cospiFx w) else cospiFx w)
        fsfuPick fn a (v - 2 ^ 20) (v + 2 ^ 20) (-(fx : Nat)) 1 (-22)

/-- `FSFU` of one operand (R162, R163): F[2:0] the function, F[3] the flush. -/
def fsfuOf (fv : Nat) (a : Word) : Word :=
  let m := if bit fv 3 then 4 else 0
  let r := fsfuCore (fv % 8) a (Fmt.fp32.operand m a.toNat)
  if bit fv 3 then round32 4 (f32 r) else r

end Sys2Proof.Machine
end

