-- ==== Sys2Proof/Machine/MatrixArith.lean ====
section
/-! DEFINITION. Format blocks, control words and the row arithmetic of the matrix arrays (R120 to R125, R247 to R252). -/

namespace Sys2Proof.Machine

/-! ## Format blocks (R120 to R122) -/

/-- Format number of an element code (R121). -/
def elemFmt (c : Nat) : Nat :=
  match c with
  | 0x0 => 0x0A | 0x1 => 0x09 | 0x2 => 0x0B | 0x3 => 0x0C | 0x4 => 0x0D | 0x5 => 0x0E | 0x6 => 0x0F
  | 0x7 => 0x04 | 0x8 => 0x05 | 0x9 => 0x04 | 0xA => 0x06 | _ => 0x07

/-- Residue-mode element codes. -/
def elemResidue (c : Nat) : Bool := decide (7 ≤ c)

/-- Products per cell. -/
def elemP (c : Nat) : Nat := if c ≤ 1 then 1 else if c ≤ 5 then 2 else if c ≤ 9 then 4 else 8

/-- K per pass. -/
def elemK (c : Nat) : Nat := 128 * elemP c

/-- Width in bits. -/
def elemWidth (c : Nat) : Nat := fmtWidth (elemFmt c)

/-- Whether a block length code is allowed for an element code (R121). -/
def blkOk (c b : Nat) : Bool :=
  if b = 3 then false else if c = 9 then b == 1 || b == 2 else if 2 ≤ c ∧ c ≤ 6 then true else b == 0

/-- Block length of a code (R120). -/
def blkLen (b : Nat) : Nat := if b = 1 then 16 else 32

def fbA (fb : Nat) : Nat := bits fb 0 4
def fbABlk (fb : Nat) : Nat := bits fb 4 2
def fbB (fb : Nat) : Nat := bits fb 8 4
def fbBBlk (fb : Nat) : Nat := bits fb 12 2
def fbSplit (fb : Nat) : Nat := bits fb 16 2
def fbDrain (fb : Nat) : Nat := bits fb 20 4
def fbDrainM (fb : Nat) : Nat := bits fb 24 4
def fbAScale (fb : Nat) : Nat := bits fb 32 16
def fbBScale (fb : Nat) : Nat := bits fb 48 16

/-- The rules of R122. -/
def fbOk (fb : Nat) : Bool :=
  let a := fbA fb; let b := fbB fb
  decide (a < 12) && decide (b < 12) && blkOk a (fbABlk fb) && blkOk b (fbBBlk fb) && (elemResidue a == elemResidue b) &&
    (elemP a == elemP b) && (a != 9 || b == 9 || b == 7) && (b != 9 || a == 9 || a == 7) && fbSplit fb != 3 &&
    decide (fbDrain fb < 9) && bits fb 6 2 == 0 && bits fb 14 2 == 0 && bits fb 18 2 == 0 && bits fb 28 4 == 0

/-- Formats of a valid block that S1 accepts: BF16 and INT8 (R122). -/
def fbS1 (fb : Nat) : Bool := (fbA fb == 0 || fbA fb == 7) && (fbB fb == 0 || fbB fb == 7)

/-- Format number of a drain code. -/
def drainFmt (c : Nat) : Nat :=
  match c with
  | 0 => 0x08 | 1 => 0x09 | 2 => 0x0A | 3 => 0x0B | 4 => 0x0C | 5 => 0x00 | 6 => 0x02 | 7 => 0x04 | _ => 0x12

/-- u of R125: 6 for each MXINT8 operand. -/
def unitsExp (fb : Nat) : Nat := (if fbA fb = 9 then 6 else 0) + (if fbB fb = 9 then 6 else 0)

/-! ## Control pairs (R248, R250, R252) -/

def ctlOff (c : Nat) : Nat := bits c 0 26
def ctlStride (c : Nat) : Nat := 16 * bits c 32 16
/-- Level of an `MLDW` or `MDRAIN`. -/
def ctlLevel2 (c : Nat) : Nat := bits c 26 2
/-- Level of an `MSTREAM`. -/
def ctlLevel1 (c : Nat) : Nat := bits c 26 1
def ctlKrows (c : Nat) : Nat := bits c 48 11
def ctlMode (c : Nat) : Nat := bits c 28 2
def ctlAcc (c : Nat) : Nat := bits c 48 8
def ctlCount (c : Nat) : Nat := bits c 56 8

/-- The first word of a control pair that a rule of the description refuses: 0 or 1; none when the pair is good (R235). -/
def ctlBad (kind fb c : Nat) : Option Nat :=
  let lo :=
    if ctlOff c % 16 ≠ 0 then true
    else if kind = 0 then ctlLevel2 c == 3 || bits c 28 4 != 0
    else if kind = 1 then bits c 27 5 != 0
    else ctlLevel2 c == 3 || ctlMode c == 3 || bits c 30 2 != 0
  let hi :=
    if kind = 0 then bits c 59 5 != 0 || ctlKrows c == 0 || decide (elemK (fbB fb) < ctlKrows c)
    else decide (256 < ctlAcc c + ctlCount c + 1)
  if lo then some 0 else if hi then some 1 else none

/-- Bytes of a drained row (R252). -/
def drainRow (fb : Nat) : Nat := 128 * fmtWidth (drainFmt (fbDrain fb)) / 8

/-- Scratchpad areas that an instruction reads or writes: (level, offset, bytes), in the order in which they are checked. -/
def matAreas (kind fb ctl : Nat) (tag : Tag) (row : Nat) : List (Nat × Nat × Nat) :=
  if kind = 0 then
    (List.range (ctlKrows ctl)).map fun k => (ctlLevel2 ctl, ctlOff ctl + ctlStride ctl * k, 16 * elemWidth (fbB fb))
  else if kind = 1 then
    let k := elemK (fbA fb)
    ((List.range (ctlCount ctl + 1)).drop row).map (fun j => (ctlLevel1 ctl, ctlOff ctl + ctlStride ctl * j, k * elemWidth (fbA fb) / 8)) ++
      (if fbABlk fb ≠ 0 then
        ((List.range (ctlCount ctl + 1)).drop row).map fun j =>
          (ctlLevel1 ctl, fbAScale fb * 64 + j * (k / blkLen (fbABlk fb)), k / blkLen (fbABlk fb))
       else []) ++
      (if tag.valid ∧ tag.bblk ≠ 0 then [(tag.level, tag.bscale * 64, 128 * (k / blkLen tag.bblk))] else [])
  else if ctlMode ctl = 2 then []
  else (List.range (ctlCount ctl + 1)).map fun j => (ctlLevel2 ctl, ctlOff ctl + ctlStride ctl * j, drainRow fb)

/-- Address of a byte of a scratchpad window (R265). -/
def spadAddr (level o : Nat) : Nat := (0xFF - level) * 2 ^ 56 + o

/-- The first byte of the areas outside what the launch may reach (R247, R256, R268), as an address. -/
def matBound (s : State) (l : Launch) (core : Nat) (areas : List (Nat × Nat × Nat)) : Option Nat :=
  (areas.find? fun a => !spadRangeOk s l core a.1 a.2.1 a.2.2).map fun a =>
    spadAddr a.1 (a.2.1 + ((List.range a.2.2).find? fun k => !spadOk s l core a.1 (a.2.1 + k) 1).getD 0)

/-! ## Scratchpad rows -/

/-- Bytes of a scratchpad as ordinary accesses of a launch address them (R269). -/
def spadBytesAt (s : State) (l : Launch) (core level o n : Nat) : List Byte :=
  (List.range n).map fun k => Memory.read s.spad (spadKey core level (spadPhys l level (o + k)))

/-- Bytes written as ordinary accesses address them, by 16-byte units. -/
def spadPutAt (s : State) (l : Launch) (core level o : Nat) (bs : List Byte) : State :=
  (List.range ((bs.length + 15) / 16)).foldl (fun t k =>
    t.spadWrite (spadKey core level (spadPhys l level (o + 16 * k))) ((bs.drop (16 * k)).take 16)) s

/-! ## Rows (R248, R251, R252) -/

/-- Row l of a plane loaded by step l of an `MLDW` (R248). -/
def loadRow (s : State) (l : Launch) (core fb ctl row : Nat) : List Word :=
  let w := elemWidth (fbB fb)
  let p := elemP (fbB fb)
  let rows := (List.range p).map fun j =>
    if p * row + j < ctlKrows ctl then natLE (spadBytesAt s l core (ctlLevel2 ctl) (ctlOff ctl + ctlStride ctl * (p * row + j)) (16 * w)) else 0
  (List.range 128).map fun n => BitVec.ofNat 32 (pack (rows.map fun x => (w, bits x (w * n) w)))

/-- A row map of R123: distinct physical rows below 132, a logical row on its own row or on a spare. -/
def rowMapOk (m : List Nat) : Bool :=
  m.length == 128 && (m.zipIdx.all fun r => r.1 == r.2 || (decide (128 ≤ r.1) && decide (r.1 < 132))) && m.eraseDups.length == 128

/-- The row map of a core (R123): the reported one where it is a row map, else the identity (log 12). -/
def rowMapOf (core : Nat) : List Nat := if rowMapOk (Config.rowMap core) then Config.rowMap core else List.range 128

/-- Logical rows of a chain in ascending physical row (R123). -/
def chainRows (core split j : Nat) : List Nat :=
  let len := if split = 0 then 128 else if split = 1 then 64 else 32
  let m := rowMapOf core
  let mine := ((List.range 128).filter fun l => l / len == j).map fun l => (m.getD l l, l)
  (mine.foldl (fun acc r => insertKey r.1 r.2 acc) []).map (·.2)

/-- Scale code of a block, or none when unscaled. -/
def scaleAt (sc : List Byte) (blk idx : Nat) : Option Nat := if blk = 0 then none else some (sc.getD idx 0).toNat

/-- Exponent of a scale code as a value; NaN for 0xFF. -/
def scaleVal (c : Option Nat) : FVal :=
  match c with
  | none => .fin false 1 0
  | some x => if x = 0xFF then .nan else .fin false 1 ((x : Int) - 127)

/-- The products of cell (l, n) in float mode (R124), exact, scaled. -/
def cellFloat (fb : Nat) (act : Nat) (cell : Word) (l : Nat) (sa sb : Option Nat) : FVal :=
  let wa := elemWidth (fbA fb); let wb := elemWidth (fbB fb); let p := elemP (fbA fb)
  let prods := (List.range p).map fun j =>
    FVal.mul ((fmtOf (elemFmt (fbA fb))).value (bits act (wa * (p * l + j)) wa))
      ((fmtOf (elemFmt (fbB fb))).value (bits cell.toNat (wb * j) wb))
  FVal.mul (FVal.mul (FVal.sum false prods) (scaleVal sa)) (scaleVal sb)

/-- The value of an element of a residue-mode code. -/
def elemInt (c x : Nat) : Int := if fmtSigned (elemFmt c) then sext x (elemWidth c) else x

/-- The contribution of cell (l, n) in residue mode (R125), and whether it breaks the exponent rule. -/
def cellResidue (fb : Nat) (act : Nat) (cell : Word) (l : Nat) (sa sb : Option Nat) : Int × Bool :=
  let wa := elemWidth (fbA fb); let wb := elemWidth (fbB fb); let p := elemP (fbA fb)
  let e : Int := (match sa with | some x => (x : Int) - 127 | none => 0) + (match sb with | some x => (x : Int) - 127 | none => 0)
  if sa = some 0xFF ∨ sb = some 0xFF ∨ e < 0 ∨ 2 < e then (0, true)
  else
    let t := ((List.range p).map fun j =>
      elemInt (fbA fb) (bits act (wa * (p * l + j)) wa) * elemInt (fbB fb) (bits cell.toNat (wb * j) wb)).foldl (· + ·) 0
    (t * 2 ^ e.toNat, false)

/-- One pass (R124, R125): the new accumulator row and its OVF bit. -/
def passRow (core fb : Nat) (m : Matrix) (act : Nat) (sca scb : List Byte) (old : List Word) : List Word × Bool :=
  let p := elemP (fbA fb)
  let k := elemK (fbA fb)
  let la := blkLen (fbABlk fb); let lb := blkLen m.tagA.bblk
  let saOf (l : Nat) := scaleAt sca (fbABlk fb) (p * l / la)
  let sbOf (l n : Nat) := scaleAt scb m.tagA.bblk (n * (k / lb) + p * l / lb)
  let cell (l n : Nat) := laneAt (lookupD m.active l []) n
  if elemResidue (fbA fb) then
    let outs := (List.range 128).map fun n =>
      let cs := (List.range 128).map fun l => cellResidue fb act (cell l n) l (saOf l) (sbOf l n)
      let sum (q : Int) : Nat := ((cs.foldl (fun a c => a + c.1) 0) % q).toNat
      let y := sgn (laneAt old n) + rtJoin (sum 509) (sum 511) (sum 512)
      (wordOf (satS y), y != satS y || cs.any (·.2))
    (outs.map (·.1), outs.any (·.2))
  else
    let chains := if fbSplit fb = 0 then 1 else if fbSplit fb = 1 then 2 else 4
    let orders := (List.range chains).map (chainRows core (fbSplit fb))
    let outs := (List.range 128).map fun n =>
      let part (rows : List Nat) : Word :=
        match rows with
        | [] => 0
        | l :: t => t.foldl (fun a r => round32 0 (FVal.add false (f32 a) (cellFloat fb act (cell r n) r (saOf r) (sbOf r n))))
            (round32 0 (cellFloat fb act (cell l n) l (saOf l) (sbOf l n)))
      let parts := orders.map part
      let chain := parts.tail.foldl (fun a b => round32 0 (FVal.add false (f32 a) (f32 b))) (parts.headD 0)
      round32 0 (FVal.add false (f32 (laneAt old n)) (f32 chain))
    (outs, false)

/-- One element of a drained row (R121, R252). An FP32 accumulator is read as an operand of R115, so that DRAIN_FTZ acts on both sides
(R111). An integer in units of 2⁻ᵘ with u > 0 denotes a real, and goes by the rows `float` of R115 (DESIGN CHOICE, log 62). -/
def drainElem (fb : Nat) (x : Word) : Nat :=
  let n := drainFmt (fbDrain fb)
  let m := fbDrainM fb
  if elemResidue (fbA fb) then
    (if unitsExp fb = 0 then convertTo n m (.int (sgn x)) else convertTo n m (.real (FVal.ofInt (sgn x) (-(unitsExp fb : Nat)))))
  else convertTo n m (.real (Fmt.fp32.operand m x.toNat))

/-- Rows of an instruction: 128 steps of an `MLDW`, COUNT + 1 rows otherwise. -/
def seqRows (o : SeqOp) : Nat := if o.kind = 0 then 128 else ctlCount o.ctl + 1

/-- One row or step of an instruction at its row boundary (R248, R251, R252), its scratchpad offsets mapped as at its issue (R261). -/
def seqStep (s : State) (l : Launch) (core : Nat) (o : SeqOp) : State × SeqOp :=
  let l := { l with spads := o.maps }
  let a := s.array core
  let m := a.m
  let o' := { o with row := o.row + 1 }
  match o.kind with
  | 0 =>
    let m := { m with shadow := insertKey o.row (loadRow s l core o.fb o.ctl o.row) m.shadow }
    let m := if o.row = 127 then
        { m with tagS := { bfmt := fbB o.fb, bblk := fbBBlk o.fb, level := ctlLevel2 o.ctl, bscale := fbBScale o.fb, valid := true } }
      else m
    (s.putArray { a with m }, o')
  | 1 =>
    if !m.tagA.valid then (s, o')
    else
      let k := elemK (fbA o.fb)
      let lv := ctlLevel1 o.ctl
      let act := natLE (spadBytesAt s l core lv (ctlOff o.ctl + ctlStride o.ctl * o.row) (k * elemWidth (fbA o.fb) / 8))
      let na := k / blkLen (fbABlk o.fb)
      let sca := if fbABlk o.fb = 0 then [] else spadBytesAt s l core lv (fbAScale o.fb * 64 + o.row * na) na
      let scb := if m.tagA.bblk = 0 then []
        else spadBytesAt s l core m.tagA.level (m.tagA.bscale * 64) (128 * (k / blkLen m.tagA.bblk))
      let q := ctlAcc o.ctl + o.row
      let (r, ov) := passRow core o.fb m act sca scb (lookupD m.acc q [])
      (s.putArray { a with m := { m with acc := insertKey q r m.acc, dirty := insertNat q m.dirty, ovf := if ov then insertNat q m.ovf else m.ovf } }, o')
  | _ =>
    let q := ctlAcc o.ctl + o.row
    let isOvf := m.ovf.contains q
    let o' := { o' with novf := o.novf + bitNat isOvf, low := if isOvf ∧ o.low = 0xFFFFFFFF then q else o.low }
    let s := if ctlMode o.ctl = 2 then s
      else
        let w := fmtWidth (drainFmt (fbDrain o.fb))
        let row := lookupD m.acc q []
        let x := pack ((List.range 128).map fun n => (w, drainElem o.fb (laneAt row n)))
        spadPutAt s l core (ctlLevel2 o.ctl) (ctlOff o.ctl + ctlStride o.ctl * o.row) (bytesLE (drainRow o.fb) x)
    if ctlMode o.ctl = 0 then (s, o')
    else (s.putArray { a with m := { m with acc := eraseKey q m.acc, ovf := m.ovf.filter (· != q), dirty := insertNat q m.dirty } }, o')

/-- An instruction taken to its last row. -/
def seqFinish (l : Launch) (core : Nat) : Nat → State → SeqOp → State × SeqOp
  | 0, s, o => (s, o)
  | n + 1, s, o => if seqRows o ≤ o.row then (s, o) else seqFinish l core n (seqStep s l core o).1 (seqStep s l core o).2

end Sys2Proof.Machine
end

