-- ==== Sys2Proof/Machine/Area.lean ====
section
/-! DEFINITION. Checkpoint areas (R330): slots and their map, and the matrix image and side block that a record of a licence holder carries
(R75, R253, R254). -/

namespace Sys2Proof.Machine

/-- What the head of a checkpoint area says (R330). -/
structure AreaInfo where
  slots : Nat
  hslots : Nat
  base : Nat
  hbase : Nat
  map : Nat
  deriving DecidableEq, Repr, Inhabited

/-- The checkpoint area of a launch's region, when it can be read. -/
def areaOf (s : State) (l : Launch) : Option AreaInfo :=
  let a := l.node.checkpoint
  if a % 4096 ≠ 0 then none
  else (devRead s l.ptRoot a 40).map fun bs =>
    let d (k : Nat) : Nat := natLE ((bs.drop (8 * k)).take 8)
    { slots := bits (d 0) 0 20, hslots := bits (d 1) 0 9, base := d 2, hbase := d 3, map := d 4 }

/-- Address of slot k. -/
def AreaInfo.slotAt (i : AreaInfo) (holder : Bool) (k : Nat) : Nat := if holder then i.hbase + 0x53000 * k else i.base + 0x13000 * k

/-- Address of the map entry of slot k: plain slots first. -/
def AreaInfo.mapAt (i : AreaInfo) (holder : Bool) (k : Nat) : Nat := i.map + 32 * (if holder then i.slots + k else k)

/-- The 8 KiB extension block of a slot. -/
def extAt (addr : Nat) (holder : Bool) : Nat := addr + (if holder then 0x51000 else 0x11000)

/-- Where the matrix image stands in a record (R75). -/
def imageAt (addr : Nat) : Nat := addr + 0x11000

/-- A slot kept for a unit: its launch, team, group, lowest strand and kind match (R332). -/
def Saved.matches (x : Saved) (u : Group) (kind : Nat) (holder : Bool) : Bool :=
  x.kind == kind && x.holder == holder && x.launch == u.launch &&
    x.unit.any fun v => v.uid == u.uid && v.team == u.team && v.grp == u.grp && lowest v.mask == lowest u.mask

/-- The slot that a unit is assigned: the one kept for it, or else the lowest free one of its size, as (record, map entry, whether it was
kept). -/
def areaSlot (s : State) (l : Launch) (kept : Saved → Bool) (holder : Bool) : Option (Nat × Nat × Bool) :=
  match s.saved.find? kept with
  | some x => some (x.addr, x.mapAddr, true)
  | none =>
    match areaOf s l with
    | none => none
    | some i =>
      let free (k : Nat) : Bool :=
        !(s.saved.any fun x => x.addr == i.slotAt holder k && x.ptRoot == l.ptRoot) &&
          (match devReadLE s l.ptRoot (i.mapAt holder k) 1 with | some b => !bit b 0 | none => false)
      ((List.range (if holder then i.hslots else i.slots)).find? free).map fun k => (i.slotAt holder k, i.mapAt holder k, false)

/-- Several pieces written; none when one of them cannot be. -/
def writeAll (root : DWord) : List (Nat × List Byte) → State → Option State
  | [], s => some s
  | (a, bs) :: t, s => match devWrite s root a bs with | some s' => writeAll root t s' | none => none

/-- A map entry (R330): kind, lowest strand, group, team, region, slot of an anchored image, launch identifier. -/
def mapBytes (l : Launch) (u : Group) (kind anchorSlot : Nat) : List Byte :=
  bytesLE 1 (1 + 2 * kind) ++ bytesLE 1 (lowest u.mask) ++ bytesLE 2 u.grp ++ bytesLE 4 u.team ++ bytesLE 4 u.region ++
    bytesLE 4 anchorSlot ++ bytesLE 8 l.tag.toNat ++ List.replicate 8 0

/-- The pieces of a matrix image: dirty accumulator rows (every row when the clean ones stand in another record; DEDUCED, log 42), both planes,
the side block (R75, R253, R255). -/
def matrixPieces (addr : Nat) (m : Matrix) : List (Nat × List Byte) :=
  let rows := if m.record.isNone || m.record == some addr then m.dirty else List.range 256
  (rows.map fun q => (imageAt addr + 512 * q, rowBytes m.acc q)) ++
    ((List.range 128).map fun r => (imageAt addr + 0x20000 + 512 * r, rowBytes m.active r)) ++
    ((List.range 128).map fun r => (imageAt addr + 0x30000 + 512 * r, rowBytes m.shadow r)) ++ [(extAt addr true, sideBlock m)]

/-- A saved entry kept in place of the one at the same address. -/
def State.putSaved (s : State) (x : Saved) : State :=
  { s with saved := x :: s.saved.filter fun y => !(y.addr == x.addr && y.ptRoot == x.ptRoot) }

/-- The matrix image of a group that a fault swaps out, written to a holder slot of its own (R257); without a free slot the image stays with
the group alone (DEDUCED, log 30). -/
def saveImage (s : State) (l : Launch) (u : Group) : State :=
  match u.image with
  | none => s
  | some m =>
    match areaSlot s l (fun x => x.matches u 1 true) true with
    | none => s
    | some (addr, mapAddr, _) =>
      match writeAll l.ptRoot (matrixPieces addr m ++ [(mapAddr, mapBytes l u 1 0)]) s with
      | none => s
      | some t =>
        t.putSaved
          { addr, mapAddr, holder := true, kind := 1, launch := l.idx, ptRoot := l.ptRoot
            unit := some { u with image := some { m with dirty := [], record := some addr } }, slot := none, used := false, bars := false }

/-- A tag read from a side block. -/
def tagOf (w : Nat) : Tag := { bfmt := bits w 0 4, bblk := bits w 4 2, level := bits w 6 2, bscale := bits w 8 16, valid := bit w 24 }

/-- A side block that the load of an image refuses (R254). -/
def sideBad (bs : List Byte) : Bool :=
  let w (k n : Nat) : Nat := natLE ((bs.drop k).take n)
  let tagBad (x : Nat) : Bool := bits x 25 7 != 0 || (bit x 24 && (decide (12 ≤ bits x 0 4) || bits x 4 2 == 3))
  let tagA := tagOf (w 32 4)
  let misfit := tagA.valid && (tagA.bfmt != fbB (w 40 8) || tagA.bblk != fbBBlk (w 40 8))
  tagBad (w 32 4) || tagBad (w 36 4) || bits (w 56 1) 2 6 != 0 || w 57 7 != 0 ||
    (bit (w 56 1) 0 && (!fbOk (w 40 8) || (ctlBad 1 (w 40 8) (w 48 8)).isSome || misfit))

/-- Rows of an area of memory that are not all zero. -/
def rowsFrom (bs : List Byte) (n : Nat) : List (Nat × List Word) :=
  ((List.range n).map fun q => (q, rowOfBytes ((bs.drop (512 * q)).take 512))).filter fun r => r.2.any (· != 0)

/-- The matrix image of a record with its side block, as memory holds them; none when the load fails with fault 0x7F (R254, R258). -/
def readMatrix (s : State) (root : DWord) (addr : Nat) (u : Group) : Option Matrix :=
  match devRead s root (imageAt addr) 0x40000, devRead s root (extAt addr true) 64 with
  | some im, some side =>
    if sideBad side then none
    else
      let w (k n : Nat) : Nat := natLE ((side.drop k).take n)
      let op : SeqOp :=
        { kind := 1, gid := u.gid, uid := u.uid, mask := ((u.image.bind (·.stream)).map (·.mask)).getD u.mask
          flag := if bit (w 56 1) 1 then 0 else u.msFlag, fb := w 40 8, ctl := w 48 8, row := u.msRows
          dest := { reg := none, pair := false, uni := false }, novf := 0, low := 0xFFFFFFFF, maps := [] }
      some
        { acc := rowsFrom im 256
          active := rowsFrom (im.drop 0x20000) 128
          shadow := rowsFrom (im.drop 0x30000) 128
          tagA := tagOf (w 32 4)
          tagS := tagOf (w 36 4)
          ovf := (List.range 256).filter fun q => bit (w (q / 8) 1) (q % 8)
          dirty := []
          record := some addr
          stream := if bit (w 56 1) 0 then some op else none }
  | _, _ => none

/-- The image that a unit re-enters with: as its holder slot has it, if one was assigned; none when its load fails. -/
def imageBack (s : State) (l : Launch) (u : Group) : Option (Option Matrix) :=
  match u.image with
  | none => some none
  | some m =>
    match s.saved.find? fun x => x.matches u 1 true with
    | none => some (some m)
    | some x => (readMatrix s l.ptRoot x.addr u).map some

end Sys2Proof.Machine
end

