-- ==== Sys2Proof/Machine/Ops.lean ====
section
/-! DEFINITION. The named operations: issue bookkeeping and stay chains (R60, R61, R82), completions of asynchronous work (R46, R65,
R185), completion records (R341, R343), the fault queue (R325 to R327), kills (R329), taking a fault (R324) and a trap (R138, R323),
transfer targets (R79) and the return from a trap (R262). -/

namespace Sys2Proof.Machine

/-! ## Stay chains and register writes (R58, R60, R61, R82, R83) -/

/-- The instruction after pc in sequence (R78). -/
def nextPc (pc : Nat) : Nat := if bits pc 2 2 = 3 then pc + 8 else pc + 4

/-- The unit past its instruction in sequence: pc, and its bundle unless it falls out of it (R78). -/
def Group.advance (g : Group) : Group :=
  { g with pc := nextPc g.pc, bundle := if nextPc g.pc / 16 ≠ g.pc / 16 then none else g.bundle }

/-- A pending write made final in the slot, or in the predicates of the unit. -/
def commitWrite (p : Group × Slot) (e : PendWrite) : Group × Slot :=
  match e.reg with
  | .vec k => (p.1, { p.2 with v := setAt [] p.2.v k (mergeLanes e.mask e.vals), vdirty := setAt false p.2.vdirty k fun _ => true })
  | .scal k => (p.1, { p.2 with s := setAt 0 p.2.s k fun _ => laneAt e.vals 0, sdirty := setAt false p.2.sdirty k fun _ => true })
  | .pred (k + 1) => ({ p.1 with preds := setAt 0 p.1.preds k fun w => (w &&& ~~~e.mask) ||| (laneAt e.vals 0 &&& e.mask) }, p.2)
  | .pred 0 | .twin _ => p

/-- The end of a chain: pending writes are final, in program order, and every latch is void (R60, R61, R83). -/
def commitChain (g : Group) (sl : Slot) : Group × Slot :=
  let r := g.pend.foldl commitWrite (g, sl)
  ({ r.1 with pend := [], chainLen := 0, bypass := [], holds := [], holdPtr := 0, chainHold := 0 }, r.2)

/-- The end of a chain in the state. -/
def endChain (s : State) (g : Group) (sl : Slot) : State :=
  (s.putUnit (commitChain g sl).1).putSlot (commitChain g sl).2

/-- A write to a register field in the sense of `Dst` (R76, R87): the registers it makes pending. -/
def Ctx.dst (c : Ctx) (d cls : Nat) (vals : List Word) : List PendWrite :=
  if d < 112 then
    (if c.uni then [{ reg := .scal (c.g.swb + d), mask := 1#32, vals := [laneAt vals 0], cls, k := 0 }]
     else [{ reg := .vec (c.g.vwb + d), mask := c.g.mask, vals, cls, k := 0 }])
  else if 120 ≤ d then [{ reg := .twin (d - 120), mask := c.g.mask, vals, cls, k := 0 }]
  else []

/-- A write to a vector register or twin register whatever the uniform bit, on given strands. -/
def Ctx.vdst (c : Ctx) (d cls : Nat) (mask : Word) (vals : List Word) : List PendWrite :=
  if d < 112 then [{ reg := .vec (c.g.vwb + d), mask, vals, cls, k := 0 }]
  else if 120 ≤ d then [{ reg := .twin (d - 120), mask, vals, cls, k := 0 }]
  else []

/-- A write to a scalar of the window. -/
def Ctx.sdst (c : Ctx) (k cls : Nat) (w : Word) : List PendWrite :=
  [{ reg := .scal (c.g.swb + k), mask := 1#32, vals := [w], cls, k := 0 }]

/-- A write of predicate bits to the strands of a mask; p0 ignores it (R64). -/
def Ctx.pdst (_ : Ctx) (p cls : Nat) (mask w : Word) : List PendWrite :=
  if p = 0 then [] else [{ reg := .pred p, mask, vals := [w], cls, k := 0 }]

/-- Twin registers written: the group sees them at its next instruction, its twin from the next ac (R63). -/
def writeTwin (s : State) (c : Ctx) (ws : List PendWrite) : State :=
  match c.twin? with
  | none => s
  | some w =>
    let late := ws.filterMap fun e =>
      match e.reg with | .twin k => some { reg := k, upper := isUpper c.g.core, mask := e.mask, vals := e.vals } | _ => none
    if late.isEmpty then s else s.putTwin (w.write (s.acOf w.lower) late)

/-- A captured source value: the latch of the rotation pointer takes it and the pointer advances (R61). -/
def capture (p : List (Option (Nat × List Word)) × Nat) (v : Option (List Word)) : List (Option (Nat × List Word)) × Nat :=
  match v with
  | none => p
  | some vals => ((List.range 3).map fun k => if k = p.2 then some (0, vals) else p.1.getD k none, (p.2 + 1) % 3)

/-- The unit after an instruction has issued: latches, chain length, pending writes, pc, bundle (R61, R78, R82). `res` is the single
32-bit register result, if the instruction has one; `jump` marks a transfer of control. -/
def issued (g : Group) (iss : Issue) (va vb res : Option (List Word)) (ws : List PendWrite) (pc : Nat) (jump : Bool) : Group :=
  let aged := (List.range 3).map fun k => (g.holds.getD k none).map fun h => (h.1 + 1, h.2)
  let h := capture (capture (aged, g.holdPtr) (if iss.holdA then va else none)) (if iss.holdB then vb else none)
  { g with
    chainLen := g.chainLen + 1
    bypass := (res :: g.bypass).take 5
    holds := h.1
    holdPtr := h.2
    pend := g.pend ++ ws.filter fun e => match e.reg with | .twin _ => false | _ => true
    pc := pc
    age := 0
    opps := 0
    holding := false
    awaited := []
    visitor := g.visitor.map fun v => { v with issued := v.issued + 1 }
    bundle := if jump ∨ pc / 16 ≠ g.pc / 16 then none else g.bundle.map fun b => { b with waited := b.waited || !iss.waitMask.isEmpty } }

/-- The chain goes on after this instruction: stay bit, not the sixth, not chain-ending (R60). -/
def chainGoesOn (iss : Issue) (i : Instr) (g : Group) : Bool := iss.stay && i.inChain && decide (g.chainLen + 1 < 6)

/-- The value of a source field as a hold bit captures it: the register that the instruction reads there (R61, R87). -/
def Ctx.held (c : Ctx) (i : Instr) (f k : Nat) : Word := if (i.opnds c.uni).contains (.vec f 1) then c.vsrc f k else c.src f k

/-- The state after an instruction of the issuing unit has issued: twin registers, latches, pending writes, pc; the chain's end. -/
def Ctx.retire (c : Ctx) (i : Instr) (res : Option (List Word)) (ws : List PendWrite) (pc : Nat) (jump : Bool := false) : State :=
  let lanes (f : Nat) := perStrand fun k => c.held i f k
  let g := issued c.g c.s.cur (i.holdA.map lanes) (i.holdB.map lanes) res ws pc jump
  let s := writeTwin c.s c ws
  if chainGoesOn c.s.cur i c.g then s.putUnit g else endChain s g c.sl

/-- The context of the issuing unit: its pending writes one issue older (R82). -/
def ctx? (s : State) : Option Ctx :=
  match s.unit? s.cur.uid with
  | none => none
  | some g =>
    match s.slot? g.core g.slot with
    | none => none
    | some sl => some { s, g := { g with pend := g.pend.map fun e => { e with k := e.k + 1 + s.cur.dist } }, sl, uni := s.cur.uni }

/-- The instruction does not issue in this step (R65, R85, R318). -/
def hold (s : State) : State := { s with cur := { s.cur with held := true } }

/-! ## Completions of asynchronous work (R46, R65, R185) -/

/-- Flag k of a unit. -/
def Group.flag (g : Group) (k : Nat) : Flag := g.flags.getD k { set := false, pending := none }

/-- Flag k of a unit replaced. -/
def Group.putFlag (g : Group) (k : Nat) (f : Flag) : Group := { g with flags := if k < 12 then setAt { set := false, pending := none } g.flags k fun _ => f else g.flags }

/-- Strands of a register written in an allocation (R58). -/
def Slot.putV (sl : Slot) (k : Nat) (mask : Word) (vals : List Word) : Slot :=
  { sl with v := setAt [] sl.v k (mergeLanes mask vals), vdirty := setAt false sl.vdirty k fun _ => true }

def Slot.putS (sl : Slot) (k : Nat) (w : Word) : Slot :=
  { sl with s := setAt 0 sl.s k fun _ => w, sdirty := setAt false sl.sdirty k fun _ => true }

/-- Values by strand as lanes of 32 bits; `hi` for the high word. -/
def resLanes (vals : List (Nat × Nat)) (hi : Bool) : List Word :=
  perStrand fun i => let x := (vals.lookup i).getD 0; if hi then highWord x else lowWord x

/-- One 32-bit part of a result written to a register of a unit, wherever the unit is: slot, image or twin window. -/
def putResult (s : State) (g : Group) (r : Reg) (uni : Bool) (vals : List (Nat × Nat)) (hi : Bool) : State :=
  let m := maskOfList (vals.map (·.1)) &&& g.mask
  let lanes := resLanes vals hi
  let one := laneAt lanes ((vals.head?.map (·.1)).getD 0)
  let old := s.unit? g.uid |>.getD g
  if g.loc = .resident then
    match s.slot? g.core g.slot with
    | none => s
    | some sl =>
      let s := s.putUnit { old with pend := old.pend.map fun e => if e.reg = r then { e with mask := e.mask &&& ~~~(if uni then 1#32 else m) } else e }
      match r with
      | .vec k => s.putSlot (sl.putV k m lanes)
      | .scal k => s.putSlot (sl.putS k one)
      | .twin k =>
        match s.twinWindow? g.launch g.core g.slot with
        | some w => s.putTwin (w.write (s.acOf w.lower)
            [{ reg := k, upper := isUpper g.core, mask := if uni then g.mask else m, vals := if uni then List.replicate 32 one else lanes }])
        | none => s
      | .pred _ => s
  else
    match old.carried with
    | none => s
    | some c =>
      let c := { c with wrote := r :: c.wrote }
      match r with
      | .vec k =>
        let f (l : List (Nat × List Word)) := l.map fun e => if e.1 = k then (k, mergeLanes m lanes e.2) else e
        s.putUnit { old with carried := some { c with v := f c.v, destV := f c.destV } }
      | .scal k =>
        let f (l : List (Nat × Word)) := l.map fun e => if e.1 = k then (k, one) else e
        s.putUnit { old with carried := some { c with s := f c.s, destS := f c.destS } }
      | _ => s

/-- The register after another in its file. -/
def Reg.succ : Reg → Reg
  | .vec k => .vec (k + 1)
  | .scal k => .scal (k + 1)
  | .twin k => .twin (k + 1)
  | .pred k => .pred k

/-- A destination written (R3, R185). Results of no strand write nothing, a uniform register included. -/
def putResults (s : State) (uid : Nat) (r : Results) : State :=
  if r.vals.isEmpty then s
  else match s.unit? uid, r.dest.reg with
  | some g, some reg =>
    let s := putResult s g reg r.dest.uni r.vals false
    if r.dest.pair then putResult s g reg.succ r.dest.uni r.vals true else s
  | _, _ => s

/-- Bits of p7 written at once for strands of a mask (R184). -/
def Group.putP7 (g : Group) (m w : Word) : Group :=
  { g with
    preds := setAt 0 g.preds 6 fun o => (w &&& m) ||| (o &&& ~~~m)
    pend := g.pend.map fun e => if e.reg = .pred 7 then { e with mask := e.mask &&& ~~~m } else e }

/-- A load is over: its strands whose pages are not resident read zero, with p7 = 0 (R184). -/
def endAbsent (s : State) (uid : Nat) (d : Dest) : State :=
  match s.unit? uid with
  | none => s
  | some g =>
    if g.lateAbsent = 0 then s
    else
      (putResults s uid { dest := d, vals := (strands g.lateAbsent).map fun k => (k, 0) }).modUnit uid fun u =>
        { u.putP7 g.lateAbsent 0 with lateAbsent := 0 }

/-- The flag that a field of R184 or R247 names; 12 is no flag, for an inline form. -/
def flagNo (f : Nat) : Nat := if f = 0 then 12 else f

/-- A flag set by an asynchronous instruction; that of an acquire load holds later instructions back (R65, R186). -/
def Group.arm (g : Group) (k : Nat) (acquire : Bool) : Group :=
  let rest := g.acqFlags.filter (· != k)
  { g.putFlag k { set := true, pending := none } with acqFlags := if acquire then k :: rest else rest }

/-- A flag's fault-pending bit cleared (R65). -/
def Group.clearPending (g : Group) (k : Nat) : Group :=
  { g.putFlag k { g.flag k with pending := none } with acqFlags := if (g.flag k).set then g.acqFlags else g.acqFlags.filter (· != k) }

/-- A completion written into a unit: registers, then the flag with its pending fault (R65, R185, R186, R216); flag 12 is none. -/
def applyCompletion (s : State) (uid flag : Nat) (res : List Results) (fault : Option FlagFault) : State :=
  let s := res.foldl (fun t r => putResults t uid r) s
  s.modUnit uid fun g =>
    { g.putFlag flag { set := false, pending := fault } with acqFlags := if fault.isSome then g.acqFlags else g.acqFlags.filter (· != flag) }

/-- A completion for strands of a group, met at a core: written into the unit it is owed to if that stands there, else sent after it
(R46, R65). -/
def deliver (s : State) (core gid flag : Nat) (mask : Word) (res : List Results) (fault : Option FlagFault) : State :=
  match owedUnit s gid mask with
  | none => s
  | some g =>
    if g.loc = .resident ∧ g.core = core then applyCompletion s g.uid flag res fault
    else s.send .reply core (dieOf g.core) (.completion gid flag mask res fault)

/-- A fault that a flag will raise, without detail. -/
def flagFault (code addr : Nat) (home : Option (Nat × Nat)) : FlagFault :=
  { code, inner := 0, addr, bodyPc := 0, core := 0, device := 0, desc := [], progress := 0, home }

/-! ## Completion records (R341, R343) -/

/-- The 32 bytes of a completion record (R343). -/
def Completion.bytes (c : Completion) : List Byte :=
  bytesLE 1 c.kind ++ bytesLE 1 c.opcode ++ bytesLE 2 c.reason ++ bytesLE 4 c.region ++ bytesLE 8 c.tag.toNat ++ bytesLE 8 c.detail ++ bytesLE 8 c.time

/-- A record written to a completion ring, or held for room in order: none is written while CQ_TAIL − CQ_HEAD equals the ring's count. -/
def qpWrite (q : QueuePair) (now : Nat) (c : Completion) : QueuePair × List HostOut :=
  if q.held.isEmpty ∧ (q.cqTail + 2 ^ 32 - q.cqHead) % 2 ^ 32 ≠ q.cqCount then
    ({ q with cqTail := (q.cqTail + 1) % 2 ^ 32 },
     [.completion q.id (q.cqTail % q.cqCount) (Completion.bytes { c with time := now }), .cqTail q.id ((q.cqTail + 1) % 2 ^ 32)])
  else ({ q with held := q.held ++ [c] }, [])

/-- The queue pair that a record goes to: the one named unless it is in the error state; then, for kinds 3 to 7, the lowest that is not
(R343). A queue pair in the error state gets no other record (DEDUCED, log 25). -/
def recordQp (s : State) (qp kind : Nat) : Option QueuePair :=
  match s.qps.find? fun q => q.id == qp && !q.error with
  | some q => some q
  | none => if kind < 3 then none else leastBy (fun a b => decide (a.id < b.id)) (s.qps.filter fun q => !q.error)

/-- A completion record written. -/
def complete (s : State) (qp : Nat) (c : Completion) : State :=
  match recordQp s qp c.kind with
  | none => s
  | some q =>
    let r := qpWrite q s.now c
    { s with qps := s.qps.map (fun x => if x.id = q.id then r.1 else x), hostOut := s.hostOut ++ r.2 }

/-- A completion record. -/
def record (kind opcode reason region : Nat) (tag : DWord) (detail : Nat) : Completion :=
  { kind, opcode, reason, region, tag, detail, time := 0 }

/-- A module event: kind 8 on every queue pair that is not in the error state (R343, R370). -/
def moduleEvent (s : State) (code detail : Nat) : State :=
  (s.qps.filter fun q => !q.error).foldl (fun t q => complete t q.id (record 8 0 code 0 0 detail)) s

/-! ## Fault domains and queues (R325 to R327) -/

/-- Index in a launch's chain of the domain node (R325). -/
def domainIndex : List Node → Nat
  | [] => 0
  | [_] => 0
  | n :: t => if 2 ≤ n.policy then domainIndex t + 1 else 0

/-- The domain node of a launch. -/
def domainNode (l : Launch) : Node := l.chain.getD (domainIndex l.chain) default

/-- Launches not ended that lie in the fault domain of a launch (R325). -/
def domainOf (s : State) (l : Launch) : List Nat :=
  let k := domainIndex l.chain
  let d := domainNode l
  let path := (l.chain.take (k + 1)).map (·.addr)
  (s.launches.filter fun m => m.idx == l.idx || !m.ended &&
    (if d.policy = 1 then m.chain.any fun n => n.addr == d.addr else path.contains m.node.addr)).map (·.idx)

/-- State of a fault queue: unusable, full, or room for the entry TAIL at an address. -/
inductive QState where
  | unusable
  | full
  | room (tail entry : Nat)
  deriving DecidableEq, Repr

/-- The queue at `FAULT_QUEUE` (R326). -/
def queueState (s : State) (root : DWord) (q : Nat) : QState :=
  match devReadLE s root q 8, devReadLE s root (q + 8) 8, devReadLE s root (q + 16) 4, devReadLE s root (q + 24) 4 with
  | some ent, some cnt, some head, some tail =>
    let cnt := cnt % 2 ^ 16
    if cnt = 0 ∨ ent % 4096 ≠ 0 then .unusable
    else if (tail + 2 ^ 32 - head) % 2 ^ 32 = cnt then .full
    else .room tail (ent + 16384 * (tail % cnt))
  | _, _, _, _ => .unusable

/-- An entry written at TAIL, then TAIL (R326). -/
def queuePut (s : State) (root : DWord) (q tail entry : Nat) (bytes : List Byte) : Option State :=
  match devWrite s root entry bytes with
  | none => none
  | some t => devWrite t root (q + 24) (bytesLE 4 (tail + 1))

/-- What an entry's 256-byte record says (R327). -/
structure EntryInfo where
  typ : Nat
  code : Nat
  inner : Nat := 0
  image : Bool := false
  killed : Bool := false
  escalated : Bool := false
  deferred : Bool := false
  origin : Nat := 0
  domain : Nat := 0
  core : Nat := 0
  slot : Nat := 0
  pc : Nat := 0
  addr : Nat := 0
  now : Nat := 0
  grp : Nat := 0
  team : Nat := 0
  mask : Nat := 0
  tag : Nat := 0
  length : Nat := 0
  home : Option (Nat × Nat) := none
  detail : List Byte := []
  deriving DecidableEq, Repr, Inhabited

/-- The record's bytes (R327). -/
def entryBytes (e : EntryInfo) : List Byte :=
  bytesLE 1 e.typ ++ bytesLE 1 e.code ++ bytesLE 1 e.inner ++
    bytesLE 1 (natOfBits [e.image, e.killed, e.escalated, e.deferred]) ++ bytesLE 4 e.origin ++ bytesLE 4 e.domain ++
    bytesLE 4 (pack [(10, e.core), (9, e.slot)]) ++ bytesLE 8 e.pc ++ bytesLE 8 e.addr ++ bytesLE 8 e.now ++
    bytesLE 4 (pack [(9, e.grp), (16, e.team)]) ++ bytesLE 4 e.mask ++ bytesLE 8 e.tag ++ bytesLE 4 e.length ++
    bytesLE 4 (match e.home with | some (h, d) => pack [(4, h), (12, d), (1, 1)] | none => 0) ++
    (e.detail ++ List.replicate (64 - e.detail.length) 0) ++ List.replicate 128 0

/-- DETAIL of a fault raised from a flag (R327). -/
def flagDetail (k : Nat) (f : FlagFault) : List Byte :=
  if f.code = 0x20 ∨ f.code = 0x22 then
    bytesLE 8 k ++ bytesLE 8 f.bodyPc ++ bytesLE 8 f.addr ++ bytesLE 8 (pack [(10, f.core), (6, 0), (12, f.device)])
  else if f.code = 0x51 then
    (f.desc.flatMap fun w => bytesLE 4 w.toNat) ++ bytesLE 8 f.progress ++ bytesLE 8 f.addr ++ bytesLE 8 k
  else []

/-- DETAIL of a fault 0x1C (R327): the window and the address of the late operation that marked the region. -/
def overrunDetail (s : State) (region : Nat) : List Byte :=
  match s.overruns.find? fun m => m.1 == region with
  | some m => bytesLE 8 m.2.1 ++ bytesLE 8 m.2.2
  | none => []

/-- The entry info of a unit's fault or record. -/
def unitEntry (s : State) (g : Group) (typ code addr : Nat) : EntryInfo :=
  let l := launchOf s g
  let d := domainNode l
  { typ, code, origin := g.region, domain := d.regionId, escalated := d.addr != l.node.addr, core := g.core, slot := g.slot, pc := g.pc,
    addr, now := s.now, grp := g.grp, team := g.team, mask := g.mask.toNat, tag := l.tag.toNat }

/-- The kind 5 record that announces an entry (R326, R343). -/
def announce (s : State) (l : Launch) (e : EntryInfo) (tail : Nat) : State :=
  complete s l.qp (record 5 0 e.code e.origin l.tag ((tail + 1) % 2 ^ 32))

/-! ## Arrival queues and crucibles (R48, R53) -/

/-- Bytes of a unit's image. -/
def imageSize (u : Group) : Nat :=
  match u.carried with
  | some c => (ingotBytes u { valloc := 0, salloc := 0, region := 0, lic := false, seq := 0 } c).length
  | none => 64

/-- Bytes held in the crucible of a stack. -/
def crucibleUsed (s : State) (stack : Nat) : Nat :=
  ((s.crucible.filter fun q => crucibleStack q.core == stack).map (·.size)).foldl (· + ·) 0

/-- A core's queue has a free entry. -/
def queueRoom (s : State) (core : Nat) : Bool := decide ((s.queue.filter fun q => q.core == core).length < queueSize core)

/-- A fresh arrival for a core stands before its queue: an ingot or call whose source has nothing in the crucible. -/
def freshWaiting (s : State) (core : Nat) : Bool :=
  s.net.any fun m =>
    (match m.body with
      | .ingot u _ _ _ => (s.unit? u.uid).any fun g => g.core == core
      | .call c => c.dstCore == core
      | _ => false) && !(s.crucible.any fun q => q.core == core && q.src == m.src)

/-- The crucibles without the killed units that have reached the head for their core (R53). -/
def sweepCrucibles (s : State) : State :=
  { s with crucible := s.crucible.foldl (fun kept q => if (s.unit? q.uid).isSome || kept.any (fun x => x.core == q.core) then kept ++ [q] else kept) [] }

/-- Free entries of a core's queue given out: alternately to the crucible's head and to a fresh arrival, the crucible first; an entry that
is a waiting fresh arrival's stays free for it, and one side takes them all when the other has nothing waiting (R48). -/
def offerEntries (core : Nat) : Nat → State → State
  | 0, s => s
  | n + 1, s =>
    let s := sweepCrucibles s
    let cs := s.coreState core
    match s.crucible.find? fun q => q.core == core with
    | none => if cs.fresh then s.putCore { cs with fresh := false } else s
    | some q =>
      if !queueRoom s core || (cs.fresh && freshWaiting s core) then s
      else
        offerEntries core n (({ s.putCore { cs with fresh := true } with
          crucible := s.crucible.filter fun x => x.uid != q.uid
          queue := s.queue ++ [q] }).modUnit q.uid fun u => { u with loc := .queued })

/-- The free queue entries of every core with a crucible given out. -/
def offerAll (s : State) : State :=
  ((s.crucible.map (·.core)).eraseDups ++ (s.cores.filter (·.fresh)).map (·.core)).foldl (fun t c => offerEntries c (queueSize c) t) s

/-- An arriving unit takes a queue entry, or goes to the tail of the crucible when the queue is full or an earlier arrival of its source
waits there; none while the 64 MiB crucible is full. An entry taken past a crucible was a fresh arrival's turn (R48). -/
def enqueue (s : State) (core uid src : Nat) : Option State :=
  let size := ((s.unit? uid).map imageSize).getD 0
  let item : QItem := { core, uid, src, size }
  if queueRoom s core && !(s.crucible.any fun q => q.core == core && q.src == src) then
    let s := if (s.coreState core).fresh then s.putCore { s.coreState core with fresh := false } else s
    some ({ s with queue := s.queue ++ [item] }.modUnit uid fun u => { u with loc := .queued })
  else if crucibleUsed s (crucibleStack core) + size ≤ 2 ^ 26 then
    some ({ s with crucible := s.crucible ++ [item] }.modUnit uid fun u => { u with loc := .inCrucible })
  else none

/-- A unit's queue entry removed, and what waits for it brought up. -/
def leaveQueue (s : State) (core uid : Nat) : State :=
  offerEntries core (queueSize core) { s with queue := s.queue.filter fun q => q.uid != uid }

/-! ## Kills (R53, R329) -/

/-- An executing entry of a reply cache whose visitor is among some units. -/
def CacheEntry.runs (e : CacheEntry) (us : List Group) : Bool :=
  e.reply.isNone && us.any fun g =>
    match g.visitor with | some v => v.stack == e.stack && v.srcDev == e.dev && v.srcCore == e.core && v.seq == e.seq | none => false

/-- Entries of reply caches freed, the time noted in the watermarks of their sources (R219). -/
def freeEntries (s : State) (dead : CacheEntry → Bool) : State :=
  let gone := s.cache.filter dead
  { s with
    cache := s.cache.filter fun e => !dead e
    watermarks := s.watermarks.map fun w =>
      if gone.any fun e => e.stack == w.stack && e.dev == w.dev && e.core == w.core then { w with lastFree := s.now } else w }

/-- Units, slots and every outstanding piece of work of the killed launches discarded; their queue entries free at once, those in a crucible
when they reach its head (R53); licences wait until their arrays are idle (R257); the completion records are written by
LAUNCH_COMPLETION. -/
def killLaunches (s : State) (ls : List Nat) (code : Nat) : State :=
  let inL (l : Nat) := ls.contains l
  let s := freeEntries s fun e => e.runs (s.units.filter fun g => inL g.launch)
  let gone := (s.units.filter fun g => inL g.launch).map (·.uid)
  let gids := (s.units.filter fun g => inL g.launch).map (·.gid)
  offerAll { s with
    units := s.units.filter fun g => !inL g.launch
    slots := s.slots.filter fun x => !inL x.launch
    teams := s.teams.filter fun t => !inL t.launch
    twins := s.twins.filter fun w => !inL w.launch
    owners := s.owners.filter fun o => !inL o.launch
    queue := s.queue.filter fun q => !gone.contains q.uid
    floads := s.floads.filter fun f => !gids.contains f.gid
    calls := s.calls.filter fun c => !inL c.launch
    moves := (s.moves.filter fun m => !inL m.launch || m.stage == 2).map fun m => if inL m.launch then { m with stage := 3 } else m
    flushes := s.flushes.map fun f => if gone.contains f.uid then { f with uid := 0 } else f
    parked := s.parked.filter fun p => !inL p.u.launch
    heldEntries := s.heldEntries.filter fun h => match h.uid with | some u => !gone.contains u | none => true
    posted := s.posted.filter fun p => !(inL p.launch && p.held.isSome)
    pairs := s.pairs.map fun p =>
      { p with waiters := p.waiters.filter (fun w => !gone.contains w.1),
               dying := p.dying || (match p.holder with | some h => gids.contains h | none => false) }
    launches := s.launches.map fun l => if inL l.idx ∧ !l.ended then { l with killed := some (l.killed.getD code), toPlace := [] } else l }

/-! ## Records without a group's image -/

/-- An error record (TYPE 3) in the domain of a launch: lost and counted when the queue is full, lost when it is unusable (R324,
R326). -/
def errorRecord (s : State) (l : Launch) (e : EntryInfo) : State :=
  let d := domainNode l
  let e := { e with domain := d.regionId, escalated := d.addr != l.node.addr, tag := l.tag.toNat, now := s.now }
  match queueState s l.ptRoot d.faultQueue with
  | .unusable => s
  | .full =>
    match devReadLE s l.ptRoot (d.faultQueue + 28) 4 with
    | some n => (devWrite s l.ptRoot (d.faultQueue + 28) (bytesLE 4 (min (n + 1) (2 ^ 32 - 1)))).getD s
    | none => s
  | .room tail entry =>
    match queuePut s l.ptRoot d.faultQueue tail entry (entryBytes e) with
    | some t => announce t l e tail
    | none => s

/-- The error record of a walk that met a malformed or poisoned entry (R277, R369). -/
def walkRecord (s : State) (g : Group) (code a : Nat) (w : WalkErr) : State :=
  errorRecord s (launchOf s g) { unitEntry s g 3 (if w.poison then 0x19 else code) w.addr with
    detail := bytesLE 8 a ++ bytesLE 8 w.level ++ bytesLE 8 w.raw, home := some (w.addr / 2 ^ 36, 0) }

/-- An entry that waits for room in the queue of a launch's domain node. -/
def heldEntry (l : Launch) (e : EntryInfo) (image : List Byte) (uid : Option Nat) (dest : Bool × List Nat := (false, []))
    (move : Option (Nat × FlagFault) := none) : HeldEntry :=
  { domain := (domainNode l).addr
    qaddr := (domainNode l).faultQueue
    ptRoot := l.ptRoot
    head := entryBytes e
    image
    tag := l.tag.toNat
    qp := some l.qp
    region := e.origin
    code := e.code
    uid
    dest
    move
    after := [] }

/-- A record that waits while the queue is full: a page request or a watchdog entry (R324, R326). -/
def heldRecord (s : State) (l : Launch) (e : EntryInfo) (body : List Byte) : State :=
  let d := domainNode l
  let e := { e with domain := d.regionId, escalated := d.addr != l.node.addr, tag := l.tag.toNat, now := s.now }
  match queueState s l.ptRoot d.faultQueue with
  | .unusable => s
  | .full => { s with heldEntries := s.heldEntries ++ [heldEntry l e body none] }
  | .room tail entry =>
    match queuePut s l.ptRoot d.faultQueue tail entry (entryBytes e ++ body) with
    | some t => announce t l e tail
    | none => s

/-! ## Taking a fault (R74, R214, R324, R257) -/

/-- A slot left by a unit: freed unless it is reserved for rejoin records or shared by another resident unit (R34, R46, R324). -/
def vacate (s : State) (core slot uid : Nat) : State :=
  match s.slot? core slot with
  | none => s
  | some x =>
    if x.records.isEmpty ∧ !(s.units.any fun h => h.uid != uid && h.loc == .resident && h.core == core && h.slot == slot) then s.freeSlot core slot
    else s

/-- `MLDW` and `MDRAIN` in progress taken to their ends; flagged ones are delivered (R255 step 1). -/
def finishShort (s : State) (g : Group) (p : TwinPair) : State :=
  let a := s.array p.core
  (a.ops.filter fun o => o.kind != 1).foldl (fun t o =>
    let r := seqFinish (launchOf s g) p.core 257 t o
    let t := r.1.putArray { r.1.array p.core with ops := (r.1.array p.core).ops.filter fun x => x.kind != o.kind }
    let res : List Results := if o.kind = 2 then [{ dest := o.dest, vals := [(lowest o.mask, r.2.novf + 2 ^ 32 * r.2.low)] }] else []
    deliver t p.core o.gid (flagNo o.flag) o.mask res none) s

/-- The fault reply of a visitor, which ends (R214, R216, R219). -/
def visitorFault (s : State) (g : Group) (v : Visitor) (code addr : Nat) : State :=
  let f : FlagFault := { code := 0x20, inner := code, addr, bodyPc := g.pc, core := g.core, device := s.devNum, desc := [], progress := 0, home := none }
  let r : Reply := { dstDev := v.srcDev, dstCore := v.srcCore, seq := v.seq, flag := v.flag, uni := false, vals := [], fault := some f }
  let hit (e : CacheEntry) : Bool := e.stack == v.stack && e.dev == v.srcDev && e.core == v.srcCore && e.seq == v.seq && e.reply.isNone
  let copies := 1 + ((s.cache.find? hit).map (·.attached)).getD 0
  let s := { s with cache := s.cache.map fun e => if hit e then { e with reply := some r, doneAt := s.now, attached := 0 } else e }
  let s := (s.dropUnit g.uid).freeSlot g.core g.slot
  (List.range copies).foldl (fun t _ => t.send .reply g.core (if v.srcDev = 0 then dieOf v.srcCore else 16) (.reply r)) s

/-- The header facts of a unit's image. -/
def headInfo (s : State) (g : Group) : HeadInfo :=
  let l := launchOf s g
  { valloc := if g.visitor.isSome then 16 else l.valloc, salloc := if g.visitor.isSome then 8 else l.salloc, region := g.region,
    lic := g.image.isSome, seq := g.seq }

/-- What a unit's licence and matrix image come to before the unit is swapped out by a fault (R255, R257). -/
def leaveLicence (s : State) (g : Group) : State × Group :=
  let s := match s.licenceOf g.gid with | some p => finishShort s g p | none => s
  giveUpImage s ((s.unit? g.uid).getD g)

/-- A unit swapped out by a fault: its ingot, with its live set and the destinations of the faulting instruction, is written as the image of
an entry in the queue of its domain node; its slot is freed unless reserved (R324). A full queue holds it resident and halted. A queue that
is unusable kills the domain (R324, R329). -/
def parkUnit (s : State) (g : Group) (r : FaultReq) (dest : Bool × List Nat) : State :=
  let l := launchOf s g
  let d := domainNode l
  let seq := (s.coreState g.core).ingotSeq
  let s := s.putCore { s.coreState g.core with ingotSeq := (seq + 1) % 4096 }
  match s.slot? g.core g.slot with
  | none => s
  | some sl =>
    let c := carry g sl dest.1 dest.2
    let u := { g with carried := some c, seq, bundle := none, age := 0, wait := .none, homeFault := none, pauseEnd := 0,
                       visits := [] }
    let img := ingotBytes u (headInfo s u) c
    let e : EntryInfo := { unitEntry s g 1 r.code r.addr with
      image := true, deferred := r.deferred, length := img.length, home := r.home,
      inner := (r.flag.map fun f => f.2.inner).getD 0,
      detail := match r.flag with | some f => flagDetail f.1 f.2 | none => if r.code = 0x1C then overrunDetail s g.region else [] }
    match queueState s l.ptRoot d.faultQueue with
    | .unusable => killLaunches (s.putUnit g) (domainOf s l) 0x7F
    | .full =>
      { s.putUnit { g with halting := true, halted := true } with
        heldEntries := s.heldEntries ++ [heldEntry l e img (some g.uid) dest (if r.code = 0x51 then r.flag else none)] }
    | .room tail entry =>
      match queuePut s l.ptRoot d.faultQueue tail entry (entryBytes e ++ img) with
      | none => killLaunches (s.putUnit g) (domainOf s l) 0x7F
      | some t =>
        let t := saveImage (announce (t.putUnit { u with loc := .swapped, halting := false, halted := false }) l e tail) l u
        vacate { t with parked := t.parked ++ [{ domain := d.addr, index := tail % 2 ^ 32, qaddr := d.faultQueue, u, move := if r.code = 0x51 then r.flag else none }] } g.core g.slot g.uid

/-- TAKING A FAULT (R324): the unit is swapped out to the queue of its domain node, its licence given up; a visitor ends with a fault reply
(R214). `g` is the unit at the faulting instruction, its chain ended. -/
def takeFault (s : State) (g : Group) (r : FaultReq) (dest : Bool × List Nat) : State :=
  match g.visitor with
  | some v => visitorFault (s.putUnit g) g v r.code r.addr
  | none => parkUnit (leaveLicence (s.putUnit g) g).1 (leaveLicence (s.putUnit g) g).2 r dest

/-- The chain of a unit that faults ends before the faulting instruction, and the fault is taken. -/
def raise (s : State) (g : Group) (sl : Slot) (dest : Bool × List Nat) (r : FaultReq) : State :=
  let p := commitChain g sl
  takeFault (s.putSlot p.2) p.1 r dest

/-- A fault of the issuing instruction (R91, R324). -/
def Ctx.fault (c : Ctx) (i : Instr) (r : FaultReq) : State :=
  raise c.s c.g c.sl (destRegs c.g c.uni (destBlock c.uni i)) r

/-- A fault with a code and an address. -/
def Ctx.fail (c : Ctx) (i : Instr) (code addr : Nat) : State := c.fault i (Ctx.faultReq code addr)

/-- The fault pending on a flag raised, its bit cleared (R65, R85). -/
def Ctx.failFlag (c : Ctx) (i : Instr) (k : Nat) (f : FlagFault) : State :=
  let g := c.g.clearPending k
  raise c.s g c.sl (destRegs g c.uni (destBlock c.uni i))
    { code := f.code, addr := f.addr, flag := some (k, f), home := f.home, deferred := true }

/-! ## Transfer targets (R79, R278) -/

/-- The root of the page tables of a unit (R80). -/
def rootOf (s : State) (g : Group) : DWord := (launchOf s g).ptRoot

/-- `CheckTarget(t)` (R76, R79): the fault of a transfer to t, with a bad entry met by the walk. -/
def checkTarget (s : State) (g : Group) (t : Nat) : Option (Nat × Option WalkErr) :=
  if bits t 2 2 = 0 ∨ bits t 0 2 ≠ 0 then some (0x03, none)
  else if 0xFB ≤ t / 2 ^ 56 then some (0x12, none)
  else if t / 2 ^ 56 ≠ 0 then some (0x15, none)
  else
    match translate s g.core (rootOf s g) (supervisor s g) .exec t with
    | .error e => some e
    | .ok p => if p.res then none else some (0x12, none)

/-- A fault of a target, with the error record of the walk. -/
def Ctx.failTarget (c : Ctx) (i : Instr) (t : Nat) (e : Nat × Option WalkErr) : State :=
  match e.2 with
  | some w => { c with s := walkRecord c.s c.g e.1 t w }.fail i e.1 t
  | none => c.fail i e.1 t

/-! ## Taking a trap (R138, R262, R323) -/

/-- TAKING A TRAP: `TRAPPC`, `TRAPADDR` and `TRAPCAUSE` are written, HANDLER is set and the pc goes to `TRAPVEC` (R138, R323). -/
def trapEntry (g : Group) (vec pc addr code flag aux : Nat) : Group :=
  { g with trapPc := pc, trapAddr := addr, trapCause := BitVec.ofNat 32 (pack [(8, code), (4, flag), (12, aux)]), handler := true, pc := vec,
           bundle := none }

/-- The return from a trap: the pc goes to `TRAPPC` and HANDLER is cleared (R262). -/
def trapReturn (g : Group) : Group := { g with pc := g.trapPc, handler := false, bundle := none }

end Sys2Proof.Machine
end

