-- ==== Sys2Proof/Machine/Net.lean ====
section
/-! DEFINITION. The transport between modules as the fabric uses it (R52, R281, R309, R344, R345): paths, frames sent, the numbering
of groups across modules, units that leave for another module and that come from one. -/

namespace Sys2Proof.Machine

/-! ## Paths and frames (R344, R345) -/

/-- The path to a module for a class: 0 request, 1 reply. The first frame of a path carries sequence number 1 (log 21). -/
def pathOf (s : State) (dev cls : Nat) : Path :=
  (s.paths.find? fun p => p.dev == dev && p.cls == cls).getD { dev, cls, sendSeq := 1, recvSeq := 0, unacked := [], failed := false }

/-- A path replaced. -/
def putPath (s : State) (p : Path) : State :=
  { s with paths := p :: s.paths.filter fun q => !(q.dev == p.dev && q.cls == p.cls) }

/-- Traffic to a module flows: a session, a valid entry, no failed path (R345). -/
def peerUp (s : State) (dev : Nat) : Bool :=
  s.devNum != 0 && (s.peers.any fun p => p.dev == dev && p.valid) && !(s.paths.any fun p => p.dev == dev && p.failed)

/-- Traffic from a core or die of this module to another flows: no link of its route to the I/O die has failed (R22, R338). -/
def peerReach (s : State) (src dev : Nat) : Bool := peerUp s dev && routeUp s src 16

/-- A frame header filled in for a path (R344). -/
def frameFor (s : State) (dev cls ftype seq : Nat) (body : Option Msg) : Frame :=
  { version := 1, ftype, cls, srcDev := s.devNum, dstDev := dev, session := s.sessionId, seq, ackSeq := (pathOf s dev cls).recvSeq,
    len := if body.isSome then (Config.payloadLength s.freeCtr).toNat else 0, w := s.window, body }

/-- The 32 bytes of a frame's header (R344). -/
def Frame.header (f : Frame) : List Byte :=
  bytesLE 1 f.version ++ bytesLE 1 f.ftype ++ bytesLE 1 f.cls ++ bytesLE 1 0 ++ bytesLE 2 f.srcDev ++ bytesLE 2 f.dstDev ++ bytesLE 4 f.session ++
    bytesLE 4 f.seq ++ bytesLE 4 f.ackSeq ++ bytesLE 2 f.len ++ bytesLE 1 f.w ++ List.replicate 9 0

/-- A frame read from its header (R344); the reserved bytes are not looked at. -/
def PortFrame.frame (p : PortFrame) : Frame :=
  { version := field p.head 0 1, ftype := field p.head 1 1, cls := field p.head 2 1, srcDev := field p.head 4 2, dstDev := field p.head 6 2,
    session := field p.head 8 4, seq := field p.head 0x0C 4, ackSeq := field p.head 0x10 4, len := field p.head 0x14 2, w := field p.head 0x16 1,
    body := p.body }

/-- The port bound to a module (R339, R345). -/
def portOf (s : State) (dev : Nat) : Nat := ((s.peers.find? fun p => p.dev == dev).map (·.port)).getD 0

/-- Frames put on the port bound to their destination. -/
def State.transmit (s : State) (fs : List Frame) : State :=
  { s with frameOut := s.frameOut ++ fs.map fun f => { port := portOf s f.dstDev, head := f.header, body := f.body } }

/-- A data frame sent and kept until it is acknowledged; nothing is sent to a module that cannot be reached (R344, R345). -/
def sendPeer (s : State) (dev cls : Nat) (body : Payload) : State :=
  if !peerUp s dev then s else
  let p := pathOf s dev cls
  let lent := match body with
    | .ingot u _ _ _ => s.launch? u.launch
    | .call c | .retry c => s.launch? c.launch
    | _ => none
  let m : Msg := { id := s.nextId, cls := if cls = 0 then .request else .reply, src := 1040, dst := 16, body, lent }
  let f := frameFor s dev cls 1 p.sendSeq (some m)
  let s := s.transmit [f]
  { putPath s { p with sendSeq := (p.sendSeq + 1) % 2 ^ 32, unacked := p.unacked ++ [(f, s.now, 1)] } with nextId := s.nextId + 1, freeCtr := s.freeCtr + 1 }

/-- `PTIME` window of an instant (R309). -/
def windowNow (s : State) : Nat := s.ptime / (1000 * s.window)

/-- The window of a cross-device posted operation kept for the units that issued it and for their launch (R308, R310). -/
def stampWindow (s : State) (uids : List Nat) (launch n : Nat) : State :=
  let up (w : Option Nat) : Option Nat := some (max (w.getD 0) n)
  { s with
    units := s.units.map fun g => if uids.contains g.uid then { g with lastWindow := up g.lastWindow } else g
    launches := s.launches.map fun l => if l.idx = launch then { l with lastWindow := up l.lastWindow } else l }

/-! ## Region nodes as this module knows them (R42, R43, R281) -/

/-- Doubleword k of a block of bytes. -/
def dwordOf (bs : List Byte) (k : Nat) : Nat := field bs (8 * k) 8

/-- The effective values of a node (R43), given its parent's; the root takes every field as written. -/
def nodeOf (addr : Nat) (bs : List Byte) (parent : Option Node) : Node :=
  let d := dwordOf bs
  let p := parent.getD default
  let own (k : Nat) : Bool := parent.isNone || bit (d 3) k
  let pick (k : Nat) (v w : Nat) : Nat := if own k then v else w
  let low (k : Nat) (v w : Nat) : Nat := if parent.isNone then v else if own k then min v w else w
  { addr
    regionId := bits (d 0) 0 32
    priority := low 0 (bits (d 4) 0 3) p.priority
    supervisor := if parent.isNone then bit (d 4) 3 else if own 1 then bit (d 4) 3 && p.supervisor else p.supervisor
    policy := pick 2 (bits (d 4) 4 2) p.policy
    budgetCores := low 3 (bits (d 5) 0 11) p.budgetCores
    budgetGroups := low 3 (bits (d 5) 32 19) p.budgetGroups
    quotaV := low 4 (bits (d 6) 0 20) p.quotaV
    quotaS := low 4 (bits (d 6) 20 18) p.quotaS
    quotaSpad := low 5 (bits (d 7) 0 22) p.quotaSpad
    quotaLat := low 5 (bits (d 7) 22 7) p.quotaLat
    barTimeout := pick 6 (bits (d 8) 0 24) p.barTimeout
    hbeatInt := pick 6 (bits (d 8) 24 24) p.hbeatInt
    persistent := if own 6 then bit (d 8) 48 else p.persistent
    replyTimeout := max 1 (pick 7 (bits (d 9) 0 16) p.replyTimeout)
    trapVector := pick 8 (d 10) p.trapVector
    faultQueue := pick 9 (d 11) p.faultQueue
    checkpoint := pick 10 (d 12) p.checkpoint
    privateBase := pick 11 (d 13) p.privateBase
    privateSize := pick 11 (bits (d 14) 0 32) p.privateSize
    latticeTable := pick 12 (d 15) p.latticeTable }

/-- The chains of region nodes that this module knows, newest first: those of its launches, and the session root (R281; DEDUCED, log 40). -/
def knownChains (s : State) : List (List Node) :=
  (s.launches.reverse.map (·.chain)) ++ (match s.sessionRoot with | some r => [[nodeOf 0 (Memory.readBytes s.dram r 256) none]] | none => [])

/-- A chain from the node whose REGION_ID is a group's; none when the module has no such node. -/
def regionChain (s : State) (region : Nat) : Option (List Node) :=
  (knownChains s).findSome? fun c => match c.dropWhile fun n => n.regionId != region with | [] => none | n :: up => some (n :: up)

/-- A record under which groups of another module's launch work here: the launch as its module lends it, this module's region node, tables and
queue (R281; DEDUCED, log 40). It never completes here. -/
def guestLaunch (s : State) (chain : List Node) (idx dev : Nat) (l : Launch) : Launch :=
  { l with
    idx
    qp := 2 ^ 32
    chain
    ptRoot := s.ptRoot
    regions := []
    toPlace := []
    killed := none
    preempted := false
    ended := true
    guestOf := some (dev, l.idx) }

/-- The record of a lent launch, made when it is first needed; none when no node of this module has the region's REGION_ID. A launch of
this module that comes back to it is itself. -/
def hostLaunch (s : State) (dev region : Nat) (lent : Option Launch) : Option (State × Nat) :=
  let l := lent.getD default
  if dev = s.devNum then (if l.guestOf.isNone then some (s, l.idx) else none)
  else match s.launches.find? fun x => x.guestOf == some (dev, l.idx) && x.node.regionId == region with
  | some x => some (s, x.idx)
  | none =>
    match regionChain s region with
    | none => none
    | some c => some ({ s with nextId := s.nextId + 1, launches := s.launches ++ [guestLaunch s c s.nextId dev l] }, s.nextId)

/-- The launch under which a record about a region of another module's launch is written here. -/
def regionLaunch (s : State) (region : Nat) : Option Launch :=
  (regionChain s region).map fun c => guestLaunch s c 0 0 default

/-! ## Groups across modules -/

/-- A group's number as other modules know it: its home module above bit 40. -/
def exportGid (s : State) (gid : Nat) : Nat := if gid < 2 ^ 40 then s.devNum * 2 ^ 40 + gid else gid

/-- A group's number as this module knows it. -/
def importGid (s : State) (gid : Nat) : Nat := if gid / 2 ^ 40 = s.devNum then gid % 2 ^ 40 else gid

/-- The module that holds the launch of a group; none for this module. -/
def homeOf (gid : Nat) : Option Nat := if gid < 2 ^ 40 then none else some (gid / 2 ^ 40)

/-- Places named relative to another module: device 0 is the module that writes. -/
def exportAccess (s : State) (a : Access) : Access :=
  { a with strands := a.strands.map fun x => match x.loc with | .dram 0 pa => { x with loc := .dram s.devNum pa } | _ => x }

/-- Places as this module names them. -/
def importAccess (s : State) (a : Access) : Access :=
  { a with strands := a.strands.map fun x => match x.loc with | .dram d pa => if d = s.devNum then { x with loc := .dram 0 pa } else x | _ => x }

/-- A message of a fabric class sent to a module: to a die of this one, or through the port. -/
def State.sendTo (s : State) (dev : Option Nat) (cls : MsgClass) (src dst : Nat) (body : Payload) : State :=
  match dev with
  | none => s.send cls src dst body
  | some d => sendPeer s d (if cls = .request then 0 else 1) body

/-- Why a unit from another module is not taken in. -/
inductive NotTaken where
  /-- Its group has been killed or has retired: it is discarded (R53). -/
  | gone
  /-- No region node of this module has its REGION_ID (R281). -/
  | noRegion
  deriving DecidableEq, Repr

/-- Strands of a stub that come back: the stub keeps the others. -/
def dropPart (s : State) (old : Option Group) (m : Word) : State :=
  match old with
  | some h => if h.mask &&& ~~~m = 0 then s.dropUnit h.uid else s.putUnit { h with mask := h.mask &&& ~~~m }
  | none => s

/-- A unit that arrives from another module, added to the units: one that returns takes its part of the group back; a foreign one
works under a record of its launch, with the region node that has its REGION_ID (R281). -/
def takeIn (s : State) (dev : Nat) (u : Group) (lent : Option Launch) : Except NotTaken (State × Group) :=
  let gid := importGid s u.gid
  let old := s.units.find? fun h => h.gid == gid && h.loc == .away && h.mask &&& u.mask != 0
  let s0 := dropPart s old u.mask
  let uid := match old with
    | some h => if h.mask &&& ~~~u.mask = 0 then h.uid else s.nextId
    | none => s.nextId
  let s1 := { s0 with nextId := s0.nextId + 1 }
  let put (s1 : State) (launch home : Nat) : State × Group :=
    let g := { u with uid, gid, launch, loc := .inFlight, homeDev := home, visits := u.visits.map (importAccess s)
                      bundle := u.bundle.map fun b => { b with words := [] } }
    (s1.addUnit g, g)
  match homeOf gid with
  | none =>
    match old with
    | some h => .ok (put s1 h.launch 0)
    | none => .error .gone
  | some d =>
    match hostLaunch s1 dev u.region lent with
    | some (t, idx) => .ok (put t idx d)
    | none => .error .noRegion

end Sys2Proof.Machine
end

