-- ==== Sys2Proof/Machine/Groups.lean ====
section
/-! DEFINITION. What a group is made of while it runs: splits and rejoin records (R32 to R36), exits and retirement (R37, R136, R137),
and the barriers of a team (R39, R203, R204). -/

namespace Sys2Proof.Machine

/-! ## Strands of a group (R37) -/

/-- The strands that wait in the records of a slot. -/
def Slot.arrived (x : Slot) : Word := x.records.foldl (fun m r => m ||| r.arrived) 0

/-- The unexited strands of a group: those of its units and those that wait in its records. -/
def aliveMask (s : State) (gid : Nat) : Word :=
  (s.slots.filter fun x => x.gid == gid && !x.visitor).foldl (fun m x => m ||| x.arrived) (unionMask (unitsOfGroup s gid))

/-! ## Teams and barriers (R39, R203, R204) -/

/-- A resident team. -/
def State.team? (s : State) (launch idx : Nat) : Option Team := s.teams.find? fun t => t.launch == launch && t.idx == idx

/-- A team replaced. -/
def State.putTeam (s : State) (t : Team) : State :=
  { s with teams := s.teams.map fun x => if x.launch = t.launch ∧ x.idx = t.idx then t else x }

/-- The barriers of a team stand in a checkpoint record and have not been restored: what would change them waits (R332, R333). -/
def teamAway (s : State) (launch team : Nat) : Bool :=
  s.saved.any fun x => x.used && x.bars && x.launch == launch && x.unit.any fun g => g.team == team

/-- A barrier that nothing has used. -/
def Bar.blank : Bar :=
  { n := 0, n0 := 0, arrived := 0, groups := [], part := [], gen := 0, firstAt := none, first := (0, 0, 0), skipped := 0 }

/-- Barrier k of a team. -/
def Team.bar (t : Team) (k : Nat) : Bar := t.bars.getD k Bar.blank

/-- Barrier k replaced. -/
def Team.putBar (t : Team) (k : Nat) (b : Bar) : Team := { t with bars := modAt t.bars k fun _ => b }

/-- The count of a barrier: for barrier 0 the present membership. -/
def Team.barN (t : Team) (k : Nat) : Nat := if k = 0 then t.members.length else (t.bar k).n

/-- The arrivals of a generation complete it: for barrier 0, every present member has arrived. -/
def Team.barFull (t : Team) (k : Nat) : Bool :=
  if k = 0 then !t.members.isEmpty && t.members.all (t.bar k).groups.contains
  else (t.bar k).n != 0 && decide ((t.bar k).n ≤ (t.bar k).arrived)

/-- The next generation. -/
def Bar.next (b : Bar) : Bar :=
  { b with n := b.n0, arrived := 0, groups := [], part := [], gen := b.gen + 1, firstAt := none, skipped := 0 }

/-! ## Overrun marks (R311, R327) -/

/-- An acquire at system scope of a region marked overrun (R311). -/
def overrunHit (s : State) (g : Group) (scope : Nat) : Bool := scope == 4 && s.overruns.any fun m => m.1 == g.region

/-- A wait at a scope is over; at system scope in a region marked overrun its acquire raises fault 0x1C, before the instruction that
follows (DEDUCED, log 73). -/
def Group.endWait (s : State) (g : Group) (scope : Nat) : Group :=
  if overrunHit s g scope then
    { g with wait := .none, homeFault := some { code := 0x1C, addr := 0, flag := none, home := none, deferred := false } }
  else { g with wait := .none }

/-- The waiter's wait ended: at once on the anchor core, by a message elsewhere (R202, R203). -/
def resumeWaiter (s : State) (t : Team) (k gen : Nat) (u : Group) : State :=
  match u.wait with
  | .bar id scope token =>
    if u.launch = t.launch ∧ u.team = t.idx ∧ id = k ∧ token < gen then
      match u.loc with
      | .swapped => s
      | .away => sendPeer (s.putUnit { u with wait := .none }) u.homeDev 1 (.barRelease (exportGid s u.gid) u.mask false)
      | .resident => if u.core = t.anchor then s.putUnit (u.endWait s scope) else s.send .reply t.anchor (dieOf u.core) (.barRelease u.gid u.mask false)
      | _ => s.putUnit (u.endWait s scope)
    else s
  | _ => s

/-- A generation that is complete gives way to the next, and its waiters resume (R203). -/
def barSettle (s : State) (launch team k : Nat) : State :=
  match s.team? launch team with
  | none => s
  | some t =>
    if t.barFull k then
      let t' := t.putBar k (t.bar k).next
      s.units.foldl (fun x u => resumeWaiter x t' k (t'.bar k).gen u) (s.putTeam t')
    else s

/-- A group's arrival in part becomes whole when its strands not yet covered have exited (R204). -/
def barCover (s : State) (launch team grp gid : Nat) : State :=
  match s.team? launch team with
  | none => s
  | some t =>
    let alive := aliveMask s gid
    (List.range 32).foldl (fun x k =>
      match x.team? launch team with
      | none => x
      | some t =>
        let b := t.bar k
        match b.part.lookup grp with
        | some m =>
          if alive &&& ~~~m = 0 then
            barSettle (x.putTeam (t.putBar k { b with arrived := b.arrived + 1, groups := b.groups ++ [grp], part := eraseKey grp b.part })) launch team k
          else x
        | none => x) (s.putTeam t)

/-- A group leaves its team, and the team barrier is looked at again (R39). -/
def leaveTeam (s : State) (launch team grp : Nat) : State :=
  match s.team? launch team with
  | none => s
  | some t =>
    let t := { t with members := t.members.filter (· != grp) }
    if t.members.isEmpty then { s with teams := s.teams.filter fun x => !(x.launch == launch && x.idx == team) }
    else barSettle (s.putTeam t) launch team 0

/-- How an arrival is answered: the fault 0x62, or the generation of the token with the state that has counted it. -/
def barArrive (s : State) (g : Group) (t : Team) (k scope : Nat) (count : Option Nat) : Option (Nat × State) :=
  let b := t.bar k
  let n := if k = 0 then t.members.length else match count with
    | some c => if b.n = 0 then c else b.n
    | none => b.n
  let bad : Bool := match count with
    | some c => c == 0 || decide (512 < c) || n != c
    | none => n == 0
  if bad || b.groups.contains g.grp then none
  else
    let m := (b.part.lookup g.grp).getD 0 ||| g.mask
    let b := { b with n, firstAt := some (b.firstAt.getD s.now), first := if b.firstAt.isSome then b.first else (g.grp, g.pc, scope) }
    let b := if aliveMask s g.gid &&& ~~~m = 0 then
        { b with arrived := b.arrived + 1, groups := b.groups ++ [g.grp], part := eraseKey g.grp b.part }
      else { b with part := insertKey g.grp m b.part }
    some (b.gen, s.putTeam (t.putBar k b))

/-- `init` with a count (R203): none for fault 0x62. -/
def barInit (s : State) (t : Team) (k c : Nat) : Option State :=
  let b := t.bar k
  if !b.groups.isEmpty ∨ b.arrived ≠ 0 ∨ c = 0 ∨ 512 < c then none else some (s.putTeam (t.putBar k { b with n := c, n0 := c }))

/-- The token of a unit for a barrier. -/
def Group.putToken (g : Group) (k gen : Nat) : Group := { g with tokens := insertKey k gen g.tokens }

/-- Effect at the team anchor of a `BAR` of a unit (R203): kind 0 arrive, 1 wait, 2 sync, 3 init. none is fault 0x62; otherwise the
state and whether the unit waits with its token. An `init` without a count has a count outside 1 to 512, and a `wait` looks at no count
(DESIGN CHOICE, log 72: the rule names neither form). -/
def barEffect (s : State) (g : Group) (t : Team) (k scope kind : Nat) (count : Option Nat) : Option (State × Option Nat) :=
  let waitsOn (x : State) (tok : Nat) : Option Nat :=
    if ((x.team? t.launch t.idx).map fun t => (t.bar k).gen) = some tok then some tok else none
  match kind with
  | 3 => (barInit s t k (count.getD 0)).map fun x => (x, none)
  | 1 => some (s, match g.tokens.lookup k with | some tok => waitsOn s tok | none => none)
  | _ =>
    match barArrive s g t k scope count with
    | none => none
    | some (tok, x) =>
      let x := barSettle (x.modUnit g.uid fun u => u.putToken k tok) t.launch t.idx k
      some (x, if kind = 2 then waitsOn x tok else none)

/-! ## Licence of a group that ends (R137, R246) -/

/-- The matrix state of a holder discarded and its licence freed, once its array is idle. -/
def discardLicence (s : State) (p : TwinPair) : State :=
  if (s.array p.core).ops.isEmpty then freeLicence s p else s.putPair { p with dying := true }

/-- The licence of a group released from a core: by a message away from the licensed core. -/
def releaseLicence (s : State) (gid core : Nat) : State :=
  match s.licenceOf gid with
  | none => s
  | some p => if p.core = core then discardLicence s p else s.send .request core (dieOf p.core) (.licRelease p.lower gid)

/-! ## Twin pairs (R259, R260) -/

/-- Whether a core is the upper side of its twin window. -/
def upperSide (core : Nat) : Bool := isUpper core

/-- The counts of a side: signals sent, signals consumed. -/
def TwinWindow.counts (w : TwinWindow) (upper : Bool) : Word × Word := if upper then (w.sentU, w.usedU) else (w.sentL, w.usedL)

/-- The group of a side. -/
def TwinWindow.gid (w : TwinWindow) (upper : Bool) : Nat := if upper then w.gidUpper else w.gidLower

/-- A signal sent by a side; its held time starts anew. -/
def TwinWindow.signal (w : TwinWindow) (upper : Bool) : TwinWindow :=
  if upper then { w with sentU := w.sentU + 1, timeU := 0 } else { w with sentL := w.sentL + 1, timeL := 0 }

/-- A signal consumed by a side; its waiting time starts anew. -/
def TwinWindow.consume (w : TwinWindow) (upper : Bool) : TwinWindow :=
  if upper then { w with usedU := w.usedU + 1, timeU := 0 } else { w with usedL := w.usedL + 1, timeL := 0 }

/-- Time already counted against a side's limit. -/
def TwinWindow.time (w : TwinWindow) (upper : Bool) : Nat := if upper then w.timeU else w.timeL

/-- Time counted for a side. -/
def TwinWindow.addTime (w : TwinWindow) (upper : Bool) (n : Nat) : TwinWindow :=
  if upper then { w with timeU := w.timeU + n } else { w with timeL := w.timeL + n }

/-- Signals of the twin that a side has not consumed. -/
def TwinWindow.unread (w : TwinWindow) (upper : Bool) : Nat := ((w.counts !upper).1 - (w.counts upper).2).toNat

/-- A side may send another signal: at most 255 stay unconsumed. -/
def TwinWindow.room (w : TwinWindow) (upper : Bool) : Bool := decide (w.unread (!upper) < 255)

/-- The group of a side has neither retired nor been killed. -/
def twinAlive (s : State) (w : TwinWindow) (upper : Bool) : Bool := aliveMask s (w.gid upper) != 0

/-- The address before another in sequence (R78). -/
def prevPc (pc : Nat) : Nat := if bits pc 2 2 = 1 then pc - 8 else pc - 4

/-- A waiting side looked at again: a wait whose instruction is still to complete executes again; a wait half recorded after its signal
half consumes a signal, or meets fault 0x43 at its `XSIG` (R260). -/
def xsigWake (s : State) (w : TwinWindow) (upper : Bool) (u : Group) : State :=
  match u.wait with
  | .xsig scope waiting signalled since =>
    let dead := !twinAlive s w (!upper)
    if u.loc != .resident then s
    else if !waiting then
      (if w.room upper || dead then (s.putUnit { u with wait := .none }).putTwin (w.addTime upper (s.now - since)) else s)
    else if !signalled then
      (if w.unread upper != 0 || dead then (s.putUnit { u with wait := .none }).putTwin (w.addTime upper (s.now - since)) else s)
    else if w.unread upper != 0 then (s.putUnit (u.endWait s scope)).putTwin (w.consume upper)
    else if dead then
      s.putUnit { u with wait := .none, pc := prevPc u.pc, bundle := none,
                         homeFault := some { code := 0x43, addr := 0, flag := none, home := none, deferred := false } }
    else s
  | _ => s

/-- Both sides of a twin window looked at again. -/
def xsigSettle (s : State) (launch lower slot : Nat) : State :=
  s.units.foldl (fun t u =>
    if u.twinned && u.launch == launch && pairOf u.core == lower && u.slot == slot then
      match t.twins.find? fun w => w.launch == launch && w.lower == lower && w.slot == slot, t.unit? u.uid with
      | some w, some u => xsigWake t w (upperSide u.core) u
      | _, _ => t
    else t) s

/-- A twinned unit that is resident again: its wait is looked at, and the count of the twin's limit goes on from now when the unit had been
swapped out by a pre-emption (R260). -/
def xsigReturn (s : State) (g : Group) (halted : Bool) : State :=
  let s := if halted then
      { s with units := s.units.map fun u =>
          if u.launch = g.launch ∧ u.core = twinOf g.core ∧ u.slot = g.slot ∧ u.uid ≠ g.uid then
            (match u.wait with | .xsig sc w sg _ => { u with wait := .xsig sc w sg s.now } | _ => u)
          else u }
    else s
  xsigSettle s g.launch (pairOf g.core) g.slot

/-! ## Splits (R32 to R35, R132) -/

/-- A record of a split made in a slot, unless one under the same barrier stands there (R35). -/
def addRecord (sl : Slot) (g : Group) (b : Nat) : Slot :=
  if sl.records.any fun r => r.bar == b then sl
  else
    let r : Rejoin := { bar := b, parent := g.mask, arrived := 0, outerDev := g.anchorDev, outerAnchor := g.anchor, outerBar := g.rejoin,
                        lead := none, uids := [], errs := [], joins := [], joinOver := false, joinRegions := [], lastWindow := none }
    { sl with records := sl.records ++ [r], preds := (List.range 7).map fun k => (sl.preds.getD k 0 &&& ~~~g.mask) ||| (g.preds.getD k 0 &&& g.mask) }

/-- A fragment of a splitting unit: a copy of its context for some strands, under barrier b of the present core (R132). -/
def fragmentOf (s : State) (g : Group) (m : Word) (b uid : Nat) (first : Bool) : Group :=
  { g with
    uid := uid
    mask := m
    anchorDev := s.devNum
    anchor := g.core
    rejoin := b
    postErrs := if first then g.postErrs else []
    deferred := if first then g.deferred else none
    image := if first then g.image else none
    visits := [] }

/-- A unit cut into fragments (R33): masks in the order of their lowest strands; the first keeps the unit's number. Earlier posted
operations stay owed to every fragment. -/
def cutUnit (s : State) (g : Group) (sl : Slot) (b : Nat) (masks : List Word) : State × List Group :=
  let ids := g.uid :: (List.range (masks.length - 1)).map (s.nextId + ·)
  let frags := (masks.zip ids).map fun p => fragmentOf s g p.1 b p.2 (p.2 == g.uid)
  let s := { s.putSlot (addRecord sl g b) with
    nextId := s.nextId + masks.length
    posted := s.posted.map fun p => if p.owners.contains g.uid then { p with owners := p.owners ++ ids.drop 1 } else p }
  match frags with
  | [] => (s, [])
  | f :: rest => (rest.foldl (fun t h => t.addUnit h) (s.putUnit f), frags)

/-! ## Rejoin (R36) -/

/-- The slot of a group at a core that holds a record under b, and the record: the one whose parent mask has some of given strands, else the
one that fragments split under an id in use keep (R35, R36). -/
def recordSlot (s : State) (gid core b : Nat) (m : Word) : Option (Slot × Rejoin) :=
  let found (ok : Rejoin → Bool) : Option (Slot × Rejoin) := s.slots.findSome? fun x =>
    if x.core = core ∧ x.gid = gid ∧ !x.visitor then (x.records.find? fun r => r.bar == b && ok r).map fun r => (x, r) else none
  (found fun r => r.parent &&& m != 0).orElse fun _ => found fun _ => true

/-- A record replaced, or freed. -/
def Slot.putRecord (x : Slot) (b : Nat) (r : Option Rejoin) : Slot :=
  match r with
  | some r => { x with records := x.records.map fun q => if q.bar = b then r else q }
  | none => { x with records := x.records.filter fun q => q.bar != b }

/-- A record that completes: the merged group or fragment goes on in the reserved slot (R36). -/
def completeRecord (s : State) (x : Slot) (r : Rejoin) : State :=
  match r.lead with
  | none => s.putSlot (x.putRecord r.bar none)
  | some l =>
    let g : Group := { l with
      mask := r.parent
      preds := (List.range 7).map fun k => (x.preds.getD k 0 &&& r.parent) ||| (l.preds.getD k 0 &&& ~~~r.parent)
      anchorDev := r.outerDev
      anchor := r.outerAnchor
      rejoin := r.outerBar
      loc := .resident
      core := x.core
      slot := x.slot
      postErrs := r.errs
      lastWindow := r.lastWindow
      joinList := r.joins
      joinOver := r.joinOver
      joinRegions := r.joinRegions
      carried := none
      wait := .none
      rejoining := false
      halting := ((s.launch? l.launch).map fun q => q.preempted).getD false
      halted := false
      age := 0 }
    let s := (s.putSlot (x.putRecord r.bar none)).addUnit g
    { s with posted := s.posted.map fun p =>
        if p.owners.any r.uids.contains then { p with owners := g.uid :: p.owners.filter fun o => !r.uids.contains o } else p }

/-- A slot that its core holds now; an anchored slot whose image is in the checkpoint area keeps its records under a number that no core has,
until it is restored (R54, R330). -/
def Slot.here (x : Slot) : Bool := decide (x.slot < 512)

/-- The record that a fragment arrives at belongs to an anchored image not yet restored (R54). -/
def anchorSaved (s : State) (u : Group) : Bool := (recordSlot s u.gid u.anchor u.rejoin u.mask).any fun p => !p.1.here

/-- A record after a change: completed when every strand of its parent mask has arrived, freed when none is left (R37). -/
def settleRecord (s : State) (x : Slot) (r : Rejoin) : State :=
  if r.parent = 0 then
    let s := s.putSlot (x.putRecord r.bar none)
    vacate s x.core x.slot 0
  else if r.parent = r.arrived ∧ x.here then completeRecord s x r
  else s.putSlot (x.putRecord r.bar (some r))

/-- The matrix image of a unit whose context ends goes to another unit of its group (R256). -/
def passImage (s : State) (u : Group) : State :=
  match u.image, s.units.find? fun h => h.gid == u.gid && h.uid != u.uid with
  | some m, some h => s.putUnit { h with image := some m, msRows := u.msRows, msFlag := u.msFlag }
  | _, _ => s

/-- Pending errors merged by age, so that the order of arrival of fragments plays no part (R36, R188). -/
def mergeErrs (a b : List (Nat × Nat × Nat)) : List (Nat × Nat × Nat) := b.foldl (fun l e => insertKey e.1 e.2 l) a

/-- The later of two windows. -/
def laterWindow (a b : Option Nat) : Option Nat := match a, b with | some x, some y => some (max x y) | none, y => y | x, none => x

/-- A fragment arrives at its record (R36): `regs` holds its live vector registers when it came back by migration. A fragment whose
record is gone is discarded (R53). -/
def arriveRecord (s : State) (u : Group) (regs : Option (List (Nat × List Word))) : State :=
  let image := if s.units.any fun h => h.gid == u.gid && h.uid != u.uid then none else u.image
  let s := (passImage s u).dropUnit u.uid
  match recordSlot s u.gid u.anchor u.rejoin u.mask with
  | none => s
  | some (x, r) =>
    let x := match regs with
      | none => x
      | some vs => { x with
          v := x.v.zipIdx.map fun (p : List Word × Nat) => mergeLanes u.mask (lookupD vs p.2 []) p.1
          vdirty := x.vdirty.map fun _ => true }
    let x := { x with preds := (List.range 7).map fun k => (x.preds.getD k 0 &&& ~~~u.mask) ||| (u.preds.getD k 0 &&& u.mask) }
    let isLead := match r.lead with | none => true | some l => decide (lowest u.mask < lowest l.mask)
    let joins := u.joinList.foldl (fun l o => insertNat o l) r.joins
    let owner := if image.isSome then u else r.lead.getD { u with image := none }
    let r := { r with
      arrived := r.arrived ||| u.mask
      lead := (if isLead then some u else r.lead).map fun l => { l with image := owner.image, msRows := owner.msRows, msFlag := owner.msFlag }
      uids := insertNat u.uid r.uids
      errs := mergeErrs r.errs u.postErrs
      joins := if r.joinOver || u.joinOver then [] else joins
      joinOver := r.joinOver || u.joinOver || decide (64 < joins.length)
      joinRegions := u.joinRegions.foldl (fun l b => insertNat b l) r.joinRegions
      lastWindow := laterWindow r.lastWindow u.lastWindow }
    settleRecord s x r

/-! ## Exits (R37, R136, R137) -/

/-- Strands leave the record under (module, core, barrier) and every outer record; another core or module is told by a message. -/
def leaveRecords : Nat → State → Nat → Nat → Nat → Nat → Nat → Word → State
  | 0, s, _, _, _, _, _, _ => s
  | fuel + 1, s, gid, here, dev, core, b, m =>
    if b = 0 then s
    else if dev ≠ s.devNum then sendPeer s dev 0 (.exitRemove (exportGid s gid) core b m [])
    else if core ≠ here then s.send .request here (dieOf core) (.exitRemove gid core b m [])
    else
      match recordSlot s gid core b m with
      | none => s
      | some (x, r) =>
        leaveRecords fuel (settleRecord s x { r with parent := r.parent &&& ~~~m }) gid here r.outerDev r.outerAnchor r.outerBar m

/-- A group whose every strand has exited retires (R37, R39, R137): its slots are freed, it leaves the team barrier, its licence is
released from the core where its last strand exited. -/
def retireGroup (s : State) (g : Group) : State :=
  let s := { s with slots := s.slots.filter fun x => !(x.gid == g.gid && !x.visitor), pairs := s.pairs.map fun p =>
    { p with waiters := p.waiters.filter fun w => (s.unit? w.1).any fun u => u.gid != g.gid } }
  let s := leaveTeam (releaseLicence s g.gid g.core) g.launch g.team g.grp
  (s.twins.filter fun w => w.gidLower == g.gid || w.gidUpper == g.gid).foldl (fun t w => xsigSettle t w.launch w.lower w.slot) s

/-- A group looked at again after strands have exited (R37, R204). -/
def afterExit (s : State) (g : Group) : State :=
  let s := barCover s g.launch g.team g.grp g.gid
  if aliveMask s g.gid = 0 ∧ (homeOf g.gid).isNone then retireGroup s g else s

/-- Strands E of a unit exit (R37). The home module of a group that stands elsewhere is told by the I/O die, once what the group has posted here
has been performed (R136, R308). -/
def exitStrands (s : State) (g : Group) (e : Word) : State :=
  let left := g.mask &&& ~~~e
  let s := if left = 0 then vacate (s.dropUnit g.uid) g.core g.slot g.uid else s.putUnit { g with mask := left }
  let s := leaveRecords 32 s g.gid g.core g.anchorDev g.anchor g.rejoin e
  let s := match homeOf g.gid with
    | some _ => s.send .request g.core 16 (.exitRemove g.gid 0 0 e ((s.posted.filter fun p => p.gid == g.gid).map (·.id)))
    | none => s
  afterExit s g

end Sys2Proof.Machine
end

