-- ==== Sys2Proof/Machine/Fetch.lean ====
section
/-! DEFINITION. Reading code and jump tables without migration (R80, R135, R282), and which flags are owed to a fragment (R65). -/

namespace Sys2Proof.Machine

/-! ## Where a read is served (R16, R80, R282) -/

/-- The stack whose copy of a read-duplicated page a core reads (R282). -/
def dupStack (core : Nat) : Nat := if isStackCore core then stackOf core else 2 * (core / 128)

/-- Module address that a read by a core of a page of this module uses. -/
def readAt (core : Nat) (p : Page) (a : Nat) : Nat := if p.dup then dramAt (dupStack core) (p.loc a) else p.pa a

/-- A read fault: a code, with the bad entry that a walk met. -/
abbrev ReadFault := Nat × Option WalkErr

/-- n bytes (4 or 8) read over the reply class from a page already translated: a failed home, poisoned data, or the value and the state
in which the free value of a word of another module has been used (log 15). -/
def readOver (s : State) (core : Nat) (p : Page) (a n : Nat) : Except ReadFault (Nat × State) :=
  if p.device ≠ 0 then
    if s.service = 1 then .error (0x42, none)
    else if !peerReach s (dieOf core) p.device then .error (0x18, none)
    else
      let w (k : Nat) := (Config.peerWord (s.freeCtr + k) p.device (p.pa a + 4 * k)).toNat
      .ok (if n = 4 then w 0 else w 0 + 2 ^ 32 * w 1, { s with freeCtr := s.freeCtr + n / 4 })
  else
    let pa := fwdPa s (readAt core p a)
    if !stackUp s (pa / 2 ^ 36) then .error (0x18, none)
    else if s.dramBad pa n then .error (0x19, none)
    else .ok (s.dramRead pa n, s)

/-- The page of a code or table read for a unit (R80, R135). -/
def readPage (s : State) (g : Group) (k : TKind) (a : Nat) : Except ReadFault Page :=
  match translate s g.core (rootOf s g) (supervisor s g) k a with
  | .error e => .error e
  | .ok p => if p.res then .ok p else .error (if k = .exec then 0x12 else 0x10, none)

/-- A code or table read of n bytes for a unit (R80, R135). -/
def readFor (s : State) (g : Group) (k : TKind) (a n : Nat) : Except ReadFault (Nat × State) :=
  match readPage s g k a with
  | .error e => .error e
  | .ok p => readOver (s.notePage g.core (rootOf s g) a) g.core p a n

/-- The two halves of a bundle at a, read under one translation, so that they are never mixed (R80). -/
def readBundle (s : State) (g : Group) (a : Nat) : Except ReadFault (Nat × Nat × State) :=
  match readPage s g .exec a with
  | .error e => .error e
  | .ok p =>
    match readOver (s.notePage g.core (rootOf s g) a) g.core p a 8 with
    | .error e => .error e
    | .ok (lo, t) => (readOver t g.core p (a + 8) 8).map fun r => (lo, r.1, r.2)

/-! ## Bundles entered (R77 to R80, R281) -/

/-- The fault of fetching at a pc that is no slot of the global window (R79, R91). -/
def fetchAddr (pc : Nat) : Option Nat :=
  if bits pc 2 2 = 0 ∨ pc % 4 ≠ 0 then some 0x03 else if 0xFB ≤ pc / 2 ^ 56 then some 0x12 else if pc / 2 ^ 56 ≠ 0 then some 0x15 else none

/-- The bundle of a unit's pc read, unless it has been entered already (R78, R80). A unit that has come to another module inside a
bundle reads it again through that module's tables (R281), in the same entry. -/
def loadBundle (s : State) (g : Group) : Except ReadFault (State × Group) :=
  let a := g.pc / 16 * 16
  let old := g.bundle.filter fun b => b.addr == a
  if old.any fun b => !b.words.isEmpty then .ok (s, g)
  else match fetchAddr g.pc with
  | some code => .error (code, none)
  | none =>
    match readBundle s g a with
    | .error e => .error e
    | .ok (lo, hi, s) =>
      let b : Bundle :=
        { addr := a
          hallmark := lowWord lo
          words := [highWord lo, lowWord hi, highWord hi]
          entry := (old.map (·.entry)).getD (bits g.pc 2 2)
          waited := (old.map (·.waited)).getD false }
      let g := { g with bundle := some b }
      .ok (s.putUnit g, g)

/-! ## Owed completions (R65) -/

/-- The flags of a group with work still outstanding, each with the strands of the instruction that set it. -/
def outstanding (s : State) (gid : Nat) : List (Nat × Word) :=
  (s.floads.filter (·.gid == gid)).map (fun f => (f.flag, f.mask)) ++
    (s.calls.filter (·.gid == gid)).map (fun c => (c.flag, c.mask)) ++
    (s.moves.filter (·.gid == gid)).map (fun m => (m.flag, m.mask)) ++
    (s.arrays.flatMap fun a => (a.ops.filter (·.gid == gid)).map fun o => (flagNo o.flag, o.mask)) ++
    (s.units.flatMap fun g => if g.gid = gid then (g.image.bind (·.stream)).toList.map (fun o => (flagNo o.flag, o.mask)) else []) ++
    (s.net.filterMap fun m => match m.body with | .completion g f mask _ _ => if g = gid then some (f, mask) else none | _ => none)

/-- The set flags whose completions are owed to a unit now (R65). -/
def owed (s : State) (g : Group) : List Nat :=
  let out := outstanding s g.gid
  (List.range 12).filter fun k => (g.flag k).set && out.any fun o => o.1 == k && ((owedUnit s g.gid o.2).any fun h => h.uid == g.uid)

/-- Flags noted as those that an `EXIT` or a `REJOIN` waits for: it raises the pending fault of none but these (R136, R201). -/
def Group.awaits (g : Group) (ks : List Nat) : Group := { g with awaited := ks.foldl (fun l k => insertNat k l) g.awaited }

/-- A context with every flag clear: copies owed to siblings are dropped (R136, R201). -/
def Group.clearFlags (g : Group) : Group :=
  { g with flags := g.flags.map fun f => { f with set := false, pending := none }, acqFlags := [] }

/-! ## The slot at pc (R77, R81, R84, R85) -/

/-- The word at a unit's pc in the bundle that it has entered, with the issue that its hallmark fields give it. -/
def slotIssue (g : Group) : Option (Word × Issue) :=
  match g.bundle with
  | none => none
  | some b =>
    let k := bits g.pc 2 2
    if b.addr ≠ g.pc / 16 * 16 ∨ k = 0 then none
    else
      let w := hallWaitSlot b.hallmark
      some (b.words.getD (k - 1) 0,
        { uid := g.uid
          uni := hallBit b.hallmark k 0
          stay := hallBit b.hallmark k 3
          holdA := hallBit b.hallmark k 2
          holdB := hallBit b.hallmark k 1
          dist := hallDist b.hallmark k
          waitMask := if w ≠ 0 ∧ !b.waited ∧ k = max w b.entry then hallWaitFlags b.hallmark else []
          held := false })

end Sys2Proof.Machine
end

