-- ==== Sys2Proof/Machine/Issue.lean ====
section
/-! DEFINITION. The frame of every instruction: waits before issue (R65, R85, R186), the fault order of R91, the remote subset (R213,
R214), and the shapes shared by register and predicate operations (R144, R157). -/

namespace Sys2Proof.Machine

/-- The instructions a remote-call body may execute, their own conditions apart (R213). -/
def remoteOk : Instr → Bool
  | .nop | .pad _ _ | .bra _ | .brc _ _ _ _ | .call _ _ | .ret _ | .jtab _ _ | .loop _ _ | .winb _ _ | .swinb _ _ | .fence _ _ _
  | .rret _ => true
  | .csrr _ n => n.toNat ≤ 0x001 || (decide (0x010 ≤ n.toNat) && decide (n.toNat ≤ 0x021))
  | .ldb _ _ _ _ | .ldh _ _ _ _ | .ldw _ _ _ _ | .ldd _ _ _ _ | .ldba _ _ _ _ _ | .ldha _ _ _ _ _ | .ldwa _ _ _ _ _
  | .ldda _ _ _ _ _ | .stb _ _ _ _ _ | .sth _ _ _ _ _ | .stw _ _ _ _ _ | .std _ _ _ _ _ | .stbl _ _ _ _ _ _ | .sthl _ _ _ _ _ _
  | .stwl _ _ _ _ _ _ | .stdl _ _ _ _ _ _ | .stn _ _ _ _ _ | .stbm _ _ _ _ _ => true
  | .aadd _ _ _ _ _ _ | .asub _ _ _ _ _ _ | .amins _ _ _ _ _ _ | .amaxs _ _ _ _ _ _ | .aminu _ _ _ _ _ _ | .amaxu _ _ _ _ _ _
  | .aand _ _ _ _ _ _ | .aor _ _ _ _ _ _ | .axor _ _ _ _ _ _ | .axch _ _ _ _ _ _ | .acas _ _ _ _ _ _ | .afadd _ _ _ _ _ _
  | .afmin _ _ _ _ _ _ | .afmax _ _ _ _ _ _ | .aincw _ _ _ _ _ _ | .adecw _ _ _ _ _ _ => true
  | i => i.cls != 0

/-- A flag of a list still set. -/
def anySet (g : Group) (fs : List Nat) : Bool := fs.any fun k => (g.flag k).set

/-- The lowest flag of a list with a fault pending. -/
def pendingOf (g : Group) (fs : List Nat) : Option (Nat × FlagFault) :=
  (List.range 12).findSome? fun k => if fs.contains k then (g.flag k).pending.map fun f => (k, f) else none

/-- What an instruction meets before its own effect: not yet issuing, a fault, or none of these (R85, R91, R188, R213, R214). -/
inductive Gate where
  | hold
  | fault (r : FaultReq)
  | flag (k : Nat) (f : FlagFault)
  | go
  deriving DecidableEq, Repr

/-- The gate of an instruction with its operands. -/
def Ctx.gate (c : Ctx) (i : Instr) (ops : List Opnd) : Gate :=
  if anySet c.g (c.s.cur.waitMask ++ i.asyncFlag.toList) || (i.heldByAcquire && anySet c.g c.g.acqFlags) then .hold
  else match c.g.homeFault with
  | some r => .fault r
  | none =>
  match c.g.deferred with
  | some (code, addr) => .fault { code, addr, flag := none, home := none, deferred := true }
  | none =>
  match (if (c.g.visitor.any fun v => decide (4096 ≤ v.issued)) then some (Ctx.faultReq 0x24 0) else c.checks i ops) with
  | some r => .fault r
  | none =>
  match pendingOf c.g (c.s.cur.waitMask ++ i.raisesFlag.toList ++ (if i.heldByAcquire then c.g.acqFlags else [])) with
  | some (k, f) => .flag k f
  | none => if c.g.visitor.isSome && !remoteOk i then .fault (Ctx.faultReq 0x23 0) else .go

/-- An instruction issued by the unit of `cur`: its gate, then its own effect. -/
def issueOps (i : Instr) (ops : Ctx → List Opnd) (body : Ctx → State) (s : State) : Host.Outcome State Fault Refusal :=
  match ctx? s with
  | none => .fault .noGroup
  | some c =>
    match c.gate i (ops c) with
    | .hold => .next (hold s)
    | .fault r => .next ({ c with g := { c.g with homeFault := none, deferred := none } }.fault i r)
    | .flag k f => .next (c.failFlag i k f)
    | .go => .next (body c)

/-- An instruction whose registers its word alone names. -/
def issue (i : Instr) (body : Ctx → State) (s : State) : Host.Outcome State Fault Refusal :=
  issueOps i (fun c => i.opnds c.uni) body s

/-- A fault of step 4 of R91 that depends on where an address leads: it comes before the checks of the registers other than the address `ops`. -/
def farFault (i : Instr) (ops : Ctx → List Opnd) (code : Ctx → Option Nat) (s : State) : Option State :=
  (ctx? s).bind fun c => (code c).bind fun k =>
    match c.gate i (ops c) with
    | .go | .flag _ _ => some (c.fail i k 0)
    | _ => none

/-- An instruction that meets such a fault, and else issues. -/
def issueFar (i : Instr) (ops : Ctx → List Opnd) (code : Ctx → Option Nat) (run : State → Host.Outcome State Fault Refusal) (s : State) :
    Host.Outcome State Fault Refusal :=
  match farFault i ops code s with
  | some t => .next t
  | none => run s

/-- A bit of a predicate as an instruction reads it: the lowest strand's in uniform form (R144). -/
def Ctx.predBit (c : Ctx) (p i : Nat) : Bool := inMask (c.pred p) (if c.uni then c.low else i)

/-- An operation with one 32-bit register result (R144, R157). -/
def Ctx.regOp (c : Ctx) (i : Instr) (d : Nat) (f : Nat → Word) : State :=
  let vals := perStrand f
  c.retire i (some vals) (c.dst d i.cls vals) (nextPc c.g.pc)

/-- An operation whose result is a predicate (R144, R157). -/
def Ctx.predOp (c : Ctx) (i : Instr) (p : Nat) (f : Nat → Bool) : State :=
  c.retire i none (c.pdst p i.cls c.g.mask (maskOf f)) (nextPc c.g.pc)

/-- An operation of two sources and a register result, `f a b`. -/
def regOp2 (i : Instr) (d a b : BitVec 7) (f : Word → Word → Word) : State → Host.Outcome State Fault Refusal :=
  issue i fun c => c.regOp i d.toNat fun k => f (c.src a.toNat k) (c.src b.toNat k)

/-- An operation of one source and a register result. -/
def regOp1 (i : Instr) (d a : BitVec 7) (f : Word → Word) : State → Host.Outcome State Fault Refusal :=
  issue i fun c => c.regOp i d.toNat fun k => f (c.src a.toNat k)

/-- An operation that also reads its destination, `f d a b` (R146, R157). -/
def regOp3 (i : Instr) (d a b : BitVec 7) (f : Word → Word → Word → Word) : State → Host.Outcome State Fault Refusal :=
  issue i fun c => c.regOp i d.toNat fun k => f (c.src d.toNat k) (c.src a.toNat k) (c.src b.toNat k)

/-- An instruction that only ends its chain (or only takes its issue). -/
def Ctx.pass (c : Ctx) (i : Instr) : State := c.retire i none [] (nextPc c.g.pc)

end Sys2Proof.Machine
end

