-- ==== Sys2Proof/Machine/Flags.lean ====
section
/-! DEFINITION. Conditions, carries and predicate tables: what the instructions write into predicates (R147, R149, R154, R171). -/

namespace Sys2Proof.Machine

/-- A condition of `ISETP` and `ISETPI` (R147). -/
def icond (code : Nat) (a b : Word) : Bool :=
  match code with
  | 0 => a == b
  | 1 => a != b
  | 2 => decide (sgn a < sgn b)
  | 3 => decide (sgn b ≤ sgn a)
  | 4 => decide (a.toNat < b.toNat)
  | 5 => decide (b.toNat ≤ a.toNat)
  | 6 => decide (sgn a ≤ sgn b)
  | _ => decide (sgn b < sgn a)

/-- A condition combined with the predicate's old bit when F[3] is set (R147, R161). -/
def andOld (fv : Nat) (old c : Bool) : Bool := if bit fv 3 then c && old else c

/-- Exact sum or difference of `IADDC` (R149). -/
def addcExact (sub : Bool) (a b : Word) (cin : Bool) : Int :=
  if sub then (a.toNat : Int) - b.toNat - bitNat cin else (a.toNat : Int) + b.toNat + bitNat cin

/-- Carry or borrow out of `IADDC` (R149). -/
def addcOut (sub : Bool) (y : Int) : Bool := if sub then decide (y < 0) else decide (2 ^ 32 ≤ y)

/-- The immediate of `ISETPI` for a condition code (R154). -/
def isetpiImm (code : Nat) (imm : BitVec 8) : Word :=
  if code = 4 ∨ code = 5 then BitVec.ofNat 32 imm.toNat else wordOf (sext imm.toNat 8)

/-- A bit of a `PLOP` truth table (R171). -/
def plopBit (fv : Nat) (a b : Bool) : Bool := bit fv (2 * bitNat a + bitNat b)

end Sys2Proof.Machine
end

