-- ==== Sys2Proof/Machine/Floating.lean ====
section
/-! DEFINITION. Floating-point, packed and conversion instructions, opcodes 0x28 to 0x35 (R157 to R168). -/

namespace Sys2Proof.Machine

/-- `FADD` (R159). -/
def execFadd (d a b : BitVec 7) (f : BitVec 4) : State → Host.Outcome State Fault Refusal :=
  regOp2 (.fadd d a b f) d a b fun x y => BitVec.ofNat 32 (faddCode .fp32 f.toNat x.toNat y.toNat)

/-- `FMUL` (R159). -/
def execFmul (d a b : BitVec 7) (f : BitVec 4) : State → Host.Outcome State Fault Refusal :=
  regOp2 (.fmul d a b f) d a b fun x y => BitVec.ofNat 32 (fmulCode .fp32 f.toNat x.toNat y.toNat)

/-- `FFMA` (R159): D is the addend. -/
def execFfma (d a b : BitVec 7) (f : BitVec 4) : State → Host.Outcome State Fault Refusal :=
  regOp3 (.ffma d a b f) d a b fun z x y => BitVec.ofNat 32 (fmaCode .fp32 f.toNat x.toNat y.toNat z.toNat)

/-- The operations of `FMNX` (R160). -/
def fmnxOf (fv : Nat) (a b : Word) : Word :=
  match fv with
  | 0 => fminmax false a b
  | 1 => fminmax true a b
  | _ =>
    if isNan32 a then nan32
    else if fv = 2 then a ^^^ 0x80000000#32
    else if fv = 3 then a &&& 0x7FFFFFFF#32
    else (a &&& 0x7FFFFFFF#32) ||| (b &&& 0x80000000#32)

/-- `FMNX` (R160). -/
def execFmnx (d a b : BitVec 7) (f : BitVec 4) : State → Host.Outcome State Fault Refusal :=
  regOp2 (.fmnx d a b f) d a b (fmnxOf f.toNat)

/-- `FSETP` (R161). -/
def execFsetp (p : BitVec 3) (a b : BitVec 7) (f : BitVec 4) : State → Host.Outcome State Fault Refusal :=
  issue (.fsetp p a b f) fun c => c.predOp (.fsetp p a b f) p.toNat fun k =>
    andOld f.toNat (c.predBit p.toNat k) (fcond (f.toNat % 8) (c.src a.toNat k) (c.src b.toNat k))

/-- `FSFU` (R162, R163). -/
def execFsfu (d a : BitVec 7) (f : BitVec 4) : State → Host.Outcome State Fault Refusal :=
  regOp1 (.fsfu d a f) d a (fsfuOf f.toNat)

/-- `FCVT` (R164): format X, direction, pivot. -/
def execFcvt (d a : BitVec 7) (g : BitVec 5) (r v : BitVec 1) (f : BitVec 4) : State → Host.Outcome State Fault Refusal :=
  regOp1 (.fcvt d a g r v f) d a (fcvtOf g.toNat (r == 1#1) (v == 1#1) f.toNat)

/-- The source format of `FCLASS` (R165). -/
def fclassFmt (fv : Nat) : Fmt :=
  match fv with
  | 0 => .fp32 | 1 => .fp16 | 2 => .bf16 | 3 => .e4m3 | _ => .e5m2

/-- `FCLASS` (R165). -/
def execFclass (d a : BitVec 7) (f : BitVec 4) : State → Host.Outcome State Fault Refusal :=
  regOp1 (.fclass d a f) d a fun x => BitVec.ofNat 32 (fclassOf (fclassFmt f.toNat) (bits x.toNat 0 (fclassFmt f.toNat).width))

/-- `HADD2` (R166). -/
def execHadd2 (d a b : BitVec 7) (f : BitVec 4) : State → Host.Outcome State Fault Refusal :=
  regOp2 (.hadd2 d a b f) d a b fun x y => packed2 fun j => faddCode .fp16 f.toNat (half x j) (half y j)

/-- `HMUL2` (R166). -/
def execHmul2 (d a b : BitVec 7) (f : BitVec 4) : State → Host.Outcome State Fault Refusal :=
  regOp2 (.hmul2 d a b f) d a b fun x y => packed2 fun j => fmulCode .fp16 f.toNat (half x j) (half y j)

/-- `HFMA2` (R166). -/
def execHfma2 (d a b : BitVec 7) (f : BitVec 4) : State → Host.Outcome State Fault Refusal :=
  regOp3 (.hfma2 d a b f) d a b fun z x y => packed2 fun j => fmaCode .fp16 f.toNat (half x j) (half y j) (half z j)

/-- `BFMA2` (R166). -/
def execBfma2 (d a b : BitVec 7) (f : BitVec 4) : State → Host.Outcome State Fault Refusal :=
  regOp3 (.bfma2 d a b f) d a b fun z x y => packed2 fun j => fmaCode .bf16 f.toNat (half x j) (half y j) (half z j)

/-- `DOT4` (R167). -/
def execDot4 (d a b : BitVec 7) (f : BitVec 4) : State → Host.Outcome State Fault Refusal :=
  regOp3 (.dot4 d a b f) d a b fun z x y => dot4Of f.toNat x y z

/-- `PCVT` (R168): each strand takes its control from its own B. -/
def execPcvt (d a b : BitVec 7) (f : BitVec 4) : State → Host.Outcome State Fault Refusal :=
  regOp3 (.pcvt d a b f) d a b fun z x y => pcvtOf f.toNat y x z

end Sys2Proof.Machine
end

