-- ==== Sys2Proof/Machine/Lane.lean ====
section
/-! DEFINITION. Moves, indexed registers, predicates and cross-lane instructions, opcodes 0x36 to 0x3D (R169 to R177). -/

namespace Sys2Proof.Machine

/-- `MOV` (R169): plain, scalar to vector, vector to scalar. -/
def execMov (d a : BitVec 7) (f : BitVec 4) : State → Host.Outcome State Fault Refusal :=
  issue (.mov d a f) fun c =>
    let i : Instr := .mov d a f
    if f.toNat = 0 then c.regOp i d.toNat fun k => c.src a.toNat k
    else if f.toNat = 1 then
      let vals := perStrand fun _ => c.sreg a.toNat
      c.retire i (some vals) (c.vdst d.toNat 1 c.g.mask vals) (nextPc c.g.pc)
    else
      let w := c.vsrc a.toNat c.low
      c.retire i (some (perStrand fun _ => w)) (if d.toNat = 112 then [] else c.sdst d.toNat 1 w) (nextPc c.g.pc)

/-- The index that an `IDX` strand presents, when it lies in the window and the allocation (R170). -/
def Ctx.idxOk (c : Ctx) (k : Nat) : Bool :=
  decide (k < 112) && (if c.uni then decide (c.g.swb + k < c.sl.salloc) else decide (c.g.vwb + k < c.sl.valloc))

/-- `IDX` (R170): the lowest failing strand decides the fault, and nothing is then written. -/
def execIdx (d a b : BitVec 7) (f : BitVec 4) : State → Host.Outcome State Fault Refusal :=
  issue (.idx d a b f) fun c =>
    let i : Instr := .idx d a b f
    let ix (k : Nat) := (c.src a.toNat k).toNat
    if f.toNat = 2 then c.regOp i d.toNat fun k => BitVec.ofNat 32 (if c.uni then c.low else k)
    else match c.active.find? fun k => !c.idxOk (ix k) with
    | some k => c.fail i 0x06 (ix k)
    | none =>
      if f.toNat = 0 then c.regOp i d.toNat fun k => if c.uni then c.sreg (ix k) else c.v (ix k) k
      else
        let ws := if c.uni then c.sdst (ix c.low) 3 (c.src b.toNat c.low)
          else c.active.flatMap fun k => c.vdst (ix k) 3 (maskOfList [k]) (perStrand fun _ => c.src b.toNat k)
        c.retire i none ws (nextPc c.g.pc)

/-- `PLOP` (R171). -/
def execPlop (d a b : BitVec 3) (f : BitVec 4) : State → Host.Outcome State Fault Refusal :=
  issue (.plop d a b f) fun c => c.predOp (.plop d a b f) d.toNat fun k =>
    plopBit f.toNat (c.predBit a.toNat k) (c.predBit b.toNat k)

/-- `PSET` (R172). -/
def execPset (p : BitVec 3) (f : BitVec 4) : State → Host.Outcome State Fault Refusal :=
  issue (.pset p f) fun c => c.predOp (.pset p f) p.toNat fun k => f.toNat == 1 || (f.toNat == 2 && k == c.low)

/-- `PMOV` (R173). -/
def execPmov (d a : BitVec 7) (f : BitVec 4) : State → Host.Outcome State Fault Refusal :=
  issue (.pmov d a f) fun c =>
    let i : Instr := .pmov d a f
    match f.toNat with
    | 0 => c.regOp i d.toNat fun _ => c.pred a.toNat
    | 1 => c.predOp i d.toNat fun k => c.src a.toNat k != 0
    | _ => c.predOp i d.toNat fun k => inMask (c.src a.toNat c.low) k

/-- `VOTE` (R175): the participating strands are the strand mask (R174). -/
def execVote (d a : BitVec 7) (f : BitVec 4) : State → Host.Outcome State Fault Refusal :=
  issue (.vote d a f) fun c =>
    let i : Instr := .vote d a f
    let m := c.g.mask
    match f.toNat with
    | 0 => c.predOp i d.toNat fun _ => c.pred a.toNat &&& m != 0
    | 1 => c.predOp i d.toNat fun _ => m &&& ~~~(c.pred a.toNat) == 0
    | 2 => c.predOp i d.toNat fun _ => (strands m).all fun k => c.src a.toNat k == c.src a.toNat c.low
    | 3 => c.regOp i d.toNat fun _ => c.pred a.toNat &&& m
    | _ => c.regOp i d.toNat fun _ => BitVec.ofNat 32 (population (c.pred a.toNat &&& m))

/-- The strand that strand i of `SHFL` reads, if it lies in 0–31 (R176). -/
def shflFrom (fv i n : Nat) : Option Nat :=
  match fv with
  | 0 => some (n % 32)
  | 1 => if n ≤ i then some (i - n) else none
  | 2 => if i + n < 32 then some (i + n) else none
  | _ => some (i ^^^ (n % 32))

/-- `SHFL` (R176). -/
def execShfl (d a b : BitVec 7) (f : BitVec 4) : State → Host.Outcome State Fault Refusal :=
  issue (.shfl d a b f) fun c => c.regOp (.shfl d a b f) d.toNat fun k =>
    match shflFrom f.toNat k (c.src b.toNat k).toNat with
    | some j => if inMask c.g.mask j then c.src a.toNat j else c.src a.toNat k
    | none => c.src a.toNat k

/-- Two values combined by a reduction (R177). -/
def reduxStep (fv : Nat) (x y : Word) : Word :=
  match fv with
  | 0 => x + y
  | 1 => imnx2 true true x y
  | 2 => imnx2 true false x y
  | 3 => imnx2 false true x y
  | 4 => imnx2 false false x y
  | 5 => x &&& y
  | 6 => x ||| y
  | 7 => x ^^^ y
  | 8 => round32 0 (FVal.add false (f32 x) (f32 y))
  | 9 => fminmax false x y
  | 10 => fminmax true x y
  | _ => if isNan32 x || isNan32 y then nan32 else fminmax true x y
where
  imnx2 (sg mn : Bool) (x y : Word) : Word :=
    let lt := if sg then decide (sgn x < sgn y) else decide (x.toNat < y.toNat)
    if lt == mn then x else y

/-- A reduction over values in ascending strand order (R177). `.fadd`, `.fmin` and `.fmax` of one value leave it as it is, but a NaN result is
the canonical one (R113; DEDUCED, log 43). -/
def reduxOf (fv : Nat) (vals : List Word) : Word :=
  let vals := if fv = 11 then vals.map fun x => if isNan32 x then nan32 else x &&& 0x7FFFFFFF#32 else vals
  match vals with
  | [] => 0
  | x :: t =>
    let r := t.foldl (reduxStep fv) x
    if decide (8 ≤ fv) && decide (fv ≤ 10) && isNan32 r then nan32 else r

/-- `REDUX` (R177): A names a vector or twin register in both forms. -/
def execRedux (d a : BitVec 7) (f : BitVec 4) : State → Host.Outcome State Fault Refusal :=
  issue (.redux d a f) fun c =>
    let i : Instr := .redux d a f
    let m := strands c.g.mask
    if f.toNat = 12 then c.regOp i d.toNat fun k => reduxOf 0 ((m.filter (· ≤ k)).map (c.vsrc a.toNat))
    else
      let r := reduxOf f.toNat (m.map (c.vsrc a.toNat))
      c.regOp i d.toNat fun _ => r

end Sys2Proof.Machine
end

