-- ==== Sys2Proof/Machine/Control.lean ====
section
/-! DEFINITION. Control flow, waiting, windows and the live set, opcodes 0x01 to 0x0F (R127 to R143). -/

namespace Sys2Proof.Machine

/-- The target of a B-format branch (R79). -/
def branchTarget (pc : Nat) (o : BitVec 16) : Nat := wrap 64 (pc + 4 * sext o.toNat 16)

/-- A transfer of every strand to a checked target, with register writes (R79). -/
def Ctx.jump (c : Ctx) (i : Instr) (t : Nat) (ws : List PendWrite := []) : State :=
  match checkTarget c.s c.g t with
  | some e => c.failTarget i t e
  | none => c.retire i none ws t true

/-- `NOP` (R129). -/
def execNop : State → Host.Outcome State Fault Refusal := issue .nop fun c => c.pass .nop

/-- `PAD` (R129): no effect when executed. -/
def execPad (r : BitVec 1) (l : BitVec 24) : State → Host.Outcome State Fault Refusal := issue (.pad r l) fun c => c.pass (.pad r l)

/-- `BRA` (R130). -/
def execBra (o : BitVec 16) : State → Host.Outcome State Fault Refusal :=
  issue (.bra o) fun c => c.jump (.bra o) (branchTarget c.g.pc o)

/-- The taken strands of a `BRC` (R131). -/
def Ctx.taken (c : Ctx) (p : BitVec 3) (s : BitVec 1) : Word :=
  let m := c.g.mask
  let w := if s = 0#1 then c.pred p.toNat else ~~~(c.pred p.toNat)
  if c.uni then (if inMask w c.low then m else 0) else m &&& w

/-- A branch split (R33, R132): the taken fragment goes to the target, the other one on; both in the slot of the split. -/
def Ctx.splitBranch (c : Ctx) (i : Instr) (t : Word) (b target : Nat) : State :=
  let s := c.retire i none [] (nextPc c.g.pc)
  match s.unit? c.g.uid, s.slot? c.g.core c.g.slot with
  | some g, some sl =>
    let n := g.mask &&& ~~~t
    let r := cutUnit s g sl b (if lowest t < lowest n then [t, n] else [n, t])
    r.2.foldl (fun x f => x.modUnit f.uid fun u => if u.mask = t then { u with pc := target, bundle := none } else u) r.1
  | _, _ => s

/-- `BRC` (R131). -/
def execBrc (p : BitVec 3) (s : BitVec 1) (b : BitVec 5) (o : BitVec 16) : State → Host.Outcome State Fault Refusal :=
  issue (.brc p s b o) fun c =>
    let i : Instr := .brc p s b o
    let t := c.taken p s
    let target := branchTarget c.g.pc o
    if t = c.g.mask then c.jump i target
    else if t = 0 then c.pass i
    else if b = 0#5 then c.fail i 0x01 t.toNat
    else if c.g.visitor.isSome then c.fail i 0x23 0
    else match checkTarget c.s c.g target with
      | some e => c.failTarget i target e
      | none => c.splitBranch i t b.toNat target

/-- `CALL` (R134): a target fault leaves the pair unwritten. -/
def execCall (l : BitVec 3) (o : BitVec 16) : State → Host.Outcome State Fault Refusal :=
  issue (.call l o) fun c =>
    let ret := nextPc c.g.pc
    c.jump (.call l o) (branchTarget c.g.pc o) (c.sdst (2 * l.toNat) 0 (lowWord ret) ++ c.sdst (2 * l.toNat + 1) 0 (highWord ret))

/-- `RET` (R134). -/
def execRet (a : BitVec 7) : State → Host.Outcome State Fault Refusal :=
  issue (.ret a) fun c => c.jump (.ret a) (c.spair a.toNat)

/-- `LOOP` (R133): the decrement is written even when the target check faults. -/
def execLoop (k : BitVec 4) (o : BitVec 16) : State → Host.Outcome State Fault Refusal :=
  issue (.loop k o) fun c =>
    let i : Instr := .loop k o
    let n := c.sreg k.toNat - 1
    let ws := c.sdst k.toNat 0 n
    let t := branchTarget c.g.pc o
    if n = 0 then c.retire i none ws (nextPc c.g.pc)
    else match checkTarget c.s c.g t with
      | some e => { c with g := { c.g with pend := c.g.pend ++ ws } }.failTarget i t e
      | none => c.retire i none ws t true

/-- A fault of a table or landing read. -/
def Ctx.failRead (c : Ctx) (i : Instr) (a : Nat) (e : ReadFault) : State := c.failTarget i a e

/-- `JTAB` (R135): table header, entry and landing word are read without migration. -/
def execJtab (a b : BitVec 7) : State → Host.Outcome State Fault Refusal :=
  issue (.jtab a b) fun c =>
    let i : Instr := .jtab a b
    let x := (c.sreg a.toNat).toNat
    let t := c.spair b.toNat
    if t / 2 ^ 56 ≠ 0 then (if 0xFB ≤ t / 2 ^ 56 then c.fail i 0x10 t else c.fail i 0x15 t)
    else if t % 8 ≠ 0 then c.fail i 0x16 t
    else match readFor c.s c.g .read t 8 with
    | .error e => c.failRead i t e
    | .ok (h, s) =>
      let c := { c with s }
      let count := bits h 0 13
      if bits h 13 19 ≠ 0 ∨ bits h 56 8 ≠ 0 ∨ count = 0 ∨ 4096 < count ∨ count ≤ x then c.fail i 0x05 t
      else
        let ea := t + 8 + 4 * x
        match readFor c.s c.g .read ea 4 with
        | .error e => c.failRead i ea e
        | .ok (off, s) =>
          let c := { c with s }
          let target := wrap 64 (t + sext off 32)
          match checkTarget c.s c.g target with
          | some e => c.failTarget i target e
          | none =>
            match readFor c.s c.g .read target 4 with
            | .error e => c.failRead i target e
            | .ok (w, s) =>
              let c := { c with s }
              if bits w 25 7 ≠ 0x07 ∨ bits w 0 24 ≠ bits h 32 24 then c.fail i 0x04 target
              else c.retire i none [] target true

/-- `EXIT` (R136): a whole exit waits for the flags owed to the fragment and raises the fault that one of them has left pending. -/
def execExit (s : BitVec 1) (p : BitVec 3) : State → Host.Outcome State Fault Refusal :=
  issue (.exit s p) fun c =>
    let i : Instr := .exit s p
    let e := c.g.mask &&& (if s = 0#1 then c.pred p.toNat else ~~~(c.pred p.toNat))
    let gone (x : State) : State := match x.unit? c.g.uid with | some g => exitStrands x g e | none => x
    if e = 0 then c.pass i
    else if e = c.g.mask then
      if !(owed c.s c.g).isEmpty then hold (c.s.modUnit c.g.uid fun g => g.awaits (owed c.s c.g))
      else match pendingOf c.g c.g.awaited with
        | some (k, f) => c.failFlag i k f
        | none => gone (c.pass i)
    else gone (c.pass i)

/-- `TRAP` (R138). -/
def execTrap (n : BitVec 11) : State → Host.Outcome State Fault Refusal :=
  issue (.trap n) fun c =>
    let i : Instr := .trap n
    let vec := (launchOf c.s c.g).trapVec
    if c.g.handler ∨ vec = 0 then c.fail i 0x70 n.toNat
    else match checkTarget c.s c.g vec with
      | some e => c.failTarget i vec e
      | none =>
        let s := c.retire i none [] (nextPc c.g.pc)
        s.modUnit c.g.uid fun g => trapEntry g vec (nextPc c.g.pc) 0 0x70 0 n.toNat

/-- `PAUSE` (R139). -/
def execPause (n : BitVec 11) : State → Host.Outcome State Fault Refusal :=
  issue (.pause n) fun c =>
    let s := c.pass (.pause n)
    if n = 0#11 then s else s.modUnit c.g.uid fun g => { g with pauseEnd := c.s.now + n.toNat }

/-- `SLEEP` (R140). -/
def execSleep (a : BitVec 7) : State → Host.Outcome State Fault Refusal :=
  issue (.sleep a) fun c =>
    let s := c.pass (.sleep a)
    let t := c.spair a.toNat
    if t ≤ c.s.now then s else s.modUnit c.g.uid fun g => { g with wait := .sleep t }

/-- A new window base, or the fault of a refused one (R141). -/
def newBase (m : BitVec 1) (k : BitVec 11) (old alloc : Nat) : Except Nat Nat :=
  let b : Int := (if m = 0#1 then 0 else (old : Int)) + 8 * sext k.toNat 11
  if b < 0 ∨ (alloc : Int) - 8 < b then .error (wrap 64 b) else .ok b.toNat

/-- `WINB` (R141). -/
def execWinb (m : BitVec 1) (k : BitVec 11) : State → Host.Outcome State Fault Refusal :=
  issue (.winb m k) fun c =>
    match newBase m k c.g.vwb c.sl.valloc with
    | .error b => c.fail (.winb m k) 0x06 b
    | .ok b => (c.pass (.winb m k)).modUnit c.g.uid fun g => { g with vwb := b }

/-- `SWINB` (R141). -/
def execSwinb (m : BitVec 1) (k : BitVec 11) : State → Host.Outcome State Fault Refusal :=
  issue (.swinb m k) fun c =>
    match newBase m k c.g.swb c.sl.salloc with
    | .error b => c.fail (.swinb m k) 0x06 b
    | .ok b => (c.pass (.swinb m k)).modUnit c.g.uid fun g => { g with swb := b }

/-- `LIVE` (R143): recorded by allocation index. -/
def execLive (v : BitVec 7) (n : BitVec 6) (k : BitVec 6) (b : BitVec 5) : State → Host.Outcome State Fault Refusal :=
  issue (.live v n k b) fun c =>
    let i : Instr := .live v n k b
    if 112 < v.toNat + n.toNat then c.fail i 0x01 0
    else if 0 < n.toNat ∧ c.sl.valloc < c.g.vwb + v.toNat + n.toNat then c.fail i 0x06 0
    else if 0 < k.toNat ∧ c.sl.salloc < c.g.swb + k.toNat then c.fail i 0x06 0
    else (c.pass i).modUnit c.g.uid fun g =>
      { g with live := { vbase := g.vwb + v.toNat, vcount := n.toNat, sbase := g.swb, scount := k.toNat, bar := b.toNat, declared := true } }

end Sys2Proof.Machine
end

