-- ==== Sys2Proof/Machine/Replica.lean ====
section
/-! DEFINITION. Lattice types, the sixteen replicas and the flush of a region (R223, R230 to R233, R285 to R290). -/

namespace Sys2Proof.Machine

/-! ## Types (R223) -/

/-- Bytes of a cell. -/
def latWidth (t : Nat) : Nat := if t = 7 ∨ t = 8 ∨ t = 9 ∨ t = 11 then 8 else 4

/-- Bottom of a type. -/
def latBottom (t : Nat) : Nat :=
  match t with
  | 2 => 0xFFFFFFFF | 3 => 0x80000000 | 4 => 0x7FFFFFFF | 6 => 0xFFFFFFFF | 8 => 0xFFFFFFFFFFFFFFFF | 10 => 0xFF800000 | _ => 0

/-- A NaN stored as 0x7FC0_0000 in MAXF32; other values as they are. -/
def latNorm (t x : Nat) : Nat :=
  if t = 10 ∧ isNan32 (BitVec.ofNat 32 x) then 0x7FC00000 else x % 2 ^ (8 * latWidth t)

/-- Rank of an FP32 code in −∞ < … < −0 < +0 < … < +∞ < NaN. -/
def latRankF (x : Nat) : Nat :=
  if isNan32 (BitVec.ofNat 32 x) then 2 ^ 33 else if bit x 31 then 2 ^ 32 - 1 - x else x + 2 ^ 31

/-- `Join(t, a, b)`. -/
def latJoin (t a b : Nat) : Nat :=
  match t with
  | 1 => max a b
  | 2 => min a b
  | 3 => if sext a 32 ≤ sext b 32 then b else a
  | 4 => if sext a 32 ≤ sext b 32 then a else b
  | 5 => a ||| b
  | 6 => a &&& b
  | 7 => max a b
  | 8 => min a b
  | 9 => a ||| b
  | 10 => let a := latNorm 10 a; let b := latNorm 10 b; if latRankF a ≤ latRankF b then b else a
  | _ => max (a % 2 ^ 32) (b % 2 ^ 32) + 2 ^ 32 * max (a / 2 ^ 32) (b / 2 ^ 32)

/-- `Leq(t, a, b)`: the join of a and b is b. -/
def latLeq (t a b : Nat) : Bool := latJoin t a b == latNorm t b

/-! ## Regions, schedules and cells (R285 to R290) -/

/-- The live region that holds an offset of the lattice window. -/
def latRegionAt (s : State) (o : Nat) : Option LatRegion := s.latRegions.find? fun r => decide (r.base ≤ o) && decide (o < r.base + r.size)

/-- The replicas in service, ascending. -/
def replicasUp (s : State) : List Nat := (List.range 16).filter fun d => s.replicas.getD d false

/-- Every replica is in service. -/
def allReplicas (s : State) : Bool := (replicasUp s).length == 16

/-- Rounds of a sweep (R231, R289, R290). -/
def sweepRounds (s : State) (r : LatRegion) : Nat :=
  if allReplicas s then (if r.butterfly then 4 else 8) else (replicasUp s).length / 2

/-- The ring neighbours of a replica among those in service. -/
def ringPartners (s : State) (d : Nat) : List Nat :=
  let l := replicasUp s
  let n := l.length
  let i := l.findIdx (· == d)
  if n < 2 then [] else [l.getD ((i + 1) % n) 0, l.getD ((i + n - 1) % n) 0].eraseDups

/-- The partners of a replica over the whole schedule. -/
def latPartners (s : State) (r : LatRegion) (d : Nat) : List Nat :=
  if r.butterfly && allReplicas s then [d ^^^ 1, d ^^^ 2, d ^^^ 4, d ^^^ 8] else ringPartners s d

/-- The partners of a replica in round k (R287, R290). -/
def roundPartners (s : State) (r : LatRegion) (k d : Nat) : List Nat :=
  if r.butterfly && allReplicas s then [d ^^^ 2 ^ (k % 4)] else ringPartners s d

/-- Key of a cell of a replica. -/
def latKey (die o : Nat) : Nat := die * 2 ^ 24 + o

/-- Value of a cell of a replica. -/
def latGet (s : State) (t die o : Nat) : Nat := ((s.lat.find? fun c => c.key == latKey die o).map (·.val)).getD (latBottom t)

/-- Dirty bits set at a time for some partners; one that stands already keeps its own time. -/
def setDirty (bits : List (Nat × Nat)) (ps : List Nat) (time : Nat) : List (Nat × Nat) :=
  bits ++ (ps.filter fun p => !bits.any fun b => b.1 == p).map fun p => (p, time)

/-- A cell of a replica joined with a value; a raised cell becomes dirty for every partner but the one that delivered it (R233, R287). `time`
stands for the moment: now, or 0 for a round's delivery, which precedes the start of every later round. -/
def latRaise (s : State) (r : LatRegion) (die o v : Nat) (source : Option Nat) (time : Nat) : State :=
  let old := latGet s r.typ die o
  let new := latJoin r.typ old v
  if new = old then s
  else
    let bits := ((s.lat.find? fun c => c.key == latKey die o).map (·.dirty)).getD []
    let cell : LatCell :=
      { key := latKey die o, val := new, dirty := setDirty bits ((latPartners s r die).filter fun d => some d != source) time, changed := s.now }
    { s with lat := if s.lat.any (fun c => c.key == cell.key) then s.lat.map (fun c => if c.key = cell.key then cell else c) else s.lat ++ [cell] }

/-- Cells of a region that stand above the bottom at a replica. -/
def latCellsOf (s : State) (r : LatRegion) (die : Nat) : List LatCell :=
  s.lat.filter fun c => decide (latKey die r.base ≤ c.key) && decide (c.key < latKey die (r.base + r.size))

/-- The schedule has changed: every cell above the bottom is dirty for every present partner, and no round of the old schedule counts in a
sweep of the new one, whose rounds start from here (R289, R290; DESIGN CHOICE, log 22). What earlier sweeps have carried stays carried. -/
def latReschedule (s : State) : State :=
  { s with
    lat := s.lat.map fun c =>
      match latRegionAt s (c.key % 2 ^ 24) with
      | some r => { c with dirty := (latPartners s r (c.key / 2 ^ 24)).map fun p => (p, 0) }
      | none => c
    latRegions := s.latRegions.map fun r => { r with done := [], old := r.started.isSome } }

/-- A round of a region that began at a time is complete: it may complete a sweep of the present schedule (R231, R289). -/
def LatRegion.endRound (r : LatRegion) (s : State) (start : Nat) : LatRegion :=
  let done := if r.old then r.done else (start :: r.done).take 16
  { r with
    started := none
    old := false
    done
    sweep := (done[sweepRounds s r - 1]?).orElse fun _ => r.sweep
    round := r.round + 1
    nextAt := max (r.t0 + (r.round + 1) * (500 * r.period)) s.now }

/-! ## Flushes (R230, R232) -/

/-- What an `LFLUSH` sends of a region at a replica. -/
def flushCells (s : State) (r : LatRegion) (die : Nat) : List (Nat × Nat) :=
  ((latCellsOf s r die).filter fun c => match r.sweep with | some t => decide (t ≤ c.changed) | none => true).map
    fun c => (c.key % 2 ^ 24, c.val)

/-- A flush of a region begun at a replica for a unit: its number, and the state. -/
def startFlush (s : State) (uid die : Nat) (r : LatRegion) : Nat × State :=
  let id := s.nextId
  let s := { s with nextId := s.nextId + 1 }
  let others := (replicasUp s).filter (· != die)
  let cells := flushCells s r die
  let s := others.foldl (fun t d => t.send .exchange (1024 + die) d (.flush id r.base d die cells)) s
  (id, { s with flushes := s.flushes ++ [{ id, uid, base := r.base, left := others.length }] })

/-- The join list of a unit after its cells of a region have been flushed (R232). -/
def Group.dropRegion (g : Group) (r : LatRegion) : Group :=
  let rs := g.joinRegions.filter (· != r.base)
  { g with joinRegions := rs, joinList := g.joinList.filter fun o => !(decide (r.base ≤ o) && decide (o < r.base + r.size)),
           joinOver := g.joinOver && !rs.isEmpty }

/-- Flushes that are complete leave the list: the unit that waits for one goes on, and its join list loses the region. -/
def settleFlush (s : State) (id : Nat) : State :=
  match s.flushes.find? fun f => f.id == id && f.left == 0 with
  | none => s
  | some f =>
    let s := { s with flushes := s.flushes.filter fun x => x.id != id }
    s.modUnit f.uid fun g =>
      let g := match s.latRegions.find? fun r => r.base == f.base with | some r => g.dropRegion r | none => g
      if g.wait = .flush id then { g with wait := .none } else g

end Sys2Proof.Machine
end

