-- ==== Sys2Proof/Machine/Depart.lean ====
section
/-! DEFINITION. The life of a migration: performing accesses (R47, R192, R194, R270, R273), leaving a core (R46, R196, R232), queues and
the crucible (R48), admission (R43, R48, R199, R312). -/

namespace Sys2Proof.Machine

/-! ## Performing accesses (R47, R190 to R194) -/

/-- The new value of an atomic by its opcode 0x50 to 0x5F (R194); none when `ACAS` does not match. -/
def atomicNew (op : Nat) (old b c : Word) : Option Word :=
  match op with
  | 0 => some (old + b)
  | 1 => some (old - b)
  | 2 => some (if sgn old ≤ sgn b then old else b)
  | 3 => some (if sgn old ≤ sgn b then b else old)
  | 4 => some (if old.toNat ≤ b.toNat then old else b)
  | 5 => some (if old.toNat ≤ b.toNat then b else old)
  | 6 => some (old &&& b)
  | 7 => some (old ||| b)
  | 8 => some (old ^^^ b)
  | 9 => some b
  | 10 => if old = c then some b else none
  | 11 => some (round32 0 (FVal.add false (f32 old) (f32 b)))
  | 12 => some (fminmax false old b)
  | 13 => some (fminmax true old b)
  | 14 => some (if b.toNat ≤ old.toNat then 0 else old + 1)
  | _ => some (if old = 0 ∨ b.toNat < old.toNat then b else old - 1)

/-- The bits that a set of nibble enables selects (R190). -/
def nibbleMask (e : Nat) : Nat := natOfBits ((List.range 32).map fun k => bit e (k / 4))

/-- Word with selected bits taken from the data (R190, R191). -/
def mixBits (old d m : Nat) : Nat := ((old &&& (2 ^ 32 - 1 - m)) ||| (d &&& m)) % 2 ^ 32

/-- What an access writes over the old value, if it writes. -/
def accessNew (k : AKind) (x : StrandAcc) (old : Nat) : Option Nat :=
  match k with
  | .load => none
  | .store => some x.data
  | .stn => if x.aux % 256 = 0 then none else some (mixBits old x.data (nibbleMask x.aux))
  | .stbm => some (mixBits old x.data x.aux)
  | .atomic op => (atomicNew op (BitVec.ofNat 32 old) (BitVec.ofNat 32 x.data) (BitVec.ofNat 32 x.aux)).map (·.toNat)

/-- The DRAM granules (true) or scratchpad bank words (false) that a store writes whole, all its strands taken together (R270, R273). -/
def Access.whole (s : State) (a : Access) (dram : Bool) : List Nat :=
  if a.kind != .store then []
  else if dram then wholeGranules 32 a.n (a.strands.filterMap fun x => match x.loc with | .dram _ pa => some (fwdPa s pa) | .spad _ => none)
  else wholeGranules 16 a.n (a.strands.filterMap fun x => match x.loc with | .spad key => some key | .dram _ _ => none)

/-- A strand's access meets poisoned data that its instruction does not write whole; a masked store without enables touches nothing. -/
def strandBad (s : State) (a : Access) (x : StrandAcc) : Bool :=
  let bad (size : Nat) (p whole : List Nat) (at_ : Nat) : Bool := (granules size at_ a.n).any fun g => p.contains g && !whole.contains g
  !(a.kind == .stn && x.aux % 256 == 0) &&
    (match x.loc with
      | .dram _ pa => bad 32 s.dramPoison (a.whole s true) (fwdPa s pa)
      | .spad key => bad 16 s.spadPoison (a.whole s false) key)

/-- The first strand of an access that meets poisoned data (R270, R273). -/
def poisonedStrand (s : State) (a : Access) : Option StrandAcc :=
  if s.dramPoison.isEmpty && s.spadPoison.isEmpty then none else a.strands.find? (strandBad s a)

/-- Granules and bank words written whole lose their poison. -/
def clearPoison (s : State) (a : Access) : State :=
  if s.dramPoison.isEmpty && s.spadPoison.isEmpty then s
  else { s with
    dramPoison := s.dramPoison.filter fun g => !(a.whole s true).contains g
    spadPoison := s.spadPoison.filter fun g => !(a.whole s false).contains g }

/-- The first strand of an atomic whose frame its home takes no atomics for: an invalidation has cleared AT since translation (R183,
R280). -/
def atomicWithdrawn (s : State) (a : Access) : Option StrandAcc :=
  match a.kind with
  | .atomic _ => a.strands.find? fun x => match x.loc with
      | .dram _ pa => s.noAtomic.any fun f => decide (f.2.1 ≤ pa) && decide (pa < f.2.1 + f.2.2)
      | .spad _ => false
  | _ => none

/-- An access of an operation and a format that this module implements (R345). -/
def Access.known (a : Access) : Bool :=
  match a.kind with
  | .load | .store => a.n == 1 || a.n == 2 || a.n == 4 || a.n == 8
  | .atomic op => decide (op < 16) && a.n == 4
  | .stn | .stbm => a.n == 4

/-- Bytes at a place. -/
def locRead (s : State) (l : Loc) (n : Nat) : Nat :=
  match l with | .dram _ pa => s.dramRead (fwdPa s pa) n | .spad key => s.spadRead key n

/-- Bytes written at a place. -/
def locWrite (s : State) (l : Loc) (bs : List Byte) : State :=
  match l with | .dram _ pa => s.dramWrite (fwdPa s pa) bs | .spad key => s.spadWrite key bs

/-- One strand's access performed: the old value and the state (R192, R193). -/
def performOne (s : State) (k : AKind) (n : Nat) (x : StrandAcc) : Nat × State :=
  let old := locRead s x.loc n
  match accessNew k x old with
  | some v => (old, locWrite s x.loc (bytesLE n v))
  | none => (old, s)

/-- Strands performed in ascending order: (strand, value read) and the state. -/
def performStrands (s : State) (k : AKind) (n : Nat) (xs : List StrandAcc) : List (Nat × Nat) × State :=
  xs.foldl (fun r x => let p := performOne r.2 k n x; (r.1 ++ [(x.strand, p.1)], p.2)) ([], s)

/-- An access performed whole at its place: an operation that this module does not implement (R345), an atomic permission withdrawn (R183) or
poisoned data at a strand makes it an error, and nothing is then performed (R188, R293). -/
def performAll (s : State) (a : Access) : Except (Nat × Nat) (List (Nat × Nat) × State) :=
  if !a.known then .error (0x1B, (a.strands.head?.map (·.va)).getD 0)
  else match atomicWithdrawn s a with
  | some x => .error (0x13, x.va)
  | none =>
    match poisonedStrand s a with
    | some x => .error (0x19, x.va)
    | none => .ok ((performStrands s a.kind a.n a.strands).1, clearPoison (performStrands s a.kind a.n a.strands).2 a)

/-- The region of a group's units. -/
def regionOf (s : State) (gid : Nat) : Nat := ((s.units.find? fun g => g.gid == gid).map (·.region)).getD 0

/-- An access of a region performed: an acquire at system scope meets the region's overrun mark first (R311). -/
def performFor (s : State) (region : Nat) (a : Access) : Except (Nat × Nat) (List (Nat × Nat) × State) :=
  if a.acq == 4 && s.overruns.any fun m => m.1 == region then .error (0x1C, (a.strands.head?.map (·.va)).getD 0) else performAll s a

/-! ## Leaving a core (R46, R196, R232) -/

/-- Posted operations that must be acknowledged before a unit leaves for a die of a module: those of every fragment that shares its slot, or
has rejoined into it (R196, R298). -/
def postedBlocks (s : State) (g : Group) (dev die : Nat) : Bool :=
  s.posted.any fun p => (p.owners.contains g.uid || (p.gid == g.gid && p.core == g.core && p.slot == g.slot)) &&
    !(p.held.isNone && p.dev == dev && p.die == die)

/-- Whether an access has a scratchpad strand. -/
def Access.touchesSpad (a : Access) : Bool := a.strands.any fun x => match x.loc with | .spad _ => true | _ => false

/-- A flag set by a scratchpad access of a unit on its core is still set (R46 step 2). -/
def spadFlagged (s : State) (g : Group) : Bool :=
  s.floads.any fun f => f.gid == g.gid && f.core == g.core && f.spad && ((owedUnit s f.gid f.mask).any fun h => h.uid == g.uid)

/-- A licence holder's matrix instructions have not all finished (R46). -/
def matrixBusy (s : State) (g : Group) : Bool := s.arrays.any fun a => a.ops.any fun o => o.gid == g.gid

/-- The regions that a unit must flush before it leaves for a core of a module (R232). -/
def mustFlush (g : Group) (dev : Nat) (target : Nat) : List Nat :=
  if dev ≠ 0 then g.joinRegions else if g.joinOver && dieOf target != dieOf g.core then g.joinRegions else []

/-- The flushes of a departure begun, once each; those with no other replica end at once. -/
def flushFor (s : State) (g : Group) (bases : List Nat) : State :=
  bases.foldl (fun t b =>
    if t.flushes.any fun f => f.uid == g.uid && f.base == b then t
    else match t.latRegions.find? fun r => r.base == b with
      | some r => let p := startFlush t g.uid (dieOf g.core) r; settleFlush p.2 p.1
      | none => t.modUnit g.uid fun h => { h with joinRegions := h.joinRegions.filter (· != b) }) s

/-- What a migration waits for on the core before the ingot is formed: none when it may go; otherwise the state, in which the flushes
it needs have begun (R46, R196, R232). -/
def leaveWait (s : State) (g : Group) (dev die target : Nat) : Option State :=
  let bases := mustFlush g dev target
  if !bases.isEmpty then some (flushFor s g bases)
  else if postedBlocks s g dev die || spadFlagged s g || matrixBusy s g then some s
  else none

/-- A departure: what travels, and where to. -/
structure Leaving where
  dev : Nat
  target : Nat
  acc : Option Access := none
  dest : Dest := { reg := none, pair := false, uni := false }
  flag : Nat := 12
  block : Bool × List Nat := (false, [])
  rejoin : Bool := false
  deriving Repr

/-- The join list sent ahead of an ingot to the replica of another die of this module (R232). -/
def sendJoins (s : State) (g : Group) (target : Nat) : State × Group :=
  if dieOf target = dieOf g.core then (s, g)
  else
    let cells := g.joinList.filterMap fun o => (latRegionAt s o).map fun r => (o, latGet s r.typ (dieOf g.core) o)
    let g' := { g with joinList := [], joinOver := false, joinRegions := [], joinWait := g.joinWait + cells.length }
    if cells.isEmpty then (s, g') else (s.send .request g.core (dieOf target) (.joinCells g.uid (dieOf target) cells), g')

/-- A unit at the end of its chain leaves its core as an ingot (R46, R52): its registers are carried, its slot is freed unless
reserved, its joins go ahead. -/
def depart (s : State) (g : Group) (d : Leaving) : State :=
  match s.slot? g.core g.slot with
  | none => s
  | some sl =>
    let seq := (s.coreState g.core).ingotSeq
    let s := s.putCore { s.coreState g.core with ingotSeq := (seq + 1) % 4096 }
    let u : Group := { g with carried := some (carry g sl d.block.1 d.block.2), seq, age := 0, wait := .none, lastWindow := none, rejoining := d.rejoin }
    let src := g.core
    if d.dev = 0 then
      let r := sendJoins s u d.target
      let u := { r.2 with loc := .inFlight, core := d.target }
      (vacate (r.1.putUnit u) src g.slot g.uid).send .request src (dieOf d.target) (.ingot u d.acc d.dest d.flag)
    else
      let u := { u with flagDevs := (outstanding s g.gid).foldl (fun l (o : Nat × Word) => insertKey o.1 s.devNum l) u.flagDevs }
      let s := vacate (s.putUnit { u with loc := .away, homeDev := d.dev }) src g.slot g.uid
      sendPeer s d.dev 0 (.ingot
        { u with gid := exportGid s g.gid, core := d.target, visits := u.visits.map (exportAccess s) } (d.acc.map (exportAccess s)) d.dest d.flag)

/-- A unit sent back to a core of this module, to raise a fault at its migrating instruction there (R55): the one before its PC where
its ingot was `bare`, that of a `MIGR` or a `REJOIN`, and else the one at its PC. -/
def sendBack (s : State) (u : Group) (src : Nat) (bare : Bool) (code addr : Nat) (home : Option (Nat × Nat)) : State :=
  let u := { u with core := src, pc := if bare then prevPc u.pc else u.pc, loc := .inFlight, rejoining := false,
                    homeFault := some { code, addr, flag := none, home, deferred := false } }
  (s.putUnit u).send .request (1024 + dieOf src) (dieOf src) (.ingot u none { reg := none, pair := false, uni := false } 12)

/-! ## Admission (R43, R48, R199, R312) -/

/-- Launches beneath a node. -/
def beneath (s : State) (n : Node) (l : Nat) : Bool := (s.launch? l).any fun x => x.chain.any fun m => m.addr == n.addr

/-- One more slot of given allocations on a core fits the effective budgets of a launch's node and of every ancestor (R43). -/
def budgetOk (s : State) (l : Launch) (core valloc salloc : Nat) : Bool :=
  l.chain.all fun n =>
    let mine := s.slots.filter fun x => x.here && beneath s n x.launch
    decide (mine.length + 1 ≤ n.budgetGroups) && decide ((core :: mine.map (·.core)).eraseDups.length ≤ n.budgetCores) &&
      decide (((mine.map (·.valloc)).foldl (· + ·) 0 + valloc) * 128 ≤ n.quotaV * 1024) &&
      decide (((mine.map (·.salloc)).foldl (· + ·) 0 + salloc) * 4 ≤ n.quotaS * 1024)

/-- A resident unit that cannot issue, in the sense of R271, between stay chains: it sleeps, pauses, or waits at a barrier, in `LLDW`,
`MLIC.acq` or `XSIG`, or at a hallmark wait. -/
def idleUnit (s : State) (u : Group) : Bool :=
  u.chainLen == 0 && (match u.wait with
    | .sleep _ | .bar _ _ _ | .barSent _ _ _ | .lldw _ | .mlic | .xsig _ _ _ _ => true
    | .none => decide (s.now < u.pauseEnd) || (match slotIssue u with | some (_, i) => i.waitMask.any fun k => (u.flag k).set | none => false)
    | _ => false)

/-- Bytes that each vector register of the groups of a core that cannot issue takes when it is spilled: a format byte and a body (R73,
R271). A slot whose fragments all wait at rejoin records is such a group. -/
def spillSizes (s : State) (core : Nat) : List Nat :=
  (s.slots.filter fun x => x.here && x.core == core).flatMap fun x =>
    let us := s.units.filter fun u => u.core == core && u.slot == x.slot && u.loc == .resident
    let mask := if us.isEmpty then allStrands else unionMask us
    if us.all (idleUnit s) then x.v.map fun r => 1 + (bodySize (bodyFormat mask r)).getD 128 else []

/-- How many vector registers fit in a number of bytes, the smallest first. -/
def fitCount (sizes : List Nat) (room : Nat) : Nat :=
  ((sizes.mergeSort (· ≤ ·)).foldl (fun (p : Nat × Nat) n => if p.1 + n ≤ room then (p.1 + n, p.2 + 1) else (room + 1, p.2)) (0, 0)).2

/-- Vector registers of groups that cannot issue which a core's spill allocation takes over (R271; DEDUCED, log 66). -/
def spillRoom (s : State) (core : Nat) : Nat :=
  if (s.coreState core).spillSize = 0 then 0 else fitCount (spillSizes s core) (s.coreState core).spillSize

/-- The register files of a core have room for an allocation; spilled registers take none (R57, R59, R271). -/
def filesOk (s : State) (core valloc salloc : Nat) : Bool :=
  let here := s.slots.filter fun x => x.here && x.core == core
  decide ((here.map (·.valloc)).foldl (· + ·) 0 + valloc ≤ vfileOf core + spillRoom s core) &&
    decide ((here.map (·.salloc)).foldl (· + ·) 0 + salloc ≤ sfileOf core)

/-- A slot of a core kept for a twinned group of an active launch that is not pre-empted (R199). -/
def twinKept (s : State) (core slot : Nat) : Bool :=
  s.twins.any fun w => (w.lower == core || twinOf w.lower == core) && w.slot == slot && (s.launch? w.launch).any fun l => !l.ended && !l.preempted

/-- The slots of a core that any group may take. -/
def freeSlots (s : State) (core : Nat) : List Nat :=
  (List.range (slotsOf core)).filter fun k => (s.slot? core k).isNone && !twinKept s core k

/-- A fresh slot. -/
def blankSlot (core slot gid launch valloc salloc : Nat) (visitor : Bool) : Slot :=
  { core, slot, gid, launch, visitor, valloc, salloc
    v := List.replicate valloc (List.replicate 32 0)
    s := List.replicate salloc 0
    vdirty := List.replicate valloc true
    sdirty := List.replicate salloc true
    preds := List.replicate 7 0
    record := none
    records := [] }

/-- Registers that a unit carries, written into an allocation for its own strands (R48, R199). -/
def fillSlot (sl : Slot) (mask : Word) (c : Carried) (clear : Bool) : Slot :=
  let sl := if clear then { sl with v := sl.v.map fun l => mergeLanes mask [] l, vdirty := sl.vdirty.map fun _ => true } else sl
  let sl := (c.v ++ c.destV).foldl (fun x r => x.putV r.1 mask r.2) sl
  (c.s ++ c.destS).foldl (fun x r => x.putS r.1 r.2) sl

/-- The anchored slot of a unit's group on its core, when the unit stood in it as it was saved. -/
def ownAnchor (s : State) (u : Group) : Option Slot :=
  if u.inAnchor then s.slots.find? fun x => x.core == u.core && x.gid == u.gid && !x.visitor && !x.records.isEmpty else none

/-- Call records whose replies have reached their unit, or have left after it for another module, are freed (R211, R216). -/
def freeAnswered (s : State) (uid flag : Nat) : State :=
  { s with calls := s.calls.filter fun k => !(k.answered && k.flag == flag && (owedUnit s k.gid k.mask).any fun u => u.uid == uid) }

/-- The answer to a question of a unit, or another completion, met by the unit (R46, R220, R221): flag 12 is an answer; a fault in it is raised
at the instruction that has asked. -/
def landCompletion (s : State) (g : Group) (flag : Nat) (res : List Results) (fault : Option FlagFault) : State :=
  let s := freeAnswered (applyCompletion s g.uid flag res fault) g.uid flag
  match g.wait with
  | .query _ =>
    if flag ≠ 12 then s
    else match fault with
    | none => s.modUnit g.uid fun u => { u.advance with wait := .none }
    | some f => s.modUnit g.uid fun u =>
        { u with wait := .none, homeFault := some { code := f.code, addr := f.addr, flag := none, home := none, deferred := false } }
  | .barSent _ _ _ =>
    match (if flag = 12 then fault else none) with
    | none => s
    | some f => s.modUnit g.uid fun u =>
        { u with wait := .none, homeFault := some { code := f.code, addr := f.addr, flag := none, home := none, deferred := false } }
  | _ => s

/-- One completion on its way to a unit applied to it. -/
def applyOne (s : State) (uid : Nat) (m : Msg) : State :=
  match m.body, s.unit? uid with
  | .completion gid flag mask res fault, some g =>
    if (owedUnit s gid mask).any fun h => h.uid == uid then landCompletion (s.dropMsg m.id) g flag res fault else s
  | .cause gid flag mask code addr, some g =>
    if (owedUnit s gid mask).any fun h => h.uid == uid then
      (s.dropMsg m.id).modUnit g.uid fun u => { u with causes := u.causes ++ [(flag, code, addr)] }
    else s
  | _, _ => s

/-- The completions that were held while a unit was swapped out, applied before its first instruction (R46). -/
def applyHeld (s : State) (uid : Nat) : State := s.net.foldl (fun t m => applyOne t uid m) s

/-- A queued unit at the head takes a slot: its registers are written, it is resident; a barrier wait recorded at its halt goes on
unless its generation is over (R54, R331). -/
def admitTo (s : State) (u : Group) (slot : Nat) (share : Bool) (valloc salloc : Nat) : State :=
  let old := if share then (s.slot? u.core slot).getD (blankSlot u.core slot u.gid u.launch valloc salloc false)
    else blankSlot u.core slot u.gid u.launch valloc salloc u.visitor.isSome
  let sl := match u.carried with
    | some c =>
      let x := fillSlot old u.mask (if (ownAnchor s u).isSome then { c with s := [], destS := [] } else c) share
      if c.full && !share then
        { x with
          vdirty := x.vdirty.zipIdx.map fun p => c.wrote.contains (.vec p.2)
          sdirty := x.sdirty.zipIdx.map fun p => c.wrote.contains (.scal p.2)
          record := (s.saved.find? fun y => y.kind != 2 && y.unit.any fun g => g.uid == u.uid).map (·.addr) }
      else x
    | none => old
  let wait : Wait :=
    if u.resume.1 = 1 then
      let gen := match s.team? u.launch u.team with | some t => (t.bar u.resume.2.1).gen | none => 0
      if u.resume.2.2.2 < gen then .none else .bar u.resume.2.1 u.resume.2.2.1 u.resume.2.2.2
    else if u.resume.1 = 2 then .xsig u.resume.2.2.1 true true s.now
    else if (u.image.bind (·.stream)).any (fun o => o.flag == 0) then .matrix
    else u.wait
  let g : Group := { u with slot, loc := .resident, carried := none, resume := (0, 0, 0, 0), wait, age := 0, halting := false, halted := false, inAnchor := false }
  let s := { s with slots := if share then s.slots else s.slots ++ [sl] }
  let s := leaveQueue (applyHeld ((s.putSlot sl).putUnit g) u.uid) u.core u.uid
  if u.twinned then xsigReturn s g u.halted else s

/-- Which slot the unit at a queue's head can take: (slot, shared), none while none is free (R48, R199). A fragment saved in its anchored
slot goes back into it, once its image is restored (R34, R54; DEDUCED, log 41). -/
def slotFor (s : State) (u : Group) (valloc salloc : Nat) : Option (Nat × Bool) :=
  match ownAnchor s u with
  | some x => if x.here then some (x.slot, true) else none
  | none =>
  if u.twinned ∧ u.core = u.launchCore then
    match s.slot? u.core u.launchSlot with
    | some x => if x.gid = u.gid ∧ !x.visitor then some (u.launchSlot, true) else none
    | none => if filesOk s u.core valloc salloc && budgetOk s (launchOf s u) u.core valloc salloc then some (u.launchSlot, false) else none
  else
    let free := freeSlots s u.core
    if free.isEmpty || !filesOk s u.core valloc salloc || !budgetOk s (launchOf s u) u.core valloc salloc then none
    else some (free.getD (Config.slotChoice s.freeCtr % free.length) (free.headD 0), false)

/-- The head of a core's queue is admitted if it can be (R48): a returning fragment arrives at its record without taking a slot (R36);
joins sent ahead must have been delivered, flushes of a re-entry at another die have ended (R232), and posted operations of before a halt been
acknowledged (R312). none when it waits. -/
def admitHead (s : State) (core : Nat) : Option State :=
  match (s.queue.find? fun q => q.core == core).bind fun q => s.unit? q.uid with
  | none => none
  | some u =>
    let preempted := ((s.launch? u.launch).map (·.preempted)).getD false
    if u.joinWait ≠ 0 ∨ (s.flushes.any fun f => f.uid == u.uid) ∨ preempted ∨ upperHolder s u.gid ∨
        (u.haltPosted ≠ 0 ∧ s.posted.any fun p => p.owners.contains u.uid) then none
    else if u.rejoining then
      if anchorSaved s u then none
      else some (arriveRecord (leaveQueue s core u.uid) u (u.carried.map (·.v)))
    else
      let h := headInfo s u
      match slotFor s u h.valloc h.salloc with
      | none => none
      | some (slot, share) => some (admitTo { s with freeCtr := s.freeCtr + 1 } { u with haltPosted := 0 } slot share h.valloc h.salloc)

/-- `INGOT_ADMISSION` (R48). -/
def execIngotAdmission (core : Nat) (s : State) : Host.Outcome State Fault Refusal := .next ((admitHead s core).getD s)

/-! ## Arrival of an ingot at its home (R47, R48, R51, R55) -/

/-- The DRAM addresses of an access. -/
def Access.places (a : Access) : List Nat := a.strands.filterMap fun x => match x.loc with | .dram _ pa => some pa | _ => none

/-- An access passed on from an old frame to a new one. -/
def Access.forward (a : Access) (p : PageMove) : Access :=
  { a with strands := a.strands.map fun x => match x.loc with
      | .dram d pa => if p.oldPa ≤ pa ∧ pa < p.oldPa + p.size then { x with loc := .dram d (p.newPa + (pa - p.oldPa)) } else x
      | _ => x }

/-- The unit after its access at a home (R47, R184, R185): results carried, flag cleared once no place is left, the
instruction then ended; an error becomes a fault of the instruction, or pending on the flag. -/
def afterAccess (s : State) (u : Group) (a : Access) (dest : Dest) (flag : Nat) (home : Nat) : State :=
  let served := if a.kind == .load then (if dest.uni then u.mask else maskOfList (a.strands.map (·.strand))) else 0
  let done (t : State) : State :=
    let t := t.modUnit u.uid fun g => g.putP7 served allStrands
    if u.visits.isEmpty then (endAbsent t u.uid dest).modUnit u.uid Group.advance else t
  let fail (code va : Nat) : State :=
    if flag < 12 then
      let t := (applyCompletion s u.uid flag [] (some (flagFault code va (some (home, 0))))).modUnit u.uid fun g =>
        { g.putP7 served allStrands with visits := [] }
      (endAbsent t u.uid dest).modUnit u.uid Group.advance
    else s.modUnit u.uid fun g => { g with visits := [], lateAbsent := 0, homeFault := some { code, addr := va, flag := none, home := some (home, 0), deferred := false } }
  match performFor s u.region a with
  | .error (code, va) => fail code va
  | .ok (vals, t) =>
    let res : List Results := match a.kind with | .store | .stn | .stbm => [] | _ => [{ dest, vals }]
    done (applyCompletion t u.uid flag res none)

/-- The leading address of what an ingot carries. -/
def leadOf (u : Group) (acc : Option Access) : Nat := match acc with | some a => (a.strands.head?.map (·.va)).getD 0 | none => u.core

/-- A unit that this module does not take, or that its home does not admit: it goes back with a fault (R55, R281). A unit of this module
is away again. -/
def refuseUnit (s : State) (dev : Nat) (u : Group) (bare : Bool) (code addr : Nat) : State :=
  let s := if (homeOf u.gid).isSome then s.dropUnit u.uid else s.modUnit u.uid fun g => { g with loc := .away, homeDev := dev }
  sendPeer s dev 1 (.refuse (exportGid s u.gid) u.mask bare code addr)

/-- The core that a unit comes to executes groups, and no link of its route has failed (R55, R338). -/
def placeUp (s : State) (m : Msg) (u : Group) : Bool :=
  (if isStackCore u.core then stackUp s (stackOf u.core) else coreUp s u.core) && routeUp s m.src m.dst

/-- An ingot of this module's units that has reached its die. -/
def ingotArrives (s : State) (m : Msg) (u : Group) (acc : Option Access) (dest : Dest) (flag : Nat) : State :=
  if !placeUp s m u then
    if 2048 ≤ m.src then refuseUnit (s.dropMsg m.id) (peerOf m.src) u acc.isNone 0x18 (leadOf u acc)
    else sendBack (s.dropMsg m.id) u m.src (acc.isNone && decide (m.src < 1024)) 0x18 (leadOf u acc) (some (stackOf u.core, 0))
  else if acc.any fun a => !a.known then
    if 2048 ≤ m.src then refuseUnit (s.dropMsg m.id) (peerOf m.src) u acc.isNone 0x1B (leadOf u acc)
    else sendBack (s.dropMsg m.id) u m.src false 0x1B (leadOf u acc) (some (stackOf u.core, 0))
  else if isStackCore u.core ∧ s.dies.getD (dieOf u.core) 0 = 1 then s
  else
    let pas := (acc.map (·.places)).getD []
    match pas.findSome? (moveOver s) with
    | some p =>
      let a := acc.map fun a => a.forward p
      let core := arrivalCore (p.newPa / 2 ^ 36) (((a.map (·.places)).getD []).headD 0)
      let u := { u with core }
      ((s.dropMsg m.id).putUnit u).send .request m.src (dieOf core) (.ingot u a dest flag)
    | none =>
      if (pas.findSome? (moveInto s)).isSome then s
      else
        match enqueue s u.core u.uid m.src with
        | none => s
        | some t =>
          match acc with
          | none => t.dropMsg m.id
          | some a => afterAccess (t.dropMsg m.id) ((t.unit? u.uid).getD u) a dest flag (stackOf u.core)

/-- `INGOT_ARRIVAL` (R47): the access is performed as the ingot enters the crossbar, before it is offered to a queue. An ingot of a
killed unit is discarded (R53). -/
def execIngotArrival (m : Nat) (s : State) : Host.Outcome State Fault Refusal :=
  match s.ready? m with
  | some msg =>
    match msg.body with
    | .ingot u acc dest flag =>
      match s.unit? u.uid with
      | some g => .next (ingotArrives s msg g acc dest flag)
      | none => .next (s.dropMsg m)
    | _ => .next s
  | none => .next s

end Sys2Proof.Machine
end

