-- ==== Sys2Proof/Machine/Access.lean ====
section
/-! DEFINITION. How a memory instruction is resolved: checks, places, release conditions, performance here, posted operations,
migration, serial visits and memory splits (R45, R49, R50, R178 to R197, R205, R310, R311). -/

namespace Sys2Proof.Machine

/-! ## What a memory instruction asks for -/

/-- A memory instruction: kind, size, address field and offset, destination field (127 + 1 for none), flag (12 inline), acquire and
release scopes (0 none or scope 0), whether it is an acquire load, posted, guard; for each strand its data and its enables, mask or compare value. -/
structure MemOp where
  kind : AKind
  n : Nat
  a : Nat
  off : Nat
  d : Nat := 128
  flag : Nat := 12
  acq : Nat := 0
  rel : Nat := 0
  acquire : Bool := false
  posted : Bool := false
  guard : Nat := 0
  data : Ctx → Nat → Nat := fun _ _ => 0
  aux : Ctx → Nat → Nat := fun _ _ => 0

/-- a(i) of R179. -/
def Ctx.addr (c : Ctx) (a off k : Nat) : Nat := (c.src64 a k + off) % 2 ^ 64

/-- Where a strand's access is performed. -/
inductive Place where
  /-- The unit's own home stack (R17). -/
  | here (l : Loc)
  /-- A copy of a read-duplicated page (R16, R282). -/
  | copy (l : Loc)
  /-- A scratchpad, at the bank unit of a core (R267). -/
  | spad (l : Loc) (bank : Nat)
  /-- Another home: module, stack. -/
  | far (dev stack : Nat) (l : Loc)
  /-- A non-resident page (R184). -/
  | absent
  deriving DecidableEq, Repr

/-- A strand's failure: code, address, bad entry met by the walk. -/
abbrev StrandFail := Nat × Nat × Option WalkErr

/-- The access that a memory instruction makes for some strands at one place. -/
def MemOp.access (op : MemOp) (xs : List StrandAcc) : Access := { kind := op.kind, n := op.n, strands := xs, acq := op.acq }

/-- Whether an access brings a value back. -/
def AKind.returns : AKind → Bool
  | .load => true
  | .atomic _ => true
  | _ => false

/-- The translation kind of an access. -/
def AKind.tkind : AKind → TKind
  | .load => .read
  | .atomic _ => .atomic
  | _ => .write

/-- A global address checked and placed (R183 steps 5 to 7, R16, R17). -/
def Ctx.placeGlobal (c : Ctx) (op : MemOp) (a g : Nat) : Except StrandFail Place :=
  match translate c.s c.g.core (rootOf c.s c.g) (supervisor c.s c.g) op.kind.tkind g with
  | .error e => .error (e.1, a, e.2)
  | .ok p =>
    if op.kind = .load then
      if !p.res then .ok .absent
      else if p.dup then .ok (.copy (.dram 0 (readAt c.g.core p g)))
      else if p.device = 0 ∧ isStackCore c.g.core ∧ stackOf c.g.core = p.home then .ok (.here (.dram 0 (p.pa g)))
      else .ok (.far p.device p.home (.dram p.device (p.pa g)))
    else if p.dup then .error (0x1A, a, none)
    else if !p.res then .error (0x1D, a, none)
    else if p.device = 0 ∧ isStackCore c.g.core ∧ stackOf c.g.core = p.home then .ok (.here (.dram 0 (p.pa g)))
    else .ok (.far p.device p.home (.dram p.device (p.pa g)))

/-- The condition that R213 puts on an access of a body: every strand global, homed in the executor's stack. -/
def Ctx.bodyOk (c : Ctx) (g : Nat) : Bool :=
  match lookupPage c.s c.g.core (rootOf c.s c.g) g with
  | .ok p => p.device == 0 && p.home == stackOf c.g.core
  | .error _ => true

/-- R183 for one strand, and where its access goes (R182). The windows that R213 closes to a body are met after the lattice window (DEDUCED,
log 38). -/
def Ctx.place (c : Ctx) (op : MemOp) (k : Nat) : Except StrandFail Place :=
  let a := c.addr op.a op.off k
  let top := a / 2 ^ 56
  if top ≠ 0 ∧ top < 0xFB then .error (0x15, a, none)
  else if top = 0xFB then .error (0x32, a, none)
  else if top ≠ 0 ∧ c.g.visitor.isSome then .error (0x23, a, none)
  else if top = 0xFC then
    match privateConv (launchOf c.s c.g) c.g k op.n a with
    | none => .error (0x15, a, none)
    | some g =>
      if a % op.n ≠ 0 then .error (0x16, a, none)
      else c.placeGlobal op a g
  else if a % op.n ≠ 0 then .error (0x16, a, none)
  else if top = 0 then
    match c.placeGlobal op a a with
    | .error e => .error e
    | .ok p => if c.g.visitor.isSome && !c.bodyOk a then .error (0x23, a, none) else .ok p
  else
    let level := 0xFF - top
    let o := a % 2 ^ 56
    let l := launchOf c.s c.g
    if !spadOk c.s l c.g.core level o op.n then .error (0x17, a, none)
    else
      let p := spadPhys l level o
      .ok (.spad (.spad (spadKey c.g.core level p)) (bankCore c.g.core level p))

/-- One strand's part of an access. -/
def Ctx.strandAcc (c : Ctx) (op : MemOp) (k : Nat) (l : Loc) : StrandAcc :=
  { strand := k, va := c.addr op.a op.off k, loc := l, data := op.data c k, aux := op.aux c k }

/-- The active strands of a memory instruction (R29, R31, R187). -/
def Ctx.memActive (c : Ctx) (op : MemOp) : List Nat :=
  if c.uni then (if inMask (c.pred op.guard) c.low then [c.low] else []) else strands (c.g.mask &&& c.pred op.guard)

/-- Every active strand placed, or the failure of the lowest strand that fails (R183). -/
def Ctx.places (c : Ctx) (op : MemOp) : List Nat → Except StrandFail (List (Nat × Place))
  | [] => .ok []
  | k :: t =>
    match c.place op k with
    | .error e => .error e
    | .ok p =>
      match c.places op t with
      | .error e => .error e
      | .ok l => .ok ((k, p) :: l)

/-! ## Release conditions (R188, R189, R205, R206, R310) -/

/-- What a release meets: a pending error, accesses not yet performed, a window not yet passed, or nothing. -/
inductive Release where
  | error (code addr : Nat)
  | wait
  | window (t : Nat)
  | go
  deriving DecidableEq, Repr

/-- A flagged load of a unit's thread, issued by it or by a group it is a fragment of. -/
def FLoad.before (f : FLoad) (g : Group) : Bool := f.gid == g.gid && f.mask &&& g.mask != 0

/-- Earlier flagged loads of a unit are outstanding, to whichever fragment their completion is owed. -/
def loadsOut (s : State) (g : Group) : Bool := s.floads.any fun f => f.before g

/-- Earlier tile moves of a unit are outstanding, to whichever fragment their completion is owed (R206). -/
def movesOut (s : State) (g : Group) : Bool := s.moves.any fun m => m.gid == g.gid && m.mask &&& g.mask != 0

/-- Posted operations of a unit not yet acknowledged. -/
def postedOut (s : State) (g : Group) : Bool := s.posted.any fun p => p.owners.contains g.uid

/-- The end of the window wait of a system-scope release: the start of the window two beyond that of the last cross-device posted
operation (R310). -/
def windowEnd (s : State) (g : Group) : Option Nat := g.lastWindow.map fun n => (n + 2) * s.window * 1000

/-- The conditions of a release at a scope, with the tile bit (R205); scope 0 waits for nothing. -/
def releaseNow (s : State) (g : Group) (scope : Nat) (tile : Bool) : Release :=
  if scope = 0 then .go
  else match g.postErrs with
    | (_, code, addr) :: _ => .error code addr
    | [] =>
      if postedOut s g || loadsOut s g || (tile && movesOut s g) then .wait
      else match (if scope = 4 then windowEnd s g else none) with
        | some t => if s.ptime < t then .window t else .go
        | none => .go

/-- An instruction whose release half is met goes on; else it waits, or raises the oldest pending error as its own precise fault
(R188). -/
def Ctx.release (c : Ctx) (i : Instr) (scope : Nat) (tile : Bool) (go : State) : State :=
  match releaseNow c.s c.g scope tile with
  | .go => go
  | .wait => hold c.s
  | .window t => hold (c.s.modUnit c.g.uid fun g => { g with wait := .window t })
  | .error code addr => { c with g := { c.g with postErrs := c.g.postErrs.drop 1 } }.fail i code addr

/-! ## Results (R3, R63, R185) -/

/-- Where a destination field of a loading instruction leads. -/
def Ctx.dest (c : Ctx) (d : Nat) (pair : Bool) : Dest :=
  { reg := if d < 112 then some (if c.uni then .scal (c.g.swb + d) else .vec (c.g.vwb + d))
      else if 120 ≤ d ∧ d < 128 then some (.twin (d - 120)) else none
    pair
    uni := c.uni }

/-- Writes of zero to a destination for given strands (R184); in uniform form for every strand of the mask `own` (R31). -/
def zeroWrites (own : Word) (d : Dest) (m : Word) : List PendWrite :=
  match d.reg with
  | none => []
  | some r =>
    let w (r : Reg) : PendWrite := { reg := r, mask := if d.uni then (match r with | .scal _ => 1#32 | _ => own) else m, vals := List.replicate 32 0, cls := 0, k := 0 }
    w r :: (if d.pair then [w r.succ] else [])

/-- The p7 write of a load: bits of the strands that translated a global address; every strand of the mask in uniform form (R64,
R184). -/
def Ctx.p7Writes (c : Ctx) (ps : List (Nat × Place)) : List PendWrite :=
  let globals := ps.filter fun p => match p.2 with | .spad _ _ => false | _ => true
  let res := globals.filter fun p => p.2 != .absent
  if globals.isEmpty then []
  else if c.uni then c.pdst 7 0 c.g.mask (if res.isEmpty then 0 else allStrands)
  else c.pdst 7 0 (maskOfList (globals.map (·.1))) (maskOfList (res.map (·.1)))

/-! ## Performing here (R182, R185, R195, R197) -/

/-- Two accesses touch a common byte. -/
def overlaps (a b : Access) : Bool :=
  let meet (p q : Nat) : Bool := decide (p < q + b.n) && decide (q < p + a.n)
  a.strands.any fun x => b.strands.any fun y => match x.loc, y.loc with
    | .dram d p, .dram e q => d == e && meet p q
    | .spad p, .spad q => meet p q
    | _, _ => false

/-- Earlier posted operations of a unit to the same location have not been performed: those held, and, for an access performed here,
those on their way (R197). -/
def behindPosted (s : State) (g : Group) (a : Access) (sent : Bool) : Bool :=
  s.posted.any fun p => p.owners.contains g.uid &&
    (match p.held with
      | some h => overlaps a h.1
      | none => sent && s.net.any fun m => match m.body with | .posted id b _ _ => id == p.id && overlaps a b | _ => false)

/-- An earlier flagged load of a unit that touches the same location is still to be performed (R197, R298). -/
def behindLoads (s : State) (g : Group) (a : Access) : Bool := s.floads.any fun f => f.before g && overlaps a f.acc

/-- An access may not be performed, or sent on its way, before earlier accesses of its thread to the same location. A later store may pass a
flagged load (R197, R298). -/
def Ctx.mustHold (c : Ctx) (a : Access) (sent : Bool) : Bool :=
  behindPosted c.s c.g a sent || (a.kind.returns && behindLoads c.s c.g a)

/-- Operations of a unit to a die of a module that are held on its core: what it sends there comes after them (R299, R304). -/
def heldTo (s : State) (g : Group) (dev die : Nat) : List Nat :=
  (s.posted.filter fun p => p.owners.contains g.uid && p.held.isSome && p.dev == dev && p.die == die).map (·.id)

/-- The bank units of other cores that an access goes to, each with its strands (R195, R267). -/
def Ctx.otherBanks (c : Ctx) (op : MemOp) (banks : List (Nat × StrandAcc)) : List (Nat × Access) :=
  let xs := banks.filter (·.1 != c.g.core)
  (xs.map (·.1)).eraseDups.map fun b => (b, op.access ((xs.filter (·.1 == b)).map (·.2)))

/-- The strands of an access in the issuing core's own bank. -/
def Ctx.ownBank (c : Ctx) (banks : List (Nat × StrandAcc)) : List StrandAcc := (banks.filter (·.1 == c.g.core)).map (·.2)

/-- Earlier accesses hold back a part performed here or the parts sent to bank units of other cores. -/
def Ctx.hereHeld (c : Ctx) (mine : Access) (sent : List (Nat × Access)) : Bool :=
  c.mustHold mine true || sent.any fun b => !(heldTo c.s c.g 0 (dieOf b.1)).isEmpty

/-- The p7 write of a load for the strands served by an access to DRAM (R64, R184). -/
def Ctx.p7Served (c : Ctx) (op : MemOp) (xs : List StrandAcc) : List PendWrite :=
  let got := xs.filter fun x => match x.loc with | .dram _ _ => true | .spad _ => false
  if op.kind != .load || got.isEmpty then []
  else c.pdst 7 0 (if c.uni then c.g.mask else maskOfList (got.map (·.strand))) allStrands

/-- What a load writes for its strands whose pages are not resident (R184). -/
def Ctx.absentWrites (c : Ctx) (op : MemOp) (absent : Word) : List PendWrite :=
  if absent = 0 then [] else zeroWrites c.g.mask (c.dest op.d (op.n == 8)) absent ++ c.pdst 7 0 (if c.uni then c.g.mask else absent) 0

/-- A flagged load ends with an error met by the part of it performed here: fault pending on its flag (R185). -/
def Ctx.flagFail (c : Ctx) (i : Instr) (op : MemOp) (absent : Word) (mine : List StrandAcc) (code va : Nat) (home : Option (Nat × Nat)) : State :=
  let t := c.retire i none (c.p7Served op mine ++ c.absentWrites op absent) (nextPc c.g.pc)
  (applyCompletion t c.g.uid op.flag [] (some (flagFault code va home))).modUnit c.g.uid fun g => { g with visits := [], lateAbsent := 0 }

/-- An access performed on this core (R182, R185): the unit waits for its completion, which writes the destinations; `advance`
when the instruction ends with it. `absent` names the strands whose pages are not resident, where the instruction begins here; `home` is the
home that a visit stands at (R49). -/
def Ctx.performHere (c : Ctx) (i : Instr) (op : MemOp) (absent : Word) (local_ : List StrandAcc) (banks : List (Nat × StrandAcc))
    (advance : Bool) (visits : List Access) (home : Option (Nat × Nat) := none) : State :=
  let mine := local_ ++ c.ownBank banks
  let sent := c.otherBanks op banks
  let dest := c.dest op.d (op.n == 8)
  if c.hereHeld (op.access mine) sent then hold c.s
  else match performFor c.s c.g.region (op.access mine) with
    | .error (code, va) =>
      if op.flag < 12 then c.flagFail i op absent mine code va home
      else c.fault i { code, addr := va, flag := none, home, deferred := false }
    | .ok (vals, s) =>
      let res : List Results := if op.kind.returns then [{ dest, vals }] else []
      let t := { c with s }.retire i none (c.p7Served op mine) c.g.pc
      let t := sent.foldl (fun t b => t.send .request c.g.core (dieOf b.1) (.spad c.g.uid b.1 b.2 dest)) t
      t.modUnit c.g.uid fun g => { g with wait := .inlineAccess res sent.length advance op.flag, visits, lateAbsent := absent }

/-- A flagged load that does not migrate (R185): recorded on its flag, performed when its data arrives; its parts in the banks of other cores
are sent to them (R195, R299). -/
def Ctx.flagHere (c : Ctx) (i : Instr) (op : MemOp) (absent : Word) (ws : List PendWrite) (local_ : List StrandAcc)
    (banks : List (Nat × StrandAcc)) : State :=
  let acc := op.access (local_ ++ c.ownBank banks)
  let sent := c.otherBanks op banks
  if c.hereHeld acc sent then hold c.s
  else
    let t := c.retire i none ws (nextPc c.g.pc)
    let t := t.modUnit c.g.uid fun g => g.arm op.flag op.acquire
    let f : FLoad := { id := t.nextId, gid := c.g.gid, core := c.g.core, flag := op.flag, mask := c.g.mask, acc, dest := c.dest op.d (op.n == 8),
                       left := sent.length, got := [], err := none, absent, spad := !banks.isEmpty }
    sent.foldl (fun t b => t.send .request c.g.core (dieOf b.1) (.spadLoad f.id b.1 b.2)) { t with nextId := t.nextId + 1, floads := t.floads ++ [f] }

/-! ## Posted operations (R188, R189, R196, R309) -/

/-- The record of a posted operation of a unit on its way to a die of a module. -/
def postedOp (s : State) (g : Group) (dev stack : Nat) (acc : Access) (window : Option Nat) (held : Option (Access × Nat)) (after behind : List Nat) :
    Posted :=
  { id := s.nextId, core := g.core, slot := g.slot, gid := g.gid, owners := [g.uid], launch := g.launch, dev, die := 8 + stack,
    addr := (acc.strands.head?.map (·.va)).getD 0, sentAt := s.now, window, held, after, behind }

/-- A posted operation recorded. -/
def State.addPosted (s : State) (p : Posted) : State := { s with nextId := p.id + 1, posted := s.posted ++ [p] }

/-- A recorded operation on its way: a message on the path to its die, or a frame stamped with its window. One for a module that cannot be
reached is dropped with error 0x18. -/
def launchPosted (s : State) (p : Posted) (acc : Access) (region : Nat) : State :=
  if p.dev = 0 then s.send .request p.core p.die (.posted p.id acc none region)
  else if !peerReach s (dieOf p.core) p.dev then s.send .reply p.core (dieOf p.core) (.ack p.id (some 0x18))
  else sendPeer (stampWindow s p.owners p.launch (windowNow s)) p.dev 0 (.posted p.id (exportAccess s acc) (some (windowNow s)) region)

/-- The window with which an operation leaves now (R309). -/
def windowTo (s : State) (dev : Nat) : Option Nat := if dev = 0 then none else some (windowNow s)

/-- A posted operation sent to its home. -/
def sendPosted (s : State) (g : Group) (dev stack : Nat) (acc : Access) : State :=
  let p := postedOp s g dev stack acc (windowTo s dev) none [] []
  launchPosted (s.addPosted p) p acc g.region

/-- A posted operation held on its core until its conditions hold at a scope (R189), or behind a held one (R299). -/
def holdPosted (s : State) (g : Group) (dev stack scope : Nat) (acc : Access) (after : List Nat) : State :=
  s.addPosted (postedOp s g dev stack acc ((s.unit? g.uid).bind (·.lastWindow)) (some (acc, scope)) after (heldTo s g dev (8 + stack)))

/-- Home of an access that visits one: module and stack. -/
def Access.home (a : Access) : Nat × Nat :=
  match a.strands with
  | [] => (0, 0)
  | x :: _ => match x.loc with | .dram d pa => (d, pa / 2 ^ 36) | .spad _ => (0, 0)

/-- A posted operation of a unit to the home of its access, behind what the unit has held for that die (R299). -/
def postTo (s : State) (g : Group) (a : Access) : State :=
  if (heldTo s g a.home.1 (8 + a.home.2)).isEmpty then sendPosted s g a.home.1 a.home.2 a else holdPosted s g a.home.1 a.home.2 0 a []

/-- The work that a held release of a unit waits for: its posted operations and its flagged loads. -/
def earlierWork (s : State) (g : Group) : List Nat :=
  (s.posted.filter fun p => p.owners.contains g.uid).map (·.id) ++ (s.floads.filter fun f => f.before g).map (·.id)

/-- Strands of other homes by home, in the order of their lowest strands. -/
def byHome (ps : List (Nat × Nat × Nat × Loc)) : List (Nat × Nat) := (ps.map fun p => (p.2.1, p.2.2.1)).eraseDups

/-- The accesses of an instruction's global strands, one a home. -/
def Ctx.homeAccesses (c : Ctx) (op : MemOp) (homes : List (Nat × Nat × Nat × Loc)) : List Access :=
  (byHome homes).map fun h => op.access ((homes.filter fun p => (p.2.1, p.2.2.1) == h).map fun p => c.strandAcc op p.1 p.2.2.2)

/-- Posted accesses sent, one operation a home; the group goes on at once. A release whose conditions do not hold yet is held, and so is
what follows a held operation of the group to the same die (R189, R299). -/
def Ctx.post (c : Ctx) (i : Instr) (op : MemOp) (accs : List Access) : State :=
  if accs.any fun a => c.mustHold a false then hold c.s
  else
    let after := earlierWork c.s c.g
    let free := op.rel = 0 ∨ (releaseNow c.s c.g op.rel false = .go)
    let t := { c with g := { c.g with visits := [] } }.retire i none [] (nextPc c.g.pc)
    accs.foldl (fun t a => if free then postTo t c.g a else holdPosted t c.g a.home.1 a.home.2 op.rel a after) t

/-! ## Motion (R45, R46, R49, R50) -/

/-- The arrival core of an access that visits a home (R18): bits [13:8] of the leading address are those of its place. -/
def Access.target (a : Access) : Nat :=
  arrivalCore a.home.2 (match a.strands with | [] => 0 | x :: _ => match x.loc with | .dram _ pa => pa | .spad _ => 0)

/-- A unit that leaves with a flagged acquire load: the flag holds back what follows if the load ends with a fault (R186). -/
def MemOp.mark (op : MemOp) (g : Group) : Group := if op.acquire && decide (op.flag < 12) then { g with acqFlags := op.flag :: g.acqFlags } else g

/-- The next visit of an instruction (R46, R49): performed here when the unit stands at its home, else the unit migrates with it. -/
def Ctx.visit (c : Ctx) (i : Instr) (op : MemOp) (absent : Word) (a : Access) (rest : List Access) : State :=
  let h := a.home
  if h.1 = 0 ∧ isStackCore c.g.core ∧ stackOf c.g.core = h.2 then
    c.performHere i op absent a.strands [] rest.isEmpty rest (some (h.2, 0))
  else if c.mustHold a false then hold c.s
  else
    let lead := (a.strands.head?.map (·.va)).getD 0
    let target := a.target
    if h.1 ≠ 0 ∧ c.s.service = 1 then c.fail i 0x42 0
    else if h.1 ≠ 0 ∧ !peerReach c.s (dieOf c.g.core) h.1 then c.fail i 0x18 lead
    else match leaveWait c.s c.g h.1 (8 + h.2) target with
      | some s => hold s
      | none =>
        let t := c.retire i none [] c.g.pc
        match t.unit? c.g.uid with
        | none => t
        | some g => depart t { op.mark g with visits := rest, lateAbsent := absent }
            { dev := h.1, target, acc := some a, dest := c.dest op.d (op.n == 8), flag := op.flag, block := destRegs c.g c.uni (destBlock c.uni i) }

/-- A memory split (R50): one fragment for each other home departs, the rest stays and performs what is local. -/
def Ctx.splitMemory (c : Ctx) (i : Instr) (op : MemOp) (absent : Word) (far : List Access) (here : List StrandAcc)
    (banks : List (Nat × StrandAcc)) : State :=
  if c.hereHeld (op.access (here ++ c.ownBank banks)) (c.otherBanks op banks) || far.any (fun a => c.mustHold a false) then hold c.s
  else match far.findSome? fun a => leaveWait c.s c.g 0 (8 + a.home.2) a.target with
  | some s => hold s
  | none =>
    let gone := far.map fun a => maskOfList (a.strands.map (·.strand))
    let stay := c.g.mask &&& ~~~(gone.foldl (· ||| ·) 0)
    let masks := ((if stay = 0 then gone else stay :: gone).map fun m => (lowest m, m)).foldl (fun l p => insertKey p.1 p.2 l) []
    let t := c.retire i none [] c.g.pc
    match t.unit? c.g.uid, t.slot? c.g.core c.g.slot with
    | some g, some sl =>
      let r := cutUnit t g sl g.live.bar (masks.map (·.2))
      -- the fragment that stays performs its part before the others leave the slot
      let t := match r.2.find? fun f => f.mask == stay with
        | none => r.1
        | some f =>
          let c' : Ctx := { c with s := { r.1 with cur := { r.1.cur with stay := false } }, g := f, sl := (r.1.slot? f.core f.slot).getD sl }
          if here.isEmpty ∧ banks.isEmpty then endAbsent (r.1.putUnit { f.advance with lateAbsent := absent }) f.uid (c.dest op.d (op.n == 8))
          else if op.flag < 12 then c'.flagHere i op absent (c.p7Served op here ++ c.pdst 7 0 absent 0) here banks
          else c'.performHere i op absent here banks true []
      (r.2.filter fun f => f.mask != stay).foldl (fun t f =>
        match far.find? fun a => maskOfList (a.strands.map (·.strand)) == f.mask, t.unit? f.uid with
        | some a, some f => depart t (op.mark f)
            { dev := 0, target := a.target, acc := some a, dest := c.dest op.d (op.n == 8), flag := op.flag,
              block := destRegs f c.uni (destBlock c.uni i) }
        | _, _ => t) t
    | _, _ => t

/-- The access of an instruction that has passed its checks and its release conditions (R45, R182). -/
def Ctx.access (c : Ctx) (i : Instr) (op : MemOp) (ps : List (Nat × Place)) : State :=
  let acc (k : Nat) (l : Loc) := c.strandAcc op k l
  let banks := ps.filterMap fun p => match p.2 with | .spad l b => some (b, acc p.1 l) | _ => none
  let copies := ps.filterMap fun p => match p.2 with | .copy l => some (acc p.1 l) | _ => none
  let own := ps.filterMap fun p => match p.2 with | .here l => some (acc p.1 l) | _ => none
  let homes := ps.filterMap fun p => match p.2 with
    | .here l => some (p.1, 0, stackOf c.g.core, l)
    | .far d h l => some (p.1, d, h, l)
    | _ => none
  let far := homes.any fun p => !(p.2.1 == 0 && isStackCore c.g.core && p.2.2.1 == stackOf c.g.core)
  let absent := if op.kind != .load then 0 else maskOfList ((ps.filter fun p => p.2 == .absent).map (·.1))
  let visits := c.homeAccesses op homes
  if op.posted then
    if banks.isEmpty then c.post i op visits
    -- scratchpad strands first; the operations of the others follow once they are performed
    else c.performHere i op 0 [] banks homes.isEmpty visits
  else if !far then
    if op.flag < 12 then c.flagHere i op absent (c.p7Writes ps) (copies ++ own) banks
    else if banks.isEmpty ∧ copies.isEmpty ∧ own.isEmpty then
      c.retire i none (if op.kind = .load then c.absentWrites op absent else []) (nextPc c.g.pc)
    else c.performHere i op absent (copies ++ own) banks true []
  else
    if visits.length ≠ 1 ∧ c.g.live.bar ≠ 0 ∧ visits.all fun a => a.home.1 = 0 then
      c.splitMemory i op absent (visits.filter fun a => !(isStackCore c.g.core && a.home.2 == stackOf c.g.core)) (copies ++ own) banks
    else if !banks.isEmpty || !copies.isEmpty then c.performHere i op absent copies banks false visits
    else match visits with
      | [] => c.pass i
      | a :: rest => c.visit i op absent a rest

/-- A load or an atomic that leads to another home with a destination among x0 to x7, or one whose home lies on another module at S1: faults
0x43 and 0x42 of step 4 of R91, once its strands have passed R183 (R28, R63, R182). -/
def Ctx.farMemory (c : Ctx) (op : MemOp) : Option Nat :=
  let toTwin := op.kind.returns && !op.posted && decide (120 ≤ op.d) && decide (op.d < 128)
  if !(c.s.service == 1 || toTwin) || !c.g.visits.isEmpty then none
  else match c.places op (c.memActive op) with
    | .error _ => none
    | .ok ps =>
      if c.s.service == 1 && ps.any (fun p => match p.2 with | .far d _ _ => d != 0 | _ => false) then some 0x42
      else if toTwin && ps.any (fun p => match p.2 with | .far _ _ _ => true | _ => false) then some 0x43
      else none

/-- Some strand's place lies in the new frame of a moving page, which this core may not use yet (R284). -/
def Access.markerHeld (s : State) (core : Nat) (a : Access) : Bool :=
  a.strands.any fun x => match x.loc with | .dram d pa => d == 0 && Machine.markerHeld s core pa | .spad _ => false

/-- A memory instruction (R182 to R197): its remaining visits, or its checks, its acquire's overrun mark, its release and its access. -/
def Ctx.mem (c : Ctx) (i : Instr) (op : MemOp) : State :=
  match c.g.visits with
  | a :: rest =>
    if (if op.posted then a :: rest else [a]).any (Access.markerHeld c.s c.g.core) then hold c.s
    else if op.posted then c.post i op (a :: rest)
    else c.visit i op c.g.lateAbsent a rest
  | [] =>
    let act := c.memActive op
    if act.isEmpty then c.pass i
    else match c.places op act with
    | .error (code, a, w) =>
      (match w with | some w => { c with s := walkRecord c.s c.g code a w } | none => c).fail i code a
    | .ok ps =>
      let s := (act.map (c.addr op.a op.off)).foldl (fun t a => if a < 2 ^ 56 then t.notePage c.g.core (rootOf c.s c.g) a else t) c.s
      let c := { c with s }
      if ps.any (fun p => match p.2 with | .far 0 _ (.dram _ pa) => markerHeld c.s c.g.core pa | .here (.dram _ pa) => markerHeld c.s c.g.core pa | _ => false) then hold c.s
      else if overrunHit c.s c.g op.acq then c.fail i 0x1C (c.addr op.a op.off (act.headD 0))
      else if op.rel = 0 then c.access i op ps
      else if op.posted && ps.all (fun p => match p.2 with | .spad _ _ => false | _ => true) then
        match c.g.postErrs with
        | (_, code, addr) :: _ => { c with g := { c.g with postErrs := c.g.postErrs.drop 1 } }.fail i code addr
        | [] => c.access i op ps
      else c.release i op.rel false (c.access i op ps)

end Sys2Proof.Machine
end

