-- ==== Sys2Proof/Machine/Memory.lean ====
section
/-! DEFINITION. Loads, stores and atomics, opcodes 0x40 to 0x5F, 0x7D and 0x7E (R178 to R195), and the events by which their accesses
are performed and answered (R46, R185, R188, R189, R195, R310, R311). -/

namespace Sys2Proof.Machine

/-! ## Shapes -/

/-- A load of n bytes (R184): F = 0 inline, else the flag it names. -/
def loadOp (n : Nat) (d a : BitVec 7) (o f : BitVec 4) : MemOp :=
  { kind := .load, n, a := a.toNat, off := o.toNat * n, d := d.toNat, flag := flagNo f.toNat }

/-- A store of n bytes (R187). -/
def storeOp (n : Nat) (d a : BitVec 7) (o : BitVec 4) (p : BitVec 1) (g : BitVec 3) : MemOp :=
  { kind := .store, n, a := a.toNat, off := o.toNat * n, posted := p == 1#1, guard := g.toNat,
    data := fun c k => if n = 8 then c.src64 d.toNat k else (c.src d.toNat k).toNat }

/-- An atomic (R193): order 1 acquire, 2 release, 3 both. -/
def atomicOp (op : Nat) (d a : BitVec 7) (b : BitVec 5) (s : BitVec 3) (o : BitVec 2) (p : BitVec 1) : MemOp :=
  { kind := .atomic op, n := 4, a := a.toNat, off := 0, d := if p = 1#1 then 128 else d.toNat, posted := p == 1#1,
    acq := if o = 1#2 ∨ o = 3#2 then s.toNat else 0, rel := if o = 2#2 ∨ o = 3#2 then s.toNat else 0,
    data := fun c k => (c.src b.toNat k).toNat, aux := fun c k => if op = 10 then (c.src (b.toNat + 1) k).toNat else 0 }

/-- A memory instruction issued. -/
def issueMem (i : Instr) (op : MemOp) : State → Host.Outcome State Fault Refusal :=
  issueFar i (fun _ => [.src op.a 2]) (fun c => c.farMemory op) (issue i fun c => c.mem i op)

/-! ## Loads (R184 to R186) -/

/-- `LDB` (R184). -/
def execLdb (d a : BitVec 7) (o f : BitVec 4) : State → Host.Outcome State Fault Refusal := issueMem (.ldb d a o f) (loadOp 1 d a o f)

/-- `LDH` (R184). -/
def execLdh (d a : BitVec 7) (o f : BitVec 4) : State → Host.Outcome State Fault Refusal := issueMem (.ldh d a o f) (loadOp 2 d a o f)

/-- `LDW` (R184). -/
def execLdw (d a : BitVec 7) (o f : BitVec 4) : State → Host.Outcome State Fault Refusal := issueMem (.ldw d a o f) (loadOp 4 d a o f)

/-- `LDD` (R184). -/
def execLdd (d a : BitVec 7) (o f : BitVec 4) : State → Host.Outcome State Fault Refusal := issueMem (.ldd d a o f) (loadOp 8 d a o f)

/-- `LDBA` (R186): acquire at its scope. -/
def execLdba (d a : BitVec 7) (s : BitVec 3) (o f : BitVec 4) : State → Host.Outcome State Fault Refusal :=
  issueMem (.ldba d a s o f) { loadOp 1 d a o f with acq := s.toNat, acquire := true }

/-- `LDHA` (R186): acquire at its scope. -/
def execLdha (d a : BitVec 7) (s : BitVec 3) (o f : BitVec 4) : State → Host.Outcome State Fault Refusal :=
  issueMem (.ldha d a s o f) { loadOp 2 d a o f with acq := s.toNat, acquire := true }

/-- `LDWA` (R186): acquire at its scope. -/
def execLdwa (d a : BitVec 7) (s : BitVec 3) (o f : BitVec 4) : State → Host.Outcome State Fault Refusal :=
  issueMem (.ldwa d a s o f) { loadOp 4 d a o f with acq := s.toNat, acquire := true }

/-- `LDDA` (R186): acquire at its scope. -/
def execLdda (d a : BitVec 7) (s : BitVec 3) (o f : BitVec 4) : State → Host.Outcome State Fault Refusal :=
  issueMem (.ldda d a s o f) { loadOp 8 d a o f with acq := s.toNat, acquire := true }

/-! ## Stores (R187, R189 to R191) -/

/-- `STB` (R187). -/
def execStb (d a : BitVec 7) (o : BitVec 4) (p : BitVec 1) (g : BitVec 3) : State → Host.Outcome State Fault Refusal :=
  issueMem (.stb d a o p g) (storeOp 1 d a o p g)

/-- `STH` (R187). -/
def execSth (d a : BitVec 7) (o : BitVec 4) (p : BitVec 1) (g : BitVec 3) : State → Host.Outcome State Fault Refusal :=
  issueMem (.sth d a o p g) (storeOp 2 d a o p g)

/-- `STW` (R187). -/
def execStw (d a : BitVec 7) (o : BitVec 4) (p : BitVec 1) (g : BitVec 3) : State → Host.Outcome State Fault Refusal :=
  issueMem (.stw d a o p g) (storeOp 4 d a o p g)

/-- `STD` (R187). -/
def execStd (d a : BitVec 7) (o : BitVec 4) (p : BitVec 1) (g : BitVec 3) : State → Host.Outcome State Fault Refusal :=
  issueMem (.std d a o p g) (storeOp 8 d a o p g)

/-- `STBL` (R189): release at its scope. -/
def execStbl (d a : BitVec 7) (s : BitVec 3) (o : BitVec 4) (p : BitVec 1) (g : BitVec 3) : State → Host.Outcome State Fault Refusal :=
  issueMem (.stbl d a s o p g) { storeOp 1 d a o p g with rel := s.toNat }

/-- `STHL` (R189): release at its scope. -/
def execSthl (d a : BitVec 7) (s : BitVec 3) (o : BitVec 4) (p : BitVec 1) (g : BitVec 3) : State → Host.Outcome State Fault Refusal :=
  issueMem (.sthl d a s o p g) { storeOp 2 d a o p g with rel := s.toNat }

/-- `STWL` (R189): release at its scope. -/
def execStwl (d a : BitVec 7) (s : BitVec 3) (o : BitVec 4) (p : BitVec 1) (g : BitVec 3) : State → Host.Outcome State Fault Refusal :=
  issueMem (.stwl d a s o p g) { storeOp 4 d a o p g with rel := s.toNat }

/-- `STDL` (R189): release at its scope. -/
def execStdl (d a : BitVec 7) (s : BitVec 3) (o : BitVec 4) (p : BitVec 1) (g : BitVec 3) : State → Host.Outcome State Fault Refusal :=
  issueMem (.stdl d a s o p g) { storeOp 8 d a o p g with rel := s.toNat }

/-- `STN` (R190): nibble enables in bits [7:0] of D + 1. -/
def execStn (d a : BitVec 7) (o : BitVec 4) (p : BitVec 1) (g : BitVec 3) : State → Host.Outcome State Fault Refusal :=
  issueMem (.stn d a o p g) { storeOp 4 d a o p g with kind := .stn, aux := fun c k => bits (c.src (d.toNat + 1) k).toNat 0 8 }

/-- `STBM` (R191): bit enables in B. -/
def execStbm (d a b : BitVec 7) (p : BitVec 1) (g : BitVec 3) : State → Host.Outcome State Fault Refusal :=
  issueMem (.stbm d a b p g) { storeOp 4 d a 0 p g with kind := .stbm, aux := fun c k => (c.src b.toNat k).toNat }

/-! ## Atomics (R193, R194) -/

/-- `AADD` (R194). -/
def execAadd (d a : BitVec 7) (b : BitVec 5) (s : BitVec 3) (o : BitVec 2) (p : BitVec 1) :
    State → Host.Outcome State Fault Refusal := issueMem (.aadd d a b s o p) (atomicOp 0 d a b s o p)

/-- `ASUB` (R194). -/
def execAsub (d a : BitVec 7) (b : BitVec 5) (s : BitVec 3) (o : BitVec 2) (p : BitVec 1) :
    State → Host.Outcome State Fault Refusal := issueMem (.asub d a b s o p) (atomicOp 1 d a b s o p)

/-- `AMINS` (R194). -/
def execAmins (d a : BitVec 7) (b : BitVec 5) (s : BitVec 3) (o : BitVec 2) (p : BitVec 1) :
    State → Host.Outcome State Fault Refusal := issueMem (.amins d a b s o p) (atomicOp 2 d a b s o p)

/-- `AMAXS` (R194). -/
def execAmaxs (d a : BitVec 7) (b : BitVec 5) (s : BitVec 3) (o : BitVec 2) (p : BitVec 1) :
    State → Host.Outcome State Fault Refusal := issueMem (.amaxs d a b s o p) (atomicOp 3 d a b s o p)

/-- `AMINU` (R194). -/
def execAminu (d a : BitVec 7) (b : BitVec 5) (s : BitVec 3) (o : BitVec 2) (p : BitVec 1) :
    State → Host.Outcome State Fault Refusal := issueMem (.aminu d a b s o p) (atomicOp 4 d a b s o p)

/-- `AMAXU` (R194). -/
def execAmaxu (d a : BitVec 7) (b : BitVec 5) (s : BitVec 3) (o : BitVec 2) (p : BitVec 1) :
    State → Host.Outcome State Fault Refusal := issueMem (.amaxu d a b s o p) (atomicOp 5 d a b s o p)

/-- `AAND` (R194). -/
def execAand (d a : BitVec 7) (b : BitVec 5) (s : BitVec 3) (o : BitVec 2) (p : BitVec 1) :
    State → Host.Outcome State Fault Refusal := issueMem (.aand d a b s o p) (atomicOp 6 d a b s o p)

/-- `AOR` (R194). -/
def execAor (d a : BitVec 7) (b : BitVec 5) (s : BitVec 3) (o : BitVec 2) (p : BitVec 1) :
    State → Host.Outcome State Fault Refusal := issueMem (.aor d a b s o p) (atomicOp 7 d a b s o p)

/-- `AXOR` (R194). -/
def execAxor (d a : BitVec 7) (b : BitVec 5) (s : BitVec 3) (o : BitVec 2) (p : BitVec 1) :
    State → Host.Outcome State Fault Refusal := issueMem (.axor d a b s o p) (atomicOp 8 d a b s o p)

/-- `AXCH` (R194). -/
def execAxch (d a : BitVec 7) (b : BitVec 5) (s : BitVec 3) (o : BitVec 2) (p : BitVec 1) :
    State → Host.Outcome State Fault Refusal := issueMem (.axch d a b s o p) (atomicOp 9 d a b s o p)

/-- `ACAS` (R194). -/
def execAcas (d a : BitVec 7) (b : BitVec 5) (s : BitVec 3) (o : BitVec 2) (p : BitVec 1) :
    State → Host.Outcome State Fault Refusal := issueMem (.acas d a b s o p) (atomicOp 10 d a b s o p)

/-- `AFADD` (R194). -/
def execAfadd (d a : BitVec 7) (b : BitVec 5) (s : BitVec 3) (o : BitVec 2) (p : BitVec 1) :
    State → Host.Outcome State Fault Refusal := issueMem (.afadd d a b s o p) (atomicOp 11 d a b s o p)

/-- `AFMIN` (R194). -/
def execAfmin (d a : BitVec 7) (b : BitVec 5) (s : BitVec 3) (o : BitVec 2) (p : BitVec 1) :
    State → Host.Outcome State Fault Refusal := issueMem (.afmin d a b s o p) (atomicOp 12 d a b s o p)

/-- `AFMAX` (R194). -/
def execAfmax (d a : BitVec 7) (b : BitVec 5) (s : BitVec 3) (o : BitVec 2) (p : BitVec 1) :
    State → Host.Outcome State Fault Refusal := issueMem (.afmax d a b s o p) (atomicOp 13 d a b s o p)

/-- `AINCW` (R194). -/
def execAincw (d a : BitVec 7) (b : BitVec 5) (s : BitVec 3) (o : BitVec 2) (p : BitVec 1) :
    State → Host.Outcome State Fault Refusal := issueMem (.aincw d a b s o p) (atomicOp 14 d a b s o p)

/-- `ADECW` (R194). -/
def execAdecw (d a : BitVec 7) (b : BitVec 5) (s : BitVec 3) (o : BitVec 2) (p : BitVec 1) :
    State → Host.Outcome State Fault Refusal := issueMem (.adecw d a b s o p) (atomicOp 15 d a b s o p)

/-! ## Completions (R46, R185, R195, R267) -/

/-- `INLINE_ACCESS_COMPLETION` (R185): the destinations are written and the unit may issue again; a fault met at a bank unit is left to
be raised by the instruction, or pending on the flag of a flagged load. -/
def execInlineAccessCompletion (u : Nat) (s : State) : Host.Outcome State Fault Refusal :=
  match s.unit? u with
  | none => .next s
  | some g =>
    match g.wait with
    | .inlineAccess got left advance flag =>
      let last (t : State) : State :=
        (endAbsent t u ((got.head?.map (·.dest)).getD { reg := none, pair := false, uni := false })).modUnit u Group.advance
      if left ≠ 0 then .next s
      else match g.homeFault with
      | some r =>
        if flag < 12 then
          let t := s.putUnit { g with wait := .none, homeFault := none, visits := [] }
          .next (last (applyCompletion t u flag [] (some (flagFault r.code r.addr none))))
        else .next (s.putUnit { g with wait := .none, visits := [], lateAbsent := 0 })
      | none =>
        let s := s.putUnit { g with wait := .none }
        let s := got.foldl (fun t r => putResults t u r) s
        .next (if advance then last s else s)
    | _ => .next s

/-- What a bank unit's answer does to the waiting unit. -/
def bankAnswer (g : Group) (res : List Results) (err : Option (Nat × Nat)) : Group :=
  match g.wait with
  | .inlineAccess got left advance flag =>
    { g with
      wait := .inlineAccess (got ++ res) (left - 1) advance flag
      homeFault := match err, g.homeFault with
        | some (code, va), none => some { code, addr := va, flag := none, home := none, deferred := false }
        | _, h => h }
  | _ => g

/-- What a bank unit's answer does to a flagged load. -/
def FLoad.answer (f : FLoad) (vals : List (Nat × Nat)) (err : Option (Nat × Nat)) : FLoad :=
  { f with left := f.left - 1, got := f.got ++ vals, err := f.err.orElse fun _ => err }

/-- The address of an access's lowest strand. -/
def Access.lead (a : Access) : Nat := (a.strands.head?.map (·.va)).getD 0

/-- A flagged load replaced. -/
def modLoad (s : State) (id : Nat) (f : FLoad → FLoad) : State := { s with floads := s.floads.map fun x => if x.id = id then f x else x }

/-- A shipped part of a unit's inline access performed at its bank unit and answered; that of a killed group is discarded (R195, R312). -/
def bankAccess (s : State) (uid : Nat) (acc : Access) (dest : Dest) : State :=
  match s.unit? uid with
  | none => s
  | some g =>
    match performFor s g.region acc with
    | .error e => s.modUnit uid fun g => bankAnswer g [] (some e)
    | .ok (vals, t) => t.modUnit uid fun g => bankAnswer g (if acc.kind.returns then [{ dest, vals }] else []) none

/-- A shipped part of a flagged load performed at its bank unit and answered. -/
def bankLoad (s : State) (l : Nat) (acc : Access) : State :=
  match s.floads.find? fun f => f.id == l with
  | none => s
  | some f =>
    match performFor s (regionOf s f.gid) acc with
    | .error e => modLoad s l fun x => x.answer [] (some e)
    | .ok (vals, t) => modLoad t l fun x => x.answer vals none

/-- `SHIPPED_SCRATCHPAD_ACCESS` (R195, R267): performed at the bank unit in arrival order, and answered. -/
def execShippedScratchpadAccess (m : Nat) (s : State) : Host.Outcome State Fault Refusal :=
  match s.ready? m with
  | some msg =>
    match msg.body with
    | .spad uid _ acc dest =>
      .next (if routeUp s msg.src msg.dst then bankAccess (s.dropMsg m) uid acc dest
        else (s.dropMsg m).modUnit uid fun g => bankAnswer g [] (some (0x18, acc.lead)))
    | .spadLoad l _ acc =>
      .next (if routeUp s msg.src msg.dst then bankLoad (s.dropMsg m) l acc else modLoad (s.dropMsg m) l fun x => x.answer [] (some (0x18, acc.lead)))
    | _ => .next s
  | none => .next s

/-- `FLAGGED_LOAD_COMPLETION` (R185): once the parts sent to bank units are answered the data arrive, the destinations are written, those of
strands whose pages are not resident with zero, and the flag clears; poisoned data set fault pending. A register read before is the old value
in every strand (DESIGN CHOICE, log 75: for each strand the rule leaves open which of the two a read gives). -/
def execFlaggedLoadCompletion (l : Nat) (s : State) : Host.Outcome State Fault Refusal :=
  match s.floads.find? fun f => f.id == l with
  | none => .next s
  | some f =>
    let res (vals : List (Nat × Nat)) : List Results := [{ dest := f.dest, vals := vals ++ (strands f.absent).map fun k => (k, 0) }]
    let gone (t : State) : State := { t with floads := t.floads.filter fun x => x.id != l }
    let fail (e : Nat × Nat) : State := deliver (gone s) f.core f.gid f.flag f.mask (res []) (some (flagFault e.1 e.2 none))
    if f.left ≠ 0 then .next s
    else match f.err with
    | some e => .next (fail e)
    | none =>
      match performFor s (regionOf s f.gid) f.acc with
      | .error e => .next (fail e)
      | .ok (vals, t) => .next (deliver (gone t) f.core f.gid f.flag f.mask (res (f.got ++ vals)) none)

/-- `FORWARDED_COMPLETION` (R46, R65, R323): applied to the unit it is owed to, wherever that stands on this module; held while that is
swapped out; sent on to another module; discarded when the group is gone. -/
def execForwardedCompletion (m : Nat) (s : State) : Host.Outcome State Fault Refusal :=
  match s.msg? m with
  | some msg =>
    match msg.body with
    | .completion gid flag mask res fault =>
      match owedUnit s gid mask with
      | none => .next (s.dropMsg m)
      | some g =>
        match g.loc with
        | .swapped => .next s
        | .away => .next (sendPeer (freeAnswered (s.dropMsg m) g.uid flag) g.homeDev 1 (.completion (exportGid s gid) flag mask res fault))
        | _ => .next (landCompletion (s.dropMsg m) g flag res fault)
    | .cause gid flag mask code addr =>
      match owedUnit s gid mask with
      | none => .next (s.dropMsg m)
      | some g =>
        if g.loc = .away then .next (sendPeer (s.dropMsg m) g.homeDev 1 (.cause (exportGid s gid) flag mask code addr))
        else .next ((s.dropMsg m).modUnit g.uid fun u => { u with causes := u.causes ++ [(flag, code, addr)] })
    | _ => .next s
  | none => .next s

/-! ## Posted operations (R188, R189, R309 to R311) -/

/-- The error record of a posted operation that is dropped (R188, R326). -/
def postedRecord (s : State) (p : Posted) (code addr : Nat) (home : Option (Nat × Nat)) : State :=
  match s.launch? p.launch with
  | none => s
  | some l =>
    let u := (owedUnit s p.gid allStrands).getD default
    errorRecord s l { typ := 3, code, addr, origin := l.node.regionId, core := p.core, slot := p.slot, grp := u.grp, team := u.team, home }

/-- An acknowledgement met by the issuing core (R188, R189): an error becomes pending in the owner that holds the lowest strand, or, when a
held release waits for the operation, a deferred fault of its next instruction, the held release being dropped. A unit that has been swapped
out since, and not admitted again, gets nothing (R196, R312). -/
def postedDone (s : State) (p : Posted) (err : Option Nat) : State :=
  let s := { s with posted := s.posted.filter fun q => q.id != p.id }
  match err with
  | none => s
  | some code =>
    let owner := leastBy (fun (a b : Group) => decide (lowest a.mask < lowest b.mask)) (s.units.filter fun g => p.owners.contains g.uid && g.loc != .swapped && g.haltPosted == 0)
    let waits (q : Posted) : Bool := q.held.isSome && q.after.contains p.id
    let isHeld := s.posted.any waits
    let s := { s with posted := s.posted.filter fun q => !waits q }
    match owner with
    | none => s
    | some g =>
      { s.putUnit (if isHeld ∧ g.deferred.isNone then { g with deferred := some (code, p.addr) }
          else { g with postErrs := g.postErrs ++ [(s.nextId, code, p.addr)] }) with nextId := s.nextId + 1 }

/-- `POSTED_ACK` (R188): an acknowledgement without a record is discarded. A dropped operation of another module is recorded here. -/
def execPostedAck (m : Nat) (s : State) : Host.Outcome State Fault Refusal :=
  match s.msg? m with
  | some msg =>
    match msg.body with
    | .ack id err =>
      let s := s.dropMsg m
      if !routeUp s msg.src msg.dst then .next s
      else match s.posted.find? fun p => p.id == id with
      | none => .next s
      | some p =>
        let s := match err with
          | some code => if p.dev = 0 then s else postedRecord s p code p.addr (some (p.die - 8, p.dev))
          | none => s
        .next (postedDone s p err)
    | _ => .next s
  | none => .next s

/-- `POSTED_ACK_TIMEOUT` (R188): 1,000,000 rc after it was sent, an operation counts as acknowledged with error 0x18. -/
def execPostedAckTimeout (p : Nat) (s : State) : Host.Outcome State Fault Refusal :=
  match s.posted.find? fun q => q.id == p with
  | none => .next s
  | some q =>
    if q.held.isSome ∨ s.now < q.sentAt + 1000000 then .next s
    else .next (postedDone (postedRecord s q 0x18 q.addr none) q (some 0x18))

/-- The window wait of a held release is over: that of the last cross-device operation issued before it on its core (R310). -/
def heldWindowOk (s : State) (p : Posted) (scope : Nat) : Bool :=
  scope != 4 || (match p.window with | some n => decide ((n + 2) * s.window * 1000 ≤ s.ptime) | none => true)

/-- A held operation sent: a later release, or a tile move with REL, that waits for it takes the window that it is stamped with. -/
def markSent (s : State) (p : Nat) (win : Option Nat) : State :=
  { s with
    posted := s.posted.map fun x =>
      if x.id = p then { x with held := none, sentAt := s.now, window := win, after := [] }
      else match win with
        | some n => if x.after.contains p then { x with window := some (max (x.window.getD 0) n) } else x
        | none => x
    moves := s.moves.map fun m => match win with
      | some n => if m.after.contains p then { m with window := some (max (m.window.getD 0) n) } else m
      | none => m }

/-- A held operation may be sent: what it waits for has been performed (R189), and the held ones before it have been sent (R299). -/
def heldReady (s : State) (p : Posted) : Bool :=
  match p.held with
  | none => false
  | some (_, scope) =>
    !(s.posted.any fun q => p.after.contains q.id || (p.behind.contains q.id && q.held.isSome)) &&
      !(s.floads.any fun f => p.after.contains f.id) && heldWindowOk s p scope

/-- `HELD_RELEASE_SEND` (R189). -/
def execHeldReleaseSend (p : Nat) (s : State) : Host.Outcome State Fault Refusal :=
  match s.posted.find? fun q => q.id == p with
  | none => .next s
  | some q =>
    match q.held with
    | none => .next s
    | some (acc, _) =>
      if !heldReady s q then .next s
      else
        .next (launchPosted (markSent s p (windowTo s q.dev)) q acc (((s.launch? q.launch).map (·.node.regionId)).getD 0))

/-- An answer to whoever sent a message: a core of this module, or the module that an imported message came from. -/
def answer (s : State) (m : Msg) (body : Payload) : State :=
  if 2048 ≤ m.src then sendPeer s (peerOf m.src) 1 body else s.send .reply (1024 + m.dst) (dieOf m.src) body

/-- The record and the marks of an operation performed after its deadline (R311). -/
def overrunMark (s : State) (region n addr : Nat) : State :=
  let s := match regionLaunch s region with
    | some l => errorRecord s l { typ := 3, code := 0x1C, addr, origin := region, detail := bytesLE 8 n ++ bytesLE 8 addr }
    | none => s
  let s := s.send .request 1040 16 (.overrun region n addr)
  (s.peers.filter fun p => p.valid && p.dev != s.devNum).foldl (fun t p => sendPeer t p.dev 0 (.overrun region n addr)) s

/-- `POSTED_OP_ARRIVAL` (R188, R309, R311): performed at the memory-side unit and acknowledged, or dropped with an error record; passed on
or held for a page that moves (R284). -/
def execPostedOpArrival (m : Nat) (s : State) : Host.Outcome State Fault Refusal :=
  match s.ready? m with
  | some msg =>
    match msg.body with
    | .posted id acc window region =>
      let stack := ((acc.places.head?).getD 0) / 2 ^ 36
      let va := (acc.strands.head?.map (·.va)).getD 0
      let drop (t : State) (code addr : Nat) : State :=
        let t := match t.posted.find? fun p => p.id == id && 2048 > msg.src with
          | some p => postedRecord t p code addr (some (stack, 0))
          | none => t
        answer t msg (.ack id (some code))
      if !stackUp s stack || !routeUp s msg.src msg.dst then .next (drop (s.dropMsg m) 0x18 va)
      else if s.dies.getD (8 + stack) 0 = 1 then .next s
      else match acc.places.findSome? (moveOver s) with
      | some p =>
        let a := acc.forward p
        .next ((s.dropMsg m).send .request msg.src (8 + p.newPa / 2 ^ 36) (.posted id a window region))
      | none =>
        if (acc.places.findSome? (moveInto s)).isSome then .next s
        else
          let late (t : State) : State := match window with
            | some n => if (n + 2) * s.window * 1000 ≤ s.ptime + 500 then overrunMark t region n va else t
            | none => t
          match performAll (s.dropMsg m) acc with
          | .error (code, addr) => .next (drop (late (s.dropMsg m)) code addr)
          | .ok (_, t) => .next (answer (late t) msg (.ack id none))
    | _ => .next s
  | none => .next s

/-- `WINDOW_OVERRUN_MARK` (R311): a mark for a region arrives. -/
def execWindowOverrunMark (region : Nat) (s : State) : Host.Outcome State Fault Refusal :=
  match s.net.findSome? fun m => match m.body with | .overrun r n a => if r = region then some (m, n, a) else none | _ => none with
  | none => .next s
  | some (m, n, a) =>
    .next { s.dropMsg m.id with overruns := if s.overruns.any fun x => x.1 == region then s.overruns else s.overruns ++ [(region, n, a)] }

/-- `SYSTEM_RELEASE_WINDOW_PASSED` (R310): the wait of a system-scope release ends. -/
def execSystemReleaseWindowPassed (u : Nat) (s : State) : Host.Outcome State Fault Refusal :=
  match s.unit? u with
  | some g =>
    match g.wait with
    | .window t => .next (if t ≤ s.ptime then s.putUnit { g with wait := .none } else s)
    | _ => .next s
  | none => .next s

end Sys2Proof.Machine
end

