-- ==== Sys2Proof/Machine/Sync.lean ====
section
/-! DEFINITION. `MIGR`, `HOME`, `REJOIN`, `BAR` and `FENCE`, opcodes 0x68 to 0x6A, 0x6E and 0x6F (R198 to R206), and the messages of
barriers and exits (R37, R39, R202). -/

namespace Sys2Proof.Machine

/-! ## MIGR (R198, R199) -/

/-- A migration without an access: the instruction ends, then the unit leaves. -/
def Ctx.migrate (c : Ctx) (i : Instr) (dev die target : Nat) : State :=
  match leaveWait c.s c.g dev die target with
  | some s => hold s
  | none =>
    let s := c.pass i
    match s.unit? c.g.uid with
    | some g => depart s g { dev, target }
    | none => s

/-- A migration to a core of this module (R198). -/
def Ctx.migrateCore (c : Ctx) (i : Instr) (target : Nat) : State :=
  if target = c.g.core then c.pass i
  else if !coreUp c.s target then c.fail i 0x18 target
  else c.migrate i 0 (dieOf target) target

/-- A migration to a core of another module (R52). -/
def Ctx.migratePeer (c : Ctx) (i : Instr) (dev die target : Nat) : State :=
  if !peerReach c.s (dieOf c.g.core) dev then c.fail i 0x18 target
  else c.migrate i dev die target

/-- `MIGR.core` (R198). -/
def execMigrCore (a : BitVec 7) : State → Host.Outcome State Fault Refusal :=
  issue (.migrCore a) fun c => c.migrateCore (.migrCore a) (bits (c.sreg a.toNat).toNat 0 10)

/-- How an address that is named but not accessed is read (R198, R200, R209, R266): the global address, or why there is none. -/
inductive Named where
  | global (g : Nat)
  | scratch
  | lattice
  | bad
  deriving DecidableEq, Repr

/-- A named address of a strand, converted with n = 1. -/
def Ctx.named (c : Ctx) (k a : Nat) : Named :=
  let top := a / 2 ^ 56
  if top = 0 then .global a
  else if top = 0xFC then (match privateConv (launchOf c.s c.g) c.g k 1 a with | some g => .global g | none => .bad)
  else if top = 0xFB then .lattice
  else if 0xFD ≤ top then .scratch
  else .bad

/-- The leading address of a `MIGR.addr`. -/
def Ctx.leading (c : Ctx) (a : BitVec 7) : Nat := pairValue (c.vsrc a.toNat c.low) (c.vsrc (a.toNat + 1) c.low)

/-- The page of an address that is named but not accessed; none where no home is named. -/
def Ctx.namedPage (c : Ctx) (k a : Nat) : Option Page :=
  match c.named k a with
  | .global g => (lookupPage c.s c.g.core (rootOf c.s c.g) g).toOption
  | _ => none

/-- Fault 0x42 of what would cross to another module at S1 (R28, R349). -/
def Ctx.crossAtS1 (c : Ctx) (cross : Bool) : Option Nat := if c.s.service == 1 && cross then some 0x42 else none

/-- `MIGR.addr` (R198): only the home is translated; a non-resident page still has its home. -/
def execMigrAddr (a : BitVec 7) : State → Host.Outcome State Fault Refusal :=
  issueFar (.migrAddr a) (fun _ => [.vec a.toNat 2]) (fun c => c.crossAtS1 ((c.namedPage c.low (c.leading a)).any fun p => p.device != 0)) <|
  issue (.migrAddr a) fun c =>
    let i : Instr := .migrAddr a
    let x := c.leading a
    match c.named c.low x with
    | .scratch => c.pass i
    | .lattice => c.pass i
    | .bad => c.fail i 0x15 x
    | .global g =>
      match lookupPage c.s c.g.core (rootOf c.s c.g) g with
      | .error e => c.failTarget i x (noLeafFault .locate e, e)
      | .ok p =>
        let target := arrivalCore p.home g
        if p.device ≠ 0 then c.migratePeer i p.device (8 + p.home) target else c.migrateCore i target

/-- `MIGR.launch` (R198): back to the launch core, on the module that holds the launch. -/
def execMigrLaunch : State → Host.Outcome State Fault Refusal :=
  issueFar .migrLaunch (fun _ => []) (fun c => c.crossAtS1 (homeOf c.g.gid).isSome) <|
  issue .migrLaunch fun c =>
    match homeOf c.g.gid with
    | none => c.migrateCore .migrLaunch c.g.launchCore
    | some d => c.migratePeer .migrLaunch d (dieOf c.g.launchCore) c.g.launchCore

/-! ## HOME (R200) -/

/-- The word of `HOME` for a global address. -/
def homeWord (core : Nat) (a : Nat) (p : Page) : Nat :=
  let here := p.device == 0 && isStackCore core && stackOf core == p.home
  pack [(6, bits a 8 6), (4, p.home), (12, p.device), (1, bitNat here), (1, bitNat p.dup), (1, bitNat p.res)]

/-- The word of a strand; none for fault 0x15. -/
def Ctx.homeOfStrand (c : Ctx) (k a : Nat) : Option Nat :=
  match c.named k a with
  | .bad => none
  | .scratch => some (2 ^ 26)
  | .lattice => some (2 ^ 26)
  | .global g =>
    match lookupPage c.s c.g.core (rootOf c.s c.g) g with
    | .error _ => some (2 ^ 25)
    | .ok p => some (homeWord c.g.core g p)

/-- The error records of the bad entries that the walks of a `HOME` meet (R277, R369). -/
def Ctx.homeRecords (c : Ctx) (a : Nat) : State :=
  c.active.foldl (fun t k =>
    match c.named k (c.src64 a k) with
    | .global g =>
      match lookupPage c.s c.g.core (rootOf c.s c.g) g with
      | .error (some w) => walkRecord t c.g 0x10 (c.src64 a k) w
      | _ => t
    | _ => t) c.s

/-- `HOME` (R200). -/
def execHome (d a : BitVec 7) : State → Host.Outcome State Fault Refusal :=
  issue (.home d a) fun c =>
    let i : Instr := .home d a
    let x (k : Nat) := c.src64 a.toNat k
    let own (k : Nat) := if c.uni then c.low else k
    match c.active.find? fun k => (c.homeOfStrand k (x k)).isNone with
    | some k => c.fail i 0x15 (x k)
    | none =>
      { c with s := c.homeRecords a.toNat }.retire i none (c.dst d.toNat 0 (perStrand fun k => BitVec.ofNat 32 ((c.homeOfStrand (own k) (x (own k))).getD 0))) (nextPc c.g.pc)

/-! ## REJOIN (R36, R201) -/

/-- The arrival of a unit that stands on its anchor core (R36): its registers stand in place when it shares the slot of its record. -/
def rejoinHere (s : State) (g : Group) : State :=
  match s.slot? g.core g.slot, recordSlot s g.gid g.core g.rejoin g.mask with
  | some sl, some (x, _) =>
    if x.slot = g.slot then arriveRecord s g none
    else vacate (arriveRecord s g (some (carry g sl false []).v)) g.core g.slot g.uid
  | _, _ => vacate (s.dropUnit g.uid) g.core g.slot g.uid

/-- `REJOIN` (R201). -/
def execRejoin (b : BitVec 5) : State → Host.Outcome State Fault Refusal :=
  issue (.rejoin b) fun c =>
    let i : Instr := .rejoin b
    let k := c.g.rejoin
    if k = 0 ∨ (b.toNat ≠ 0 ∧ b.toNat ≠ k) then c.pass i
    else if !(owed c.s c.g).isEmpty then hold (c.s.modUnit c.g.uid fun g => g.awaits (owed c.s c.g))
    else match pendingOf c.g c.g.awaited with
    | some (f, e) => c.failFlag i f e
    | none =>
      if c.g.anchorDev = c.s.devNum ∧ c.g.anchor = c.g.core ∧ anchorSaved c.s c.g then hold c.s
      else if c.g.anchorDev = c.s.devNum ∧ c.g.anchor = c.g.core then
        let s := (c.pass i).modUnit c.g.uid Group.clearFlags
        match s.unit? c.g.uid with
        | some g => rejoinHere s g
        | none => s
      else
        let dev := if c.g.anchorDev = c.s.devNum then 0 else c.g.anchorDev
        if dev ≠ 0 ∧ c.s.service = 1 then c.fail i 0x42 0
        else if dev ≠ 0 ∧ !peerReach c.s (dieOf c.g.core) dev then c.fail i 0x18 c.g.anchor
        else match leaveWait c.s c.g dev (dieOf c.g.anchor) c.g.anchor with
        | some s => hold s
        | none =>
          let s := (c.pass i).modUnit c.g.uid Group.clearFlags
          match s.unit? c.g.uid with
          | some g => depart s g { dev, target := c.g.anchor, rejoin := true }
          | none => s

/-- `EXIT_REMOVAL_MESSAGE` (R37): the removal reaches a record on another core; with no barrier named, the home module takes the strands
from the part of the group that stands elsewhere; the I/O die of another module tells it of them. -/
def execExitRemovalMessage (m : Nat) (s : State) : Host.Outcome State Fault Refusal :=
  match s.ready? m with
  | some msg =>
    match msg.body with
    | .exitRemove gid core bar mask after =>
      if bar = 0 then
        match homeOf gid with
        | some d =>
          if s.posted.any fun p => after.contains p.id then .next s
          else .next (sendPeer (s.dropMsg m) d 0 (.exitRemove (exportGid s gid) 0 0 mask []))
        | none =>
        match s.units.find? fun g => g.gid == gid && g.loc == .away && g.mask &&& mask != 0 with
        | none => .next (s.dropMsg m)
        | some g =>
          if teamAway s g.launch g.team then .next s else
          let left := g.mask &&& ~~~mask
          let s := s.dropMsg m
          .next (afterExit (if left = 0 then s.dropUnit g.uid else s.putUnit { g with mask := left }) g)
      else .next (leaveRecords 32 (s.dropMsg m) gid core s.devNum core bar mask)
    | _ => .next s
  | none => .next s

/-! ## BAR (R202 to R204) -/

/-- A `BAR` sent to its team's anchor: the count that it gives travels as the number above it, 0 for none. -/
def barMsg (gid : Nat) (mask : Word) (id scope kind : Nat) (count : Option Nat) : Payload :=
  .barArrive gid mask id scope kind (match count with | some n => n + 1 | none => 0)

/-- A `BAR` at its team's anchor core, or sent there, its release half over (R39, R202). -/
def Ctx.barGo (c : Ctx) (i : Instr) (kind scope id : Nat) (count : Option Nat) : State :=
  let away : State := (c.retire i none [] c.g.pc).modUnit c.g.uid fun g => { g with wait := .barSent id scope kind }
  match homeOf c.g.gid, c.s.team? c.g.launch c.g.team with
  | some d, _ =>
    if c.s.service = 1 then c.fail i 0x42 0
    else if !peerReach c.s (dieOf c.g.core) d then c.fail i 0x18 0
    else sendPeer away d 0 (barMsg (exportGid c.s c.g.gid) c.g.mask id scope kind count)
  | none, none => c.pass i
  | none, some t =>
    if t.anchor = c.g.core then
      match barEffect (c.pass i) c.g t id scope kind count with
      | none => c.fail i 0x62 0
      | some (s, none) => s
      | some (s, some tok) => s.modUnit c.g.uid fun g => { g with wait := .bar id scope tok }
    else away.send .request c.g.core (dieOf t.anchor) (barMsg c.g.gid c.g.mask id scope kind count)

/-- A `BAR` of kind 0 arrive, 1 wait, 2 sync, 3 init, with the count that it gives. -/
def Ctx.bar (c : Ctx) (i : Instr) (kind scope id : Nat) (count : Option Nat) : State :=
  if (kind = 1 ∨ kind = 2) ∧ overrunHit c.s c.g scope then c.fail i 0x1C 0
  else if kind = 0 ∨ kind = 2 then c.release i scope false (c.barGo i kind scope id count)
  else c.barGo i kind scope id count

/-- The count that a `BAR` gives in a scalar. -/
def Ctx.barCount (c : Ctx) (b : BitVec 7) (k : BitVec 1) : Option Nat := if k = 1#1 then some (c.sreg b.toNat).toNat else none

/-- `BAR.arrive` (R203). -/
def execBarArrive (s : BitVec 3) (i : BitVec 5) (b : BitVec 7) (k : BitVec 1) : State → Host.Outcome State Fault Refusal :=
  issue (.barArrive s i b k) fun c => c.bar (.barArrive s i b k) 0 s.toNat i.toNat (c.barCount b k)

/-- `BAR.wait` (R203). -/
def execBarWait (s : BitVec 3) (i : BitVec 5) (b : BitVec 7) (k : BitVec 1) : State → Host.Outcome State Fault Refusal :=
  issue (.barWait s i b k) fun c => c.bar (.barWait s i b k) 1 s.toNat i.toNat (c.barCount b k)

/-- `BAR.sync` (R203). -/
def execBarSync (s : BitVec 3) (i : BitVec 5) (b : BitVec 7) (k : BitVec 1) : State → Host.Outcome State Fault Refusal :=
  issue (.barSync s i b k) fun c => c.bar (.barSync s i b k) 2 s.toNat i.toNat (c.barCount b k)

/-- `BAR.init` (R203). -/
def execBarInit (s : BitVec 3) (i : BitVec 5) (b : BitVec 7) (k : BitVec 1) : State → Host.Outcome State Fault Refusal :=
  issue (.barInit s i b k) fun c => c.bar (.barInit s i b k) 3 s.toNat i.toNat (c.barCount b k)

/-- The unit that strands of a group belong to. -/
def unitBy (s : State) (gid : Nat) (mask : Word) : Option Group :=
  s.units.find? fun g => g.gid == gid && g.mask &&& mask != 0

/-- A unit that waits for an answer that will not come raises fault 0x18 at its instruction (R337, R338; DEDUCED, log 32). -/
def failWaiter (s : State) (gid : Nat) (mask : Word) : State :=
  match unitBy s gid mask with
  | none => s
  | some g => s.putUnit { g with wait := .none, homeFault := some { code := 0x18, addr := 0, flag := none, home := none, deferred := false } }

/-- The same for the unit that a message of a group waits for, here or on the module that the message came from. -/
def failAsker (s : State) (m : Msg) (gid : Nat) (mask : Word) : State :=
  if 2048 ≤ m.src then sendPeer s (peerOf m.src) 1 (.completion (exportGid s gid) 12 mask [] (some (flagFault 0x18 0 none)))
  else failWaiter s gid mask

/-- A unit that stands on another module cut to given strands. -/
def cutAway (s : State) (g : Group) (mask : Word) : State × Group :=
  if g.loc = .away ∧ g.mask &&& ~~~mask ≠ 0 then
    let part := { g with mask := g.mask &&& mask, uid := s.nextId }
    ({ (s.putUnit { g with mask := g.mask &&& ~~~mask }).addUnit part with nextId := s.nextId + 1 }, part)
  else (s, g)

/-- `BARRIER_ARRIVAL_MESSAGE` (R39, R202): counted at the team anchor core; the unit is answered, or waits. -/
def execBarrierArrivalMessage (m : Nat) (s : State) : Host.Outcome State Fault Refusal :=
  match s.ready? m with
  | some msg =>
    match msg.body with
    | .barArrive gid mask k scope kind n =>
      match unitBy s gid mask with
      | none => .next (s.dropMsg m)
      | some u =>
        if !routeUp s msg.src msg.dst then .next (failAsker (s.dropMsg m) msg gid mask)
        else if teamAway s u.launch u.team then .next s else
        let (s, u) := cutAway (s.dropMsg m) u mask
        let reply (t : State) (fault : Bool) : State :=
          if u.loc = .away then sendPeer (t.modUnit u.uid fun g => { g with homeDev := peerOf msg.src }) (peerOf msg.src) 1 (.barRelease (exportGid s gid) mask fault)
          else t.send .reply (1024 + msg.dst) (dieOf u.core) (.barRelease gid mask fault)
        match s.team? u.launch u.team with
        | none => .next (reply s false)
        | some t =>
          match barEffect s u t k scope kind (if n = 0 then none else some (n - 1)) with
          | none => .next (reply s true)
          | some (x, none) => .next (reply x false)
          | some (x, some tok) =>
            .next (x.modUnit u.uid fun g =>
              let g := if g.loc = .away then { g with homeDev := peerOf msg.src } else g.advance
              { g with wait := .bar k scope tok })
    | _ => .next s
  | none => .next s

/-- `BARRIER_RELEASE_MESSAGE` (R202, R203): the answer to an arrival, or the end of a wait; fault 0x62 is raised by the `BAR`. -/
def execBarrierReleaseMessage (m : Nat) (s : State) : Host.Outcome State Fault Refusal :=
  match s.msg? m with
  | some msg =>
    match msg.body with
    | .barRelease gid mask fault =>
      let s := s.dropMsg m
      match unitBy s gid mask with
      | none => .next s
      | some u =>
        match u.wait with
        | .barSent _ scope kind =>
          .next (s.putUnit (if fault then { u with wait := .none, homeFault := some { code := 0x62, addr := 0, flag := none, home := none, deferred := false } }
            else u.advance.endWait s (if kind = 1 ∨ kind = 2 then scope else 0)))
        | .bar _ scope _ => .next (if u.loc = .swapped then s else s.putUnit (u.endWait s scope))
        | _ => .next s
    | _ => .next s
  | none => .next s

/-! ## FENCE (R205, R206) -/

/-- `FENCE` (R206): a fence at scope 0 waits for nothing; the acquire half waits for earlier flagged loads, with `.tm` for tile moves. -/
def execFence (sc : BitVec 3) (t : BitVec 1) (m : BitVec 2) : State → Host.Outcome State Fault Refusal :=
  issue (.fence sc t m) fun c =>
    let i : Instr := .fence sc t m
    let scope := sc.toNat
    let tile := t == 1#1
    let acq := bit m.toNat 0
    let rel := bit m.toNat 1
    let acquire : State :=
      if acq && scope != 0 && (loadsOut c.s c.g || (tile && movesOut c.s c.g)) then hold c.s else c.pass i
    if acq && overrunHit c.s c.g scope then c.fail i 0x1C 0
    else if rel then c.release i scope tile acquire
    else acquire

/-! ## Chains (R60, R319) -/

/-- `CHAIN_WAIT_CUT` (R319): the holds of a stay chain have reached 64 ac: the chain ends. -/
def execChainWaitCut (u : Nat) (s : State) : Host.Outcome State Fault Refusal :=
  match s.unit? u with
  | none => .next s
  | some g =>
    match s.slot? g.core g.slot with
    | none => .next s
    | some sl => .next (if 0 < g.chainLen ∧ 64 ≤ g.chainHold then endChain s g sl else s)

end Sys2Proof.Machine
end

