-- ==== Sys2Proof/Machine/Remote.lean ====
section
/-! DEFINITION. Remote calls, opcodes 0x6B to 0x6D (R208 to R222): `RCALL`, `RRET`, `RSTAT`, visitors, replies, retries and the reply
cache. -/

namespace Sys2Proof.Machine

/-! ## The table and the executor (R100, R209) -/

/-- The entry of the launch's remote table; an entry that is not valid has no registers. -/
def Ctx.remoteEntry (c : Ctx) (e : BitVec 4) : RemoteEntry :=
  let r := (launchOf c.s c.g).remote.getD e.toNat { offset := 0, payload := 0, reply := 0, valid := false }
  if r.valid then r else { r with payload := 0, reply := 0 }

/-- The registers that a call names: reply registers, address pair, payload registers (R91 step 5, R209). -/
def Ctx.callOpnds (c : Ctx) (r a p : BitVec 5) (e : BitVec 4) : List Opnd :=
  let t := c.remoteEntry e
  [.dst r.toNat t.reply, .src a.toNat 2, .src p.toNat t.payload]

/-- The payload registers as a call carries them: one value per strand, or one value each in uniform form. -/
def Ctx.payload (c : Ctx) (p : BitVec 5) (n : Nat) : List (List Word) :=
  (List.range n).map fun j => perStrand fun k => if c.uni then c.sreg (p.toNat + j) else if inMask c.g.mask k then c.v (p.toNat + j) k else 0

/-- The executor that the leading address selects, module and core, with the place of the address there, or the fault of R209 steps 2 to 5. -/
def Ctx.executor (c : Ctx) (a : Nat) : Except ReadFault (Nat × Nat × Nat) :=
  match c.named c.low a with
  | .bad => .error (0x15, none)
  | .lattice => .error (0x32, none)
  | .scratch => .error (0x1B, none)
  | .global g =>
    match lookupPage c.s c.g.core (rootOf c.s c.g) g with
    | .error e => .error (noLeafFault .locate e, e)
    | .ok p => .ok (p.device, arrivalCore p.home g, p.pa g)

/-- The executor can be reached from a core: its die in service, its module up (R209 step 6, R345). -/
def executorUp (s : State) (core dev ex : Nat) : Bool := if dev = 0 then stackUp s (stackOf ex) else peerReach s (dieOf core) dev

/-! ## Sequence numbers (R219) -/

/-- The sequence number that a core would give next may be used: it was last assigned 1,000,000 rc ago or never. -/
def seqFree (s : State) (cs : CoreState) : Bool :=
  match cs.callTimes.lookup cs.callSeq with
  | some t => decide (t + 1000000 ≤ s.now)
  | none => true

/-- A sequence number taken by a core; times older than 1,000,000 rc no longer matter. -/
def takeSeq (s : State) (cs : CoreState) : State :=
  s.putCore { cs with
    callSeq := (cs.callSeq + 1) % 65536
    callTimes := (cs.callSeq, s.now) :: cs.callTimes.filter fun p => p.1 != cs.callSeq && decide (s.now < p.2 + 1000000) }

/-! ## Records (R211) -/

/-- The call record of a unit's flag on this module: its own strands made the call, or are owed its reply. It stands until the flag clears. -/
def callOf (s : State) (g : Group) (flag : Nat) : Option Call :=
  s.calls.find? fun c => c.gid == g.gid && c.flag == flag && (c.mask &&& g.mask != 0 || (owedUnit s c.gid c.mask).any fun u => u.uid == g.uid)

/-- A call record replaced. -/
def putCall (s : State) (c : Call) : State := { s with calls := s.calls.map fun x => if x.id = c.id then c else x }

/-- A call message, or a retry, sent to its executor; a module that cannot be reached loses it (R218). -/
def sendCall (s : State) (core dev : Nat) (retry : Bool) (m : CallMsg) : State :=
  if dev = 0 then s.send .request core (dieOf m.dstCore) (if retry then .retry m else .call m)
  else if peerReach s (dieOf core) dev then
    let m := { m with gid := exportGid s m.gid, srcDev := s.devNum }
    sendPeer s dev 0 (if retry then .retry m else .call m)
  else s

/-- The message of a call of a unit. -/
def callMsg (g : Group) (l : Launch) (e : RemoteEntry) (payload : List (List Word)) (seq flag core : Nat) (uni : Bool) (mask : Word)
    (dst pa : Nat) : CallMsg :=
  { launch := g.launch, gid := g.gid, team := g.team, grp := g.grp, entry := wrap 64 (l.kernel + e.offset), payload, replies := e.reply, seq, flag,
    mask, uni, srcDev := 0, srcCore := core, dstCore := dst, pa }

/-! ## RCALL (R208 to R210) -/

/-- A new call sent and recorded on its flag (R210, R211): behind what the group has held for the executor's die (R299, R304), and after the
marker of a page that moves (R284). -/
def Ctx.call (c : Ctx) (i : Instr) (fl : Nat) (r p : BitVec 5) (e : BitVec 4) (dev core pa : Nat) : State :=
  let l := launchOf c.s c.g
  let t := c.remoteEntry e
  let cs := c.s.coreState c.g.core
  if !(heldTo c.s c.g dev (dieOf core)).isEmpty || (dev == 0 && markerHeld c.s c.g.core pa) then hold c.s
  else if !seqFree c.s cs then hold (c.s.modUnit c.g.uid fun g => { g with wait := .callSeq })
  else
    let m := callMsg c.g l t (c.payload p t.payload) cs.callSeq fl c.g.core c.uni c.g.mask core pa
    let s := takeSeq ({ c with g := { c.g with wait := .none } }.pass i) cs
    let rec_ : Call :=
      { id := s.nextId, gid := c.g.gid, launch := c.g.launch, mask := c.g.mask, flag := fl, core := c.g.core, seq := cs.callSeq, exDev := dev,
        exCore := core, entry := e.toNat, rb := r.toNat, replies := t.reply, vwb := c.g.vwb, swb := c.g.swb, uni := c.uni,
        deadline := c.s.now + 1000 * l.rTimeout, overdue := false, retried := false, delivered := false,
        answered := false, pa }
    let s := { s with nextId := s.nextId + 1, calls := s.calls ++ [rec_] }
    let s := s.modUnit c.g.uid fun g => { g.arm fl false with flagDevs := eraseKey fl g.flagDevs }
    sendCall s c.g.core dev false m

/-- The executor of the address in A lies on another module. -/
def Ctx.farExecutor (c : Ctx) (a : BitVec 5) : Bool :=
  match c.executor (c.addr a.toNat 0 c.low) with | .ok (d, _) => d != 0 | .error _ => false

/-- `RCALL` (R208 to R210); at S1 a call to another module is absent (R207). -/
def execRcall (h : BitVec 2) (r : BitVec 5) (l : BitVec 2) (a p : BitVec 5) (e : BitVec 4) : State → Host.Outcome State Fault Refusal :=
  let i : Instr := .rcall h r l a p e
  issueFar i (fun _ => [.src a.toNat 2]) (fun c => c.crossAtS1 (c.farExecutor a)) <|
  issueOps i (fun c => c.callOpnds r a p e) fun c =>
    let x := c.addr a.toNat 0 c.low
    if !(c.remoteEntry e).valid then c.fail i 0x01 0
    else match c.executor x with
    | .error f => c.failTarget i x f
    | .ok (dev, core, pa) =>
      if !executorUp c.s c.g.core dev core then c.fail i 0x18 x
      else c.call i (4 * h.toNat + l.toNat) r p e dev core pa

/-- `CALL_SEQUENCE_REUSE_WAIT` (R219): the number that a waiting call would take may be used again, and the call is issued. -/
def execCallSequenceReuseWait (u : Nat) (s : State) : Host.Outcome State Fault Refusal :=
  match s.unit? u with
  | none => .next s
  | some g =>
    match g.wait, slotIssue g with
    | .callSeq, some (w, iss) =>
      if !seqFree s (s.coreState g.core) then .next s
      else match decodeWord w with
        | .ok (.rcall h r l a p e) => execRcall h r l a p e { s.putUnit { g with wait := .none } with cur := iss }
        | _ => .next s
    | _, _ => .next s

/-! ## Retries at the caller (R220) -/

/-- A call record after a retry has been sent for it. -/
def Call.retry (k : Call) (now timeout : Nat) : Call :=
  { k with retried := true, overdue := false, delivered := false, deadline := now + 1000 * timeout }

/-- A retry sent from the issuing core (R220). -/
def retryFrom (s : State) (k : Call) (payload : List (List Word)) : State :=
  let l := (s.launch? k.launch).getD default
  let u := (owedUnit s k.gid k.mask).getD default
  let e := l.remote.getD k.entry default
  let m := callMsg { u with launch := k.launch, gid := k.gid } l e payload k.seq k.flag k.core k.uni k.mask k.exCore k.pa
  let s := putCall s (k.retry s.now l.rTimeout)
  sendCall s k.core k.exDev true m

/-- A question to the issuing core: on this module, or by a frame (R220, R221, R243); the unit waits for its answer. -/
def Ctx.ask (c : Ctx) (i : Instr) (dev : Option Nat) (core : Nat) (dest : Dest) (body : Nat → Payload) : State :=
  let s := (c.retire i none [] c.g.pc).modUnit c.g.uid fun g => { g with wait := .query dest }
  match dev with
  | none => s.send .request c.g.core (dieOf core) (body c.g.gid)
  | some d => sendPeer s d 0 (body (exportGid c.s c.g.gid))

/-- A question to another module that cannot be asked: fault 0x42 at S1, else 0x18 (R345, R349). -/
def Ctx.cannotAsk (c : Ctx) (dev : Nat) : Option Nat :=
  if c.s.service = 1 then some 0x42 else if !peerReach c.s (dieOf c.g.core) dev then some 0x18 else none

/-- The module that keeps the record of a flag of this unit, where it is another. -/
def Ctx.keeper (c : Ctx) (flag : Nat) : Option Nat := if (c.g.flag flag).set then c.g.flagDevs.lookup flag else none

/-- `RCALL.retry` (R220): without a record it only ends the chain. Of the checks of step 8 of R209 it makes none but that of ENTRY (DESIGN
CHOICE, log 76: the rule does not say whether it makes them). On another module than the issuing core's it waits for the answer, which may
be the fault of an ENTRY that differs; a retry lost on its way is not reported (R218). -/
def execRcallRetry (h : BitVec 2) (r : BitVec 5) (l : BitVec 2) (a p : BitVec 5) (e : BitVec 4) : State → Host.Outcome State Fault Refusal :=
  let i : Instr := .rcallRetry h r l a p e
  let fl := 4 * h.toNat + l.toNat
  issueFar i (fun _ => []) (fun c => c.crossAtS1 ((callOf c.s c.g fl).any fun k => k.exDev != 0)) <|
  issueOps i (fun c => c.callOpnds r a p e) fun c =>
    let payload := c.payload p (c.remoteEntry e).payload
    let withdraw (t : State) : State := t.modUnit c.g.uid fun g => { g with causes := g.causes.filter fun x => x.1 != fl || x.2.1 != 0x21 }
    match callOf c.s c.g fl with
    | none =>
      match c.keeper fl with
      | some d =>
        match c.cannotAsk d with
        | some 0x42 => c.fail i 0x42 0
        | some _ => c.pass i
        | none => withdraw (c.ask i (some d) 0 { reg := none, pair := false, uni := false } fun gid => .askRetry payload e.toNat gid fl c.g.mask)
      | none => c.pass i
    | some k =>
      if k.entry ≠ e.toNat then c.fail i 0x01 0
      else if k.core = c.g.core then retryFrom (c.pass i) k payload
      else (c.pass i).send .request c.g.core (dieOf k.core) (.askRetry payload e.toNat c.g.gid fl c.g.mask)

/-! ## RSTAT (R221) -/

/-- The status word of a flag's call. -/
def callWord (k : Option Call) (f : Flag) : Nat :=
  let fault := pack [(1, bitNat f.pending.isSome)]
  let code := (f.pending.map (·.code)).getD 0
  match k with
  | none => pack [(3, 0), (1, fault), (4, 0), (8, code), (16, 0)]
  | some k => pack [(1, 1), (1, bitNat k.overdue), (1, bitNat k.retried), (1, fault), (4, k.entry), (8, code), (16, k.seq)]

/-- The same 64-bit value for every strand of a destination. -/
def Dest.same (d : Dest) (x : Nat) : Results := { dest := d, vals := (List.range 32).map fun k => (k, x) }

/-- `RSTAT` (R221). -/
def execRstat (d : BitVec 7) (f : BitVec 4) : State → Host.Outcome State Fault Refusal :=
  issue (.rstat d f) fun c =>
    let i : Instr := .rstat d f
    let k := f.toNat
    let dest := c.dest d.toNat false
    let now (x : Option Call) : State :=
      c.retire i none (c.dst d.toNat 0 (perStrand fun _ => BitVec.ofNat 32 (callWord x (c.g.flag k)))) (nextPc c.g.pc)
    match callOf c.s c.g k with
    | some x => if x.core = c.g.core then now (some x) else c.ask i none x.core dest fun gid => .askCall gid k c.g.mask dest
    | none =>
      match c.keeper k with
      | some dv =>
        match c.cannotAsk dv with
        | some code => c.fail i code 0
        | none => c.ask i (some dv) 0 dest fun gid => .askCall gid k c.g.mask dest
      | none => now none

/-! ## The executor (R212, R218 to R220) -/

/-- Key of a cache entry. -/
def cacheHit (e : CacheEntry) (stack : Nat) (m : CallMsg) : Bool := e.stack == stack && e.dev == m.srcDev && e.core == m.srcCore && e.seq == m.seq

/-- `b` lies below `a` in modulo order. -/
def seqBelow (b a : Nat) : Bool := b != a && decide ((a + 65536 - b) % 65536 < 32768)

/-- The watermark of a source at a die. -/
def watermark? (s : State) (stack dev core : Nat) : Option Watermark :=
  s.watermarks.find? fun w => w.stack == stack && w.dev == dev && w.core == core

/-- A watermark raised by an admitted call. -/
def raiseMark (s : State) (stack : Nat) (m : CallMsg) : State :=
  match watermark? s stack m.srcDev m.srcCore with
  | none => { s with watermarks := s.watermarks ++ [{ stack, dev := m.srcDev, core := m.srcCore, seq := m.seq, lastFree := s.now }] }
  | some w =>
    if seqBelow w.seq m.seq then
      { s with watermarks := s.watermarks.map fun x => if x.stack = stack ∧ x.dev = m.srcDev ∧ x.core = m.srcCore then { x with seq := m.seq } else x }
    else s

/-- The launch under whose region a call's body runs (R212, R281). -/
def callLaunch (s : State) (m : CallMsg) : Option Launch :=
  s.launches.find? fun l => l.idx == m.launch && (!l.ended || l.guestOf.isSome) && l.killed.isNone

/-- The visitor of a call (R212). -/
def visitorOf (s : State) (m : CallMsg) (l : Launch) (uid : Nat) : Group :=
  { (default : Group) with
    uid, gid := uid, launch := l.idx, team := m.team, grp := m.grp
    visitor := some { srcDev := m.srcDev, srcCore := m.srcCore, seq := m.seq, flag := m.flag, replies := m.replies, uni := m.uni, issued := 0, stack := stackOf m.dstCore }
    loc := .inFlight
    core := m.dstCore
    launchCore := m.dstCore
    mask := m.mask
    pc := m.entry
    preds := List.replicate 6 0 ++ [allStrands]
    flags := List.replicate 12 { set := false, pending := none }
    anchorDev := s.devNum
    anchor := m.dstCore
    region := l.node.regionId
    carried := some
      { v := if m.uni then [] else m.payload.zipIdx.map fun p => (p.2, p.1)
        s := if m.uni then m.payload.zipIdx.map fun p => (p.2, laneAt p.1 0) else []
        destV := [], destS := [], full := false, wrote := [] } }

/-- A reply on its way to the issuing core (R215). -/
def sendReply (s : State) (core : Nat) (r : Reply) : State := s.send .reply core (if r.dstDev = 0 then dieOf r.dstCore else 16) (.reply r)

/-- A reply that carries only a fault. -/
def bareReply (s : State) (m : CallMsg) (code inner addr : Nat) : Reply :=
  { dstDev := m.srcDev, dstCore := m.srcCore, seq := m.seq, flag := m.flag, uni := m.uni, vals := []
    fault := some { code, inner, addr, bodyPc := m.entry, core := m.dstCore, device := s.devNum, desc := [], progress := 0, home := none } }

/-- A call admitted at its die: a cache entry, the watermark, and its visitor in the arrival queue or the crucible (R212, R219); none
while the cache or the crucible has no room. A call whose launch is gone is discarded (R53); one of another module whose region is
unknown here is answered with a body fault 0x18 (R281; DEDUCED, log 23). -/
def admitCall (s : State) (id : Nat) (m : CallMsg) (src : Nat) : Option State :=
  let stack := stackOf m.dstCore
  match callLaunch s m with
  | none => if m.srcDev = 0 then some (s.dropMsg id) else some (sendReply (s.dropMsg id) m.dstCore (bareReply s m 0x20 0x18 m.entry))
  | some l =>
    if 4096 ≤ (s.cache.filter fun e => e.stack == stack).length then none
    else
      let uid := s.nextId
      match enqueue ({ s with nextId := uid + 1 }.addUnit (visitorOf s m l uid)) m.dstCore uid src with
      | none => none
      | some t =>
        let e : CacheEntry := { id := t.nextId, stack, dev := m.srcDev, core := m.srcCore, seq := m.seq, reply := none, attached := 0, doneAt := 0 }
        some (raiseMark { t.dropMsg id with nextId := t.nextId + 1, cache := e :: t.cache } stack m)

/-- A call for a page that moves, as its new home gets it (R284). -/
def CallMsg.forward (m : CallMsg) (p : PageMove) : CallMsg :=
  let pa := p.newPa + (m.pa - p.oldPa)
  { m with pa, dstCore := arrivalCore (p.newPa / 2 ^ 36) pa }

/-- The base die of a call's executor takes it: a die out of service loses it (R218), a parked stack has first to wake (R352). A call for a page
that moves is passed on by its old home and held by its new one until the copy is complete (R284). -/
def atExecutor (s : State) (x : Msg) (m : CallMsg) (again : CallMsg → Payload) (go : State) : State :=
  if !stackUp s (stackOf m.dstCore) || !routeUp s x.src x.dst then s.dropMsg x.id
  else if s.dies.getD (dieOf m.dstCore) 0 = 1 then s
  else match moveOver s m.pa with
  | some p => (s.dropMsg x.id).send .request x.src (8 + p.newPa / 2 ^ 36) (again (m.forward p))
  | none => if (moveInto s m.pa).isSome then s else go

/-- `CALL_ARRIVAL` (R212). -/
def execCallArrival (m : Nat) (s : State) : Host.Outcome State Fault Refusal :=
  match s.ready? m with
  | some msg =>
    match msg.body with
    | .call c => .next (atExecutor s msg c .call ((admitCall s m c msg.src).getD s))
    | _ => .next s
  | none => .next s

/-- `RETRY_ARRIVAL` (R220): answered by the first row that matches. -/
def execRetryArrival (m : Nat) (s : State) : Host.Outcome State Fault Refusal :=
  match s.ready? m with
  | some msg =>
    match msg.body with
    | .retry c =>
      let stack := stackOf c.dstCore
      .next (atExecutor s msg c .retry (
        match s.cache.find? fun e => cacheHit e stack c with
        | some e =>
          match e.reply with
          | some r => sendReply (s.dropMsg m) c.dstCore r
          | none => { s.dropMsg m with cache := s.cache.map fun x => if x.id = e.id then { x with attached := x.attached + 1 } else x }
        | none =>
          match watermark? s stack c.srcDev c.srcCore with
          | some w => if seqBelow w.seq c.seq then (admitCall s m c msg.src).getD s else sendReply (s.dropMsg m) c.dstCore (bareReply s c 0x22 0 0)
          | none => sendReply (s.dropMsg m) c.dstCore (bareReply s c 0x22 0 0)))
    | _ => .next s
  | none => .next s

/-- `RRET` (R215): the visitor's accesses are performed first; an error among them makes the reply a body fault. -/
def execRret (a : BitVec 7) : State → Host.Outcome State Fault Refusal :=
  issueOps (.rret a) (fun c => match c.g.visitor with | some v => [.src a.toNat v.replies] | none => []) fun c =>
    let i : Instr := .rret a
    match c.g.visitor with
    | none => c.fail i 0x01 0
    | some v =>
      match releaseNow c.s c.g 3 false with
      | .error code addr => visitorFault (c.pass i) c.g v code addr
      | .go =>
        let vals := (List.range v.replies).map fun j => perStrand fun k => c.src (a.toNat + j) k
        let r : Reply := { dstDev := v.srcDev, dstCore := v.srcCore, seq := v.seq, flag := v.flag, uni := c.uni, vals, fault := none }
        let hit (e : CacheEntry) : Bool := e.stack == v.stack && e.dev == v.srcDev && e.core == v.srcCore && e.seq == v.seq && e.reply.isNone
        let copies := 1 + ((c.s.cache.find? hit).map (·.attached)).getD 0
        let s := ((c.pass i).dropUnit c.g.uid).freeSlot c.g.core c.g.slot
        let s := { s with cache := s.cache.map fun e => if hit e then { e with reply := some r, doneAt := s.now, attached := 0 } else e }
        (List.range copies).foldl (fun t _ => sendReply t c.g.core r) s
      | _ => hold c.s

/-- `REMOTE_BUDGET_EXCEEDED` (R214): the visitor's 4,097th issue ends its body with fault 0x24. -/
def execRemoteBudgetExceeded (u : Nat) (s : State) : Host.Outcome State Fault Refusal :=
  match s.unit? u with
  | none => .next s
  | some g =>
    match g.visitor with
    | some v => .next (if 4096 ≤ v.issued ∧ g.loc = .resident ∧ g.wait = .none then visitorFault s g v 0x24 0 else s)
    | none => .next s

/-! ## Replies (R216) -/

/-- The registers that a reply writes (the table of R216). -/
def replyResults (k : Call) (r : Reply) : List Results :=
  (r.vals.zipIdx.take k.replies).map fun p =>
    let j := p.2
    { dest := { reg := some (if k.uni then .scal (k.swb + k.rb + j) else .vec (k.vwb + k.rb + j)), pair := false, uni := k.uni }
      vals :=
        if k.uni then
          let x := (laneAt p.1 (if r.uni then 0 else lowest k.mask)).toNat
          (List.range 32).map fun i => (i, x)
        else (strands k.mask).map fun i => (i, (laneAt p.1 (if r.uni then 0 else i)).toNat) }

/-- A cause that a record has marked and whose trap has not been delivered, kept by the unit as the record ends (R323). -/
def keepCause (s : State) (gid : Nat) (mask : Word) (flag code addr : Nat) : State :=
  match owedUnit s gid mask with
  | some g => s.modUnit g.uid fun u => { u with causes := u.causes ++ [(flag, code, addr)] }
  | none => s

/-- The record that a reply is for (R216): that of its flag with its sequence number at the issuing core, the newest where a number has been used
again. -/
def recordOf (s : State) (r : Reply) : Option Call :=
  (s.calls.filter fun k => k.core == r.dstCore && k.seq == r.seq && k.flag == r.flag && !k.answered).getLast?

/-- A reply met by its record: registers, then the flag; the record goes when the flag clears, wherever the group is (R211, R216). -/
def takeReply (s : State) (k : Call) (r : Reply) : State :=
  let s := if k.overdue && !k.delivered then putCall (keepCause s k.gid k.mask k.flag 0x21 0) { k with delivered := true } else s
  let t := deliver s k.core k.gid k.flag k.mask (if r.fault.isSome then [] else replyResults k r) r.fault
  match owedUnit s k.gid k.mask with
  | some g =>
    if g.loc = .resident ∧ g.core = k.core then { t with calls := t.calls.filter fun x => x.id != k.id } else putCall t { k with answered := true, delivered := k.delivered || k.overdue }
  | none => { t with calls := t.calls.filter fun x => x.id != k.id }

/-- `REPLY_ARRIVAL` (R216): a reply that matches no record is discarded; one for another module goes on. -/
def execReplyArrival (m : Nat) (s : State) : Host.Outcome State Fault Refusal :=
  match s.msg? m with
  | some msg =>
    match msg.body with
    | .reply r =>
      let s := s.dropMsg m
      if !routeUp s msg.src msg.dst then .next s
      else if r.dstDev ≠ 0 ∧ r.dstDev ≠ s.devNum then .next (sendPeer s r.dstDev 1 (.reply r))
      else match recordOf s r with
        | none => .next s
        | some k => .next (takeReply s k r)
    | _ => .next s
  | none => .next s

/-! ## Expiry (R219) -/

/-- A done entry of a reply cache has been held for 1,000,000 rc. -/
def CacheEntry.over (e : CacheEntry) (now : Nat) : Bool := e.reply.isSome && decide (e.doneAt + 1000000 ≤ now)

/-- Every done entry whose time is over is freed (R219). -/
def settleCache (s : State) : State := if s.cache.any (CacheEntry.over · s.now) then freeEntries s (CacheEntry.over · s.now) else s

/-- `REPLY_CACHE_EXPIRY` (R219). -/
def execReplyCacheExpiry (e : Nat) (s : State) : Host.Outcome State Fault Refusal := .next (freeEntries s fun x => x.id == e && x.over s.now)

/-- `WATERMARK_EXPIRY` (R219). -/
def execWatermarkExpiry (stack dev core : Nat) (s : State) : Host.Outcome State Fault Refusal :=
  match watermark? s stack dev core with
  | none => .next s
  | some w =>
    if (s.cache.any fun x => x.stack == stack && x.dev == dev && x.core == core) ∨ s.now < w.lastFree + 1000000 then .next s
    else .next { s with watermarks := s.watermarks.filter fun x => !(x.stack == stack && x.dev == dev && x.core == core) }

end Sys2Proof.Machine
end

