-- ==== Sys2Proof/Machine/Tile.lean ====
section
/-! DEFINITION. Tile moves, opcodes 0x70 and 0x71 (R236 to R243), and the engines that perform them row by row (R291, R292). -/

namespace Sys2Proof.Machine

/-! ## Descriptors (R237) -/

/-- Word j of a descriptor. -/
def descW (d : List Word) (j : Nat) : Nat := (laneAt d j).toNat

def tmSrc (d : List Word) : Nat := descW d 0 + 2 ^ 32 * descW d 1
def tmDst (d : List Word) : Nat := descW d 2 + 2 ^ 32 * descW d 3
/-- Bytes of a row. -/
def tmLen (d : List Word) : Nat := 16 * bits (descW d 4) 0 13
def tmRows (d : List Word) : Nat := bits (descW d 4) 16 13
def tmSrcStride (d : List Word) : Int := sext (descW d 5) 32
def tmDstStride (d : List Word) : Int := sext (descW d 6) 32
def tmSrcSwz (d : List Word) : Nat := bits (descW d 7) 0 3
def tmDstSwz (d : List Word) : Nat := bits (descW d 7) 3 3
def tmAcq (d : List Word) : Bool := bit (descW d 7) 6
def tmRel (d : List Word) : Bool := bit (descW d 7) 7
def tmScope (d : List Word) : Nat := bits (descW d 7) 8 3
def tmQuiet (d : List Word) : Bool := bit (descW d 7) 11
def tmProgress (d : List Word) : Nat := bits (descW d 7) 12 20

/-- The first word of a descriptor that R237 refuses. -/
def tmBad (d : List Word) : Option Nat :=
  let ok (j : Nat) : Bool :=
    if j = 4 then decide (1 ≤ bits (descW d 4) 0 13) && decide (bits (descW d 4) 0 13 ≤ 4096) && bits (descW d 4) 13 3 == 0 &&
      decide (1 ≤ tmRows d) && decide (tmRows d ≤ 4096) && bits (descW d 4) 29 3 == 0
    else if j = 5 ∨ j = 6 then descW d j % 16 == 0
    else if j = 7 then tmSrcSwz d != 7 && tmDstSwz d != 7 && decide (tmScope d ≤ 4) && decide (tmProgress d ≤ 4096)
    else true
  (List.range 8).find? fun j => !ok j

/-- Address of row r of a side. -/
def tmRow (a : Nat) (stride : Int) (r : Nat) : Nat := wrap 64 ((a : Int) + r * stride)

/-- The fault of a side at issue (R238). -/
def tmSideFault (s : State) (g : Group) (d : List Word) (a : Nat) (stride : Int) : Option Nat :=
  let top := a / 2 ^ 56
  if top = 0xFB then some 0x32
  else if top = 0xFC then some 0x1B
  else if top ≠ 0 ∧ top < 0xFD then some 0x15
  else if a % 16 ≠ 0 then some 0x16
  else match spadLevel a with
  | none => none
  | some level =>
    let l := launchOf s g
    let out (r : Nat) : Bool :=
      let x := tmRow a stride r
      decide (x / 2 ^ 56 ≠ top) || !spadRangeOk s l g.core level (x % 2 ^ 56) (tmLen d)
    if (List.range (tmRows d)).any out then some 0x17 else none

/-- The engine of a move (R239): the base die that is home to the first row of its global side, the source first; else the die of the
issuing core. Where that row has no leaf the move fails on it wherever it runs: the engine of the issuing core's die then holds it. -/
def tmEngine (s : State) (g : Group) (d : List Word) : Nat :=
  let side := if tmSrc d / 2 ^ 56 = 0 then some (tmSrc d) else if tmDst d / 2 ^ 56 = 0 then some (tmDst d) else none
  match side with
  | none => dieOf g.core
  | some a =>
    match lookupPage s g.core (rootOf s g) a with
    | .ok p => if p.device = 0 ∧ p.home < 8 then 8 + p.home else dieOf g.core
    | .error _ => dieOf g.core

/-! ## Promises (R241, R291) -/

/-- A promised completion time for an engine, and the core's booking of it: above `Now()`, never below the last promise. -/
def bookPromise (s : State) (core engine : Nat) : Nat × State :=
  let cs := s.coreState core
  let p := max (s.now + 1 + Config.promiseDelay s.freeCtr) ((cs.bookings.lookup engine).getD 0)
  (p, { s.putCore { cs with bookings := insertKey engine p cs.bookings } with freeCtr := s.freeCtr + 1 })

/-! ## TMOVE (R236 to R238) -/

/-- The promise written to a scalar pair, or discarded. -/
def Ctx.promiseDst (c : Ctx) (d : BitVec 7) (p : Nat) : List PendWrite :=
  if d = 112#7 then [] else c.sdst d.toNat 0 (lowWord p) ++ c.sdst (d.toNat + 1) 0 (highWord p)

/-- `TMOVE` (R238). One with REL raises a pending error of posted operations as it issues; an error that arrives while its last row waits stays
pending (R188; DEDUCED, log 77). -/
def execTmove (d a : BitVec 7) (f : BitVec 4) : State → Host.Outcome State Fault Refusal :=
  issue (.tmove d a f) fun c =>
    let i : Instr := .tmove d a f
    let k := f.toNat
    let desc := (List.range 8).map fun j => c.sreg (a.toNat + j)
    let side (x : Nat) (stride : Int) := (tmSideFault c.s c.g desc x stride).map fun code => (code, x)
    match tmBad desc with
    | some j => c.fail i 0x01 (a.toNat + j)
    | none =>
      match (side (tmSrc desc) (tmSrcStride desc)).orElse fun _ => side (tmDst desc) (tmDstStride desc) with
      | some (code, x) => c.fail i code x
      | none =>
        if tmRows desc ≤ tmProgress desc then
          let s := c.retire i none (c.promiseDst d (c.s.now + 1)) (nextPc c.g.pc)
          s.modUnit c.g.uid fun g => g.clearPending k
        else
          let release := tmRel desc && tmScope desc != 0
          match (if release then c.g.postErrs else []) with
          | (_, code, x) :: _ => { c with g := { c.g with postErrs := c.g.postErrs.drop 1 } }.fail i code x
          | [] =>
          let e := tmEngine c.s c.g desc
          let p := bookPromise c.s c.g.core e
          let s := { c with s := p.2 }.retire i none (c.promiseDst d p.1) (nextPc c.g.pc)
          let s := s.modUnit c.g.uid fun g => { g.arm k false with flagDevs := eraseKey k g.flagDevs }
          let m : Move :=
            { id := s.nextId, gid := c.g.gid, launch := c.g.launch, mask := c.g.mask, flag := k, core := c.g.core, slot := c.g.slot, uid := c.g.uid,
              engine := e, desc, progress := tmProgress desc, promise := p.1, missed := false, delivered := false, stage := 0,
              after := if tmScope desc ≠ 0 ∧ (tmAcq desc || tmRel desc) = true then earlierWork c.s c.g else []
              window := if release then c.g.lastWindow else none }
          { s with nextId := s.nextId + 1, moves := s.moves ++ [m] }.send .request c.g.core e (.move m.id)

/-! ## TSTAT (R243) -/

/-- The move record of a unit's flag on this module. -/
def moveOf (s : State) (g : Group) (flag : Nat) : Option Move :=
  s.moves.find? fun m => m.gid == g.gid && m.flag == flag && decide (m.stage < 3) &&
    (m.mask &&& g.mask != 0 || (owedUnit s m.gid m.mask).any fun u => u.uid == g.uid)

/-- The status word of a flag's move. -/
def moveWord (m : Option Move) (f : Flag) : Nat :=
  let fault := match f.pending with | some e => if e.code = 0x51 then some e else none | none => none
  pack [(1, bitNat m.isSome), (1, bitNat (m.any (·.missed))), (1, bitNat fault.isSome), (5, 0), (8, (fault.map (·.inner)).getD 0),
    (13, (fault.map (·.progress)).getD 0)]

/-- What `TSTAT` reads: the status word, or the recorded promise. -/
def moveAnswer (m : Option Move) (f : Flag) (prom : Bool) : Nat := if prom then (m.map (·.promise)).getD 0 else moveWord m f

/-- `TSTAT` and `TSTAT.prom` (R243). -/
def Ctx.tstat (c : Ctx) (i : Instr) (d k : Nat) (prom : Bool) : State :=
  let dest := c.dest d prom
  let now (x : Option Move) : State :=
    let w := moveAnswer x (c.g.flag k) prom
    c.retire i none (if d = 112 then [] else c.dst d 0 (perStrand fun _ => lowWord w) ++
      (if prom then c.dst (d + 1) 0 (perStrand fun _ => highWord w) else [])) (nextPc c.g.pc)
  match moveOf c.s c.g k with
  | some x => if x.core = c.g.core then now (some x) else c.ask i none x.core dest fun gid => .askMove gid k c.g.mask prom dest
  | none =>
    match c.keeper k with
    | some dv =>
      match c.cannotAsk dv with
      | some code => c.fail i code 0
      | none => c.ask i (some dv) 0 dest fun gid => .askMove gid k c.g.mask prom dest
    | none => now none

/-- `TSTAT` (R243). -/
def execTstat (d : BitVec 7) (f : BitVec 4) : State → Host.Outcome State Fault Refusal :=
  issue (.tstat d f) fun c => c.tstat (.tstat d f) d.toNat f.toNat false

/-- `TSTAT.prom` (R243). -/
def execTstatProm (d : BitVec 7) (f : BitVec 4) : State → Host.Outcome State Fault Refusal :=
  issue (.tstatProm d f) fun c => c.tstat (.tstatProm d f) d.toNat f.toNat true

/-- `ISSUING_CORE_REQUEST` (R220, R221, R243): answered from the record, or stamped and sent. -/
def execIssuingCoreRequest (m : Nat) (s : State) : Host.Outcome State Fault Refusal :=
  match s.ready? m with
  | some msg =>
    let say (t : State) (gid : Nat) (mask : Word) (dest : Dest) (x : Nat) : State := answer t msg (.completion gid 12 mask [dest.same x] none)
    let record (gid flag : Nat) (mask : Word) : Option Call := s.calls.find? fun k => k.gid == gid && k.flag == flag && k.mask &&& mask != 0
    let flagOf (gid flag : Nat) (mask : Word) : Flag := (((owedUnit s gid mask).getD default).flag flag)
    let out (gid : Nat) : Nat := if 2048 ≤ msg.src then exportGid s gid else gid
    if !routeUp s msg.src msg.dst then
      match msg.body with
      | .askCall gid _ mask _ | .askMove gid _ mask _ _ => .next (failAsker (s.dropMsg m) msg gid mask)
      | .askRetry _ _ gid _ mask => .next (if 2048 ≤ msg.src then failAsker (s.dropMsg m) msg gid mask else s.dropMsg m)
      | _ => .next s
    else match msg.body with
    | .askCall gid flag mask dest => .next (say (s.dropMsg m) (out gid) mask dest (callWord (record gid flag mask) (flagOf gid flag mask)))
    | .askMove gid flag mask prom dest =>
      let r := s.moves.find? fun k => k.gid == gid && k.flag == flag && decide (k.stage < 3) && k.mask &&& mask != 0
      .next (say (s.dropMsg m) (out gid) mask dest (moveAnswer r (flagOf gid flag mask) prom))
    | .askRetry payload entry gid flag mask =>
      let told (t : State) (fault : Option FlagFault) : State :=
        if 2048 ≤ msg.src then answer t msg (.completion (exportGid s gid) 12 mask [] fault) else t
      match record gid flag mask with
      | some k =>
        if k.entry ≠ entry then .next (told (s.dropMsg m) (some (flagFault 0x01 0 none)))
        else .next (told (retryFrom (s.dropMsg m) k payload) none)
      | none => .next (told (s.dropMsg m) none)
    | _ => .next s
  | none => .next s

/-! ## Rows (R239, R242) -/

/-- How a row part is met: its place, or the inner code of its failure with its address, or a home that has first to be ready. -/
inductive RowPart where
  | at_ (l : Loc)
  | bad (code addr : Nat)
  | later
  deriving DecidableEq, Repr

/-- A part of a row within one page, for reading or writing (R242, R284, R291). -/
def rowGlobal (s : State) (g : Launch) (engine : Nat) (wr : Bool) (a n : Nat) : RowPart :=
  if a / 2 ^ 56 ≠ 0 then .bad (if wr then 0x11 else 0x10) a
  else match translate s (1088 + engine) g.ptRoot g.node.supervisor (if wr then .write else .read) a with
  | .error (code, _) => .bad code a
  | .ok p =>
    if p.device ≠ 0 then .bad 0x1B a
    else if wr && p.dup then .bad 0x1A a
    else if !p.res then .bad (if wr then 0x1D else 0x10) a
    else
      let pa := match moveOver s (p.pa a) with | some v => v.newPa + (p.pa a - v.oldPa) | none => p.pa a
      if !stackUp s (pa / 2 ^ 36) then .bad 0x18 a
      else if s.dies.getD (8 + pa / 2 ^ 36) 0 = 1 ∨ (moveInto s pa).isSome then .later
      else
        let whole (k : Nat) : Bool := decide (pa ≤ k * 32) && decide (k * 32 + 32 ≤ pa + n)
        if (granules 32 pa n).any fun k => s.dramPoison.contains k && !(wr && whole k) then .bad 0x19 a
        else .at_ (.dram 0 pa)

/-- The parts of row r of a side: places with their lengths, or what stops it. -/
def rowParts (s : State) (l : Launch) (m : Move) (wr : Bool) : Except RowPart (List (Loc × Nat)) :=
  let a := if wr then tmRow (tmDst m.desc) (tmDstStride m.desc) m.progress else tmRow (tmSrc m.desc) (tmSrcStride m.desc) m.progress
  let n := tmLen m.desc
  match spadLevel a with
  | some level =>
    let o := a % 2 ^ 56
    let code := if wr then tmDstSwz m.desc else tmSrcSwz m.desc
    let units := (List.range (n / 16)).map fun j =>
      let o := o + 16 * j
      let p := match spadDesc l level o with | some d => swizzle level (spadBase d) (spadBytes d) code o | none => o
      (Loc.spad (spadKey m.core level p), 16)
    if !wr && units.any fun u => (match u.1 with | .spad k => s.spadBad k 16 | _ => false) then .error (.bad 0x19 a) else .ok units
  | none =>
    (spans (n / 2 ^ 16 + 2) a n).foldl (fun acc x =>
      match acc with
      | .error e => .error e
      | .ok ps =>
        match rowGlobal s l m.engine wr x.1 x.2 with
        | .at_ loc => .ok (ps ++ [(loc, x.2)])
        | e => .error e) (.ok [])

/-- Bytes at a place. -/
def locBytes (s : State) (l : Loc) (n : Nat) : List Byte :=
  match l with | .dram _ pa => Memory.readBytes s.dram pa n | .spad key => Memory.readBytes s.spad key n

/-- A row read in full, then written (R239). -/
def moveRow (s : State) (src dst : List (Loc × Nat)) : State :=
  let bs := src.flatMap fun x => locBytes s x.1 x.2
  (dst.foldl (fun (p : State × List Byte) x => (locWrite p.1 x.1 (p.2.take x.2), p.2.drop x.2)) (s, bs)).1

/-- What the next row of a move meets: both sides placed, a failure, or a wait. -/
def rowMeets (s : State) (l : Launch) (m : Move) : Except RowPart (List (Loc × Nat) × List (Loc × Nat)) :=
  match rowParts s l m false with
  | .error e => .error e
  | .ok src =>
    match rowParts s l m true with
    | .error e => .error e
    | .ok dst => .ok (src, dst)

/-- The accesses that a row waits for (R240): with ACQ any row, with REL the last one; a release at system scope passes its window. -/
def rowHeld (s : State) (m : Move) : Bool :=
  let last := m.progress + 1 == tmRows m.desc
  let busy := s.posted.any (fun p => m.after.contains p.id) || s.floads.any fun f => m.after.contains f.id
  let window := m.window.any fun n => decide (s.ptime < (n + 2) * s.window * 1000)
  (busy && (tmAcq m.desc || (tmRel m.desc && last))) || (tmRel m.desc && last && tmScope m.desc == 4 && window)

/-- A move replaced. -/
def putMove (s : State) (m : Move) : State := { s with moves := s.moves.map fun x => if x.id = m.id then m else x }

/-- A move whose flag has cleared leaves; a missed promise whose trap has not been delivered stays a pending cause of its unit (R323). -/
def dropMove (s : State) (m : Move) : State :=
  let s := if m.missed && !m.delivered then keepCause s m.gid m.mask m.flag 0x50 (tmDst m.desc) else s
  { s with moves := s.moves.filter fun x => x.id != m.id }

/-- A move fails with an inner code at its present row: the flag clears with fault 0x51 pending (R242). -/
def failMove (s : State) (m : Move) (inner addr : Nat) : State :=
  let f : FlagFault :=
    { code := 0x51, inner, addr, bodyPc := 0, core := 0, device := 0, desc := m.desc, progress := m.progress, home := none }
  dropMove (deliver s m.core m.gid m.flag m.mask [] (some f)) m

/-- The global addresses that the present row of a move translates, one a page (R291). -/
def rowAddresses (m : Move) : List Nat :=
  let n := tmLen m.desc
  ([tmRow (tmSrc m.desc) (tmSrcStride m.desc) m.progress, tmRow (tmDst m.desc) (tmDstStride m.desc) m.progress].filter
    fun a => decide (a / 2 ^ 56 = 0)).flatMap fun a => (spans (n / 2 ^ 16 + 2) a n).map (·.1)

/-- The leaf entries of a row noted in the buffer of its engine (R280, R291). -/
def noteRow (s : State) (l : Launch) (m : Move) : State := (rowAddresses m).foldl (fun t a => t.notePage (1088 + m.engine) l.ptRoot a) s

/-- The error record of a bad entry that the walk of a row's address met, naming the group that issued the move (R369). -/
def rowRecord (s : State) (l : Launch) (m : Move) (a : Nat) : State :=
  match lookupPage s (1088 + m.engine) l.ptRoot a with
  | .error (some w) => walkRecord s ((owedUnit s m.gid m.mask).getD { (default : Group) with launch := m.launch }) (if (rowAddresses m).head? = some a then 0x10 else 0x11) a w
  | _ => s

/-! ## Engine events (R239, R242, R291) -/

/-- `TILE_MOVE_ACCEPT` (R291): held while the engine's queue of 256 moves is full. -/
def execTileMoveAccept (m : Nat) (s : State) : Host.Outcome State Fault Refusal :=
  match s.ready? m with
  | some msg =>
    match msg.body with
    | .move id =>
      match s.moves.find? fun x => x.id == id with
      | none => .next (s.dropMsg m)
      | some v =>
        if !routeUp s msg.src msg.dst then .next (failMove (s.dropMsg m) v 0x18 (tmRow (tmSrc v.desc) (tmSrcStride v.desc) v.progress))
        else if 256 ≤ (s.moves.filter fun x => x.engine == v.engine && (x.stage == 1 || x.stage == 2)).length then .next s
        else .next (putMove (s.dropMsg m) { v with stage := 1 })
    | _ => .next s
  | none => .next s

/-- `TILE_MOVE_COMPLETION` (R239, R292): the next row of a move is read and written, and after the last one the flag clears. A killed move
has finished its current row: it is discarded. -/
def execTileMoveCompletion (t : Nat) (s : State) : Host.Outcome State Fault Refusal :=
  match s.moves.find? fun x => x.id == t with
  | none => .next s
  | some m =>
    if m.stage = 3 then .next (dropMove s m)
    else if m.stage = 0 ∨ rowHeld s m = true then .next s
    else match s.launch? m.launch with
    | none => .next (dropMove s m)
    | some l =>
      match rowMeets s l m with
      | .error _ => .next s
      | .ok (src, dst) =>
        let s := moveRow (noteRow s l m) src dst
        if m.progress + 1 < tmRows m.desc then .next (putMove s { m with progress := m.progress + 1, stage := 2 })
        else .next (dropMove (deliver s m.core m.gid m.flag m.mask [] none) m)

/-- `TILE_MOVE_FAULT` (R242): the failing row is not written, and the flag clears with fault 0x51 pending. -/
def execTileMoveFault (t : Nat) (s : State) : Host.Outcome State Fault Refusal :=
  match s.moves.find? fun x => x.id == t with
  | none => .next s
  | some m =>
    if m.stage = 0 ∨ m.stage = 3 ∨ rowHeld s m = true then .next s
    else match s.launch? m.launch with
    | none => .next s
    | some l =>
      match rowMeets s l m with
      | .error (.bad code addr) => .next (failMove (rowRecord s l m addr) m code addr)
      | _ => .next s

/-- `PROMISE_MISSED` (R241): the promise has passed with the flag set; unless QUIET is 1 a cause is pending. -/
def execPromiseMissed (t : Nat) (s : State) : Host.Outcome State Fault Refusal :=
  match s.moves.find? fun x => x.id == t with
  | none => .next s
  | some m =>
    if m.missed ∨ 3 ≤ m.stage ∨ s.now < m.promise then .next s
    else
      let s := putMove s { m with missed := true, delivered := tmQuiet m.desc }
      match owedUnit s m.gid m.mask with
      | some g =>
        if g.loc = .away ∧ !tmQuiet m.desc then
          .next (putMove (sendPeer s g.homeDev 1 (.cause (exportGid s m.gid) m.flag m.mask 0x50 (tmDst m.desc))) { m with missed := true, delivered := true })
        else .next s
      | none => .next s

/-- `REPLY_OVERDUE` (R218): the deadline has passed with the flag set; a cause is pending. -/
def execReplyOverdue (c : Nat) (s : State) : Host.Outcome State Fault Refusal :=
  match s.calls.find? fun x => x.id == c with
  | none => .next s
  | some k =>
    if k.overdue ∨ s.now < k.deadline then .next s
    else
      match owedUnit s k.gid k.mask with
      | some g =>
        if g.loc = .away then
          .next (putCall (sendPeer s g.homeDev 1 (.cause (exportGid s k.gid) k.flag k.mask 0x21 0)) { k with overdue := true, delivered := true })
        else .next (putCall s { k with overdue := true })
      | none => .next (putCall s { k with overdue := true })

end Sys2Proof.Machine
end

