-- ==== Sys2Proof/Machine/Matrix.lean ====
section
/-! DEFINITION. Matrix instructions and the licence, opcodes 0x72 to 0x76 (R244 to R257), and the events of the macro-sequencer and of
the licence. -/

namespace Sys2Proof.Machine

/-! ## The licence (R245, R246, R256) -/

/-- `LICSTAT` of a unit (R70). While the holder is away from its licensed core, HOLDER_UPPER is the licensed core's die and HOLDER_SLOT the slot
that the group still has there, or 0 (DESIGN CHOICE, log 78: the rule speaks only of the slot of the holder). -/
def licstat (s : State) (g : Group) : Nat :=
  if isStackCore g.core then 0
  else
    let p := s.pair (pairOf g.core)
    let holder := p.holder.bind fun h => (s.slots.find? fun x => x.gid == h && x.core == p.core && !x.visitor)
    pack [(1, bitNat (p.holder == some g.gid)), (1, bitNat p.holder.isSome), (1, bitNat (p.waiters.any fun w => (s.unit? w.1).any fun h => h.gid == g.gid)),
      (1, bitNat s.lowerOnly), (9, if p.holder.isSome then (holder.map (·.slot)).getD 0 else 0), (1, bitNat (p.holder.isSome && isUpper p.core))]

/-- The unit joins the waiters of its pair and waits, its instruction to execute again (R246). -/
def Ctx.joinWaiters (c : Ctx) (i : Instr) : State :=
  let p := c.s.pair (pairOf c.g.core)
  let p := if p.waiters.any (fun w => w.1 == c.g.uid) then p else { p with waiters := p.waiters ++ [(c.g.uid, c.g.core)] }
  (({ c with s := c.s.putPair p }.retire i none [] c.g.pc)).modUnit c.g.uid fun g => { g with wait := .mlic }

/-- What stops a group from asking for the licence on a core of a pair (R246, R256). -/
def licenceFault (s : State) (g : Group) : Option Nat :=
  if (s.licenceOf g.gid).any fun p => p.lower != pairOf g.core then some 0x40
  else if s.lowerOnly && isUpper g.core then some 0x42
  else none

/-- The licence of a pair is free and no group waits for it. -/
def licenceFree (s : State) (lower : Nat) : Bool := (s.pair lower).holder.isNone && (s.pair lower).waiters.isEmpty

/-- The remaining scratchpad areas of an interrupted stream, checked on the granting core (R256). -/
def streamBound (s : State) (l : Launch) (core : Nat) : Option Nat :=
  match (s.array core).ops.find? fun o => o.kind == 1 with
  | none => none
  | some o => matBound s l core (matAreas 1 o.fb o.ctl (s.array core).m.tagA o.row)

/-- The waiter that has been granted goes on; a stream whose areas are refused here stays interrupted, and the unit raises fault 0x17. -/
def afterGrant (s : State) (g : Group) : State :=
  match streamBound s (launchOf s g) g.core with
  | none => s.modUnit g.uid fun u => if u.wait = .mlic then { u with wait := .none } else u
  | some a =>
    let arr := s.array g.core
    (s.putArray { arr with m := { arr.m with stream := arr.ops.find? fun o => o.kind == 1 }, ops := [] }).modUnit g.uid fun u =>
      { u with wait := .none, homeFault := some { code := 0x17, addr := a, flag := none, home := none, deferred := false } }

/-- The licence of a pair granted to a unit's group on its core, and the unit goes on. -/
def granted (s : State) (lower : Nat) (g : Group) : State := afterGrant (grant s lower (launchOf s g).spads g) g

/-- `MLIC.acq` (R246). -/
def execMlicAcq : State → Host.Outcome State Fault Refusal :=
  issue .mlicAcq fun c =>
    let lower := pairOf c.g.core
    if (c.s.pair lower).holder = some c.g.gid then c.pass .mlicAcq
    else match licenceFault c.s c.g with
    | some code => c.fail .mlicAcq code 0
    | none => if licenceFree c.s lower then granted (c.pass .mlicAcq) lower c.g else c.joinWaiters .mlicAcq

/-- `MLIC.try` (R246). -/
def execMlicTry (p : BitVec 3) : State → Host.Outcome State Fault Refusal :=
  issue (.mlicTry p) fun c =>
    let i : Instr := .mlicTry p
    let lower := pairOf c.g.core
    let out (b : Bool) : State := c.retire i none (c.pdst p.toNat 0 c.g.mask (if b then allStrands else 0)) (nextPc c.g.pc)
    if (c.s.pair lower).holder = some c.g.gid then c.pass i
    else match licenceFault c.s c.g with
    | some 0x40 => c.fail i 0x40 0
    | some _ => out false
    | none => if licenceFree c.s lower then granted (out true) lower c.g else out false

/-- An image given up before it was loaded (R256): its interrupted stream is abandoned with it, the flag of that stream clears, and the unit of
an inline one goes on. The request that the stream had made is withdrawn; a unit that waits in an instruction of its own waits on. -/
def dropImage (s : State) (gid : Nat) : State :=
  let stream := (imageOf s gid).bind (·.stream)
  { s with
    units := s.units.map fun h =>
      if h.gid = gid then
        let k := { h with image := none, msRows := 0, msFlag := 0 }
        (match stream with
          | some o => if o.flag = 0 then (if k.uid = o.uid ∧ k.wait = .matrix then { k with wait := .none } else k)
            else k.putFlag o.flag { k.flag o.flag with set := false }
          | none => k)
      else h
    pairs := s.pairs.map fun p => { p with waiters := p.waiters.filter fun w => (s.unit? w.1).any fun u => u.gid != gid || u.wait == .mlic } }

/-- `MLIC.rel` (R246): it waits for the group's matrix instructions; away from the licensed core it releases by message. -/
def execMlicRel : State → Host.Outcome State Fault Refusal :=
  issue .mlicRel fun c =>
    match c.s.licenceOf c.g.gid with
    | none => dropImage (c.pass .mlicRel) c.g.gid
    | some p =>
      if !(c.s.array p.core).ops.isEmpty then hold c.s
      else releaseLicence (c.pass .mlicRel) c.g.gid c.g.core

/-- `MLIC.qry` (R246). -/
def execMlicQry (d : BitVec 7) : State → Host.Outcome State Fault Refusal :=
  issue (.mlicQry d) fun c => c.retire (.mlicQry d) none (c.sdst d.toNat 0 (BitVec.ofNat 32 (licstat c.s c.g))) (nextPc c.g.pc)

/-! ## Matrix instructions (R247 to R252) -/

/-- A matrix instruction of the licence holder on its licensed core goes on with that core's array; a group that carries an image asks for
the licence first (R245, R247, R256). -/
def Ctx.licensed (c : Ctx) (i : Instr) (go : MatArray → State) : State :=
  match c.s.licenceOf c.g.gid with
  | some p => if p.core = c.g.core then go (c.s.array p.core) else c.fail i 0x40 0
  | none =>
    if (imageOf c.s c.g.gid).isNone then c.fail i 0x40 0
    else match licenceFault c.s c.g with
    | some code => c.fail i code 0
    | none => if licenceFree c.s (pairOf c.g.core) then granted (hold c.s) (pairOf c.g.core) c.g else c.joinWaiters i

/-- The checks of R247 and the hand-over to the sequencer: kind 0 `MLDW`, 1 `MSTREAM`, 2 `MDRAIN`. -/
def Ctx.matrix (c : Ctx) (i : Instr) (kind : Nat) (a b : BitVec 7) (f : BitVec 4) (dest : Dest) : State :=
  c.licensed i fun arr =>
    let ctl := c.spair a.toNat
    let fb := c.spair b.toNat
    let busy := arr.ops.any fun o => if kind = 0 then o.kind == 0 else o.kind != 0
    let tag := arr.m.tagA
    if busy then hold c.s
    else match ctlBad kind fb ctl with
    | some j => c.fail i 0x01 (a.toNat + j)
    | none =>
      if !fbOk fb then c.fail i 0x41 0
      else if c.s.service == 1 && !fbS1 fb then c.fail i 0x42 0
      else if kind == 1 && tag.valid && (tag.bfmt != fbB fb || tag.bblk != fbBBlk fb) then c.fail i 0x41 0
      else match matBound c.s (launchOf c.s c.g) c.g.core (matAreas kind fb ctl tag 0) with
      | some x => c.fail i 0x17 x
      | none =>
        let o : SeqOp :=
          { kind, gid := c.g.gid, uid := c.g.uid, mask := c.g.mask, flag := f.toNat, fb, ctl, row := 0, dest, novf := 0, low := 0xFFFFFFFF,
            maps := (launchOf c.s c.g).spads }
        let s := c.pass i
        let s := s.putArray { s.array c.g.core with ops := (s.array c.g.core).ops ++ [o] }
        s.modUnit c.g.uid fun g =>
          if f = 0#4 then { g with wait := .matrix }
          else { g.arm f.toNat false with flagDevs := eraseKey f.toNat g.flagDevs }

/-- A destination that is not there. -/
def Dest.nul : Dest := { reg := none, pair := false, uni := false }

/-- `MLDW` (R248). -/
def execMldw (a b : BitVec 7) (f : BitVec 4) : State → Host.Outcome State Fault Refusal :=
  issue (.mldw a b f) fun c => c.matrix (.mldw a b f) 0 a b f Dest.nul

/-- `MSWAP` (R249): the planes and their tags change places once every earlier matrix instruction has completed. -/
def execMswap : State → Host.Outcome State Fault Refusal :=
  issue .mswap fun c =>
    c.licensed .mswap fun arr =>
      if !arr.ops.isEmpty then hold c.s
      else
        let m := arr.m
        (c.pass .mswap).putArray { arr with m := { m with active := m.shadow, shadow := m.active, tagA := m.tagS, tagS := m.tagA } }

/-- `MSTREAM` (R250, R251). -/
def execMstream (a b : BitVec 7) (f : BitVec 4) : State → Host.Outcome State Fault Refusal :=
  issue (.mstream a b f) fun c => c.matrix (.mstream a b f) 1 a b f Dest.nul

/-- `MDRAIN` (R252). -/
def execMdrain (d a b : BitVec 7) (f : BitVec 4) : State → Host.Outcome State Fault Refusal :=
  issue (.mdrain d a b f) fun c =>
    c.matrix (.mdrain d a b f) 2 a b f
      (if d = 112#7 then Dest.nul else { reg := some (.scal (c.g.swb + d.toNat)), pair := true, uni := true })

/-! ## The macro-sequencer (R247, R251) -/

/-- A matrix instruction that has performed its last row: results, then the flag, or its unit goes on. -/
def seqDone (s : State) (core : Nat) (o : SeqOp) : State :=
  let res : List Results := if o.kind = 2 then [{ dest := o.dest, vals := (List.range 32).map fun k => (k, o.novf + 2 ^ 32 * o.low) }] else []
  if o.flag ≠ 0 then deliver s core o.gid o.flag o.mask res none
  else (res.foldl (fun t r => putResults t o.uid r) s).modUnit o.uid fun g => if g.wait = .matrix then { g with wait := .none } else g

/-- One row of one instruction of a core's sequencer. -/
def seqTurn (s : State) (core : Nat) (o : SeqOp) : State :=
  let r := seqStep s ((s.launches.find? fun l => (s.units.find? fun g => g.gid == o.gid).any fun g => g.launch == l.idx).getD default) core o
  let a := r.1.array core
  if seqRows o ≤ r.2.row then seqDone (r.1.putArray { a with ops := a.ops.filter fun x => x.kind != o.kind }) core r.2
  else r.1.putArray { a with ops := a.ops.map fun x => if x.kind = o.kind then r.2 else x }

/-- The instructions of a sequencer that perform a row now: an `MLDW` reads and an `MDRAIN` writes scratchpad bytes, so that neither enters
a row before the other, if it issued earlier, has completed (R247). -/
def seqActive (ops : List SeqOp) : List SeqOp :=
  (ops.zipIdx.filter fun p => p.1.kind == 1 || !((ops.take p.2).any fun e => e.kind != 1)).map (·.1)

/-- `MATRIX_COMPLETION` (R247 to R252): the sequencer of a core performs a row of each instruction in progress; the last row completes it.
While a killed holder's licence waits for the array to be idle, or a save is on, no row is entered (R255, R257). -/
def execMatrixCompletion (core : Nat) (s : State) : Host.Outcome State Fault Refusal :=
  let p := s.pair (pairOf core)
  if p.dying ∨ p.core ≠ core ∨ p.holder.isNone then .next s
  else .next ((seqActive (s.array core).ops).foldl (fun t o => if p.saving && o.kind == 1 then t else seqTurn t core o) s)

/-! ## Licence events (R246, R255 to R257) -/

/-- `LICENCE_GRANT` (R246, R255): a free licence goes to its next waiter. -/
def execLicenceGrant (pair : Nat) (s : State) : Host.Outcome State Fault Refusal :=
  let p := s.pair pair
  if p.holder.isSome ∨ p.dying then .next s
  else match nextWaiter s p with
  | none => .next s
  | some (uid, _) =>
    match s.unit? uid with
    | none => .next (s.putPair { p with waiters := p.waiters.filter fun w => w.1 != uid })
    | some g => .next (granted s pair g)

/-- A unit whose image records an interrupted stream, resident, that has not yet asked for the licence (R256). -/
def wantsLicence (s : State) (g : Group) : Bool :=
  g.loc == .resident && !g.halting && (g.image.bind (·.stream)).isSome && g.homeFault.isNone && !(s.pairs.any fun p => p.waiters.any fun w => w.1 == g.uid)

/-- The request of a unit for the licence that its interrupted stream needs (R256); fault 0x42 on a core that cannot have it. -/
def reacquire (s : State) (g : Group) : State :=
  if isStackCore g.core ∨ (licenceFault s g).isSome then
    s.putUnit { g with
      wait := if g.wait = .matrix then .none else g.wait
      homeFault := some { code := if isStackCore g.core then 0x42 else (licenceFault s g).getD 0x42, addr := 0, flag := none, home := none, deferred := false } }
  else if licenceFree s (pairOf g.core) then granted s (pairOf g.core) g
  else
    let p := s.pair (pairOf g.core)
    s.putPair { p with waiters := p.waiters ++ [(g.uid, g.core)] }

/-- The requests that admissions make, before the first instruction of a unit (R256). -/
def settleRequests (s : State) : State :=
  (s.units.filter (wantsLicence s)).foldl (fun t g => match t.unit? g.uid with | some h => if wantsLicence t h then reacquire t h else t | none => t) s

/-- `LICENCE_REACQUIRE` (R256): the request that admission makes for an interrupted stream. -/
def execLicenceReacquire (u : Nat) (s : State) : Host.Outcome State Fault Refusal :=
  match s.unit? u with
  | none => .next s
  | some g => .next (if wantsLicence s g then reacquire s g else s)

/-- `LICENCE_FREE_AFTER_KILL` (R257): the array of a killed holder is idle, its work abandoned. -/
def execLicenceFreeAfterKill (pair : Nat) (s : State) : Host.Outcome State Fault Refusal :=
  .next (if (s.pair pair).dying then freeLicence s (s.pair pair) else s)

/-- `LICENCE_RELEASE_MESSAGE` (R246): the licensed core discards the matrix state and frees the licence, after the group's matrix
instructions have completed. -/
def execLicenceReleaseMessage (m : Nat) (s : State) : Host.Outcome State Fault Refusal :=
  match s.ready? m with
  | some msg =>
    match msg.body with
    | .licRelease lower gid =>
      let p := s.pair lower
      if p.holder ≠ some gid then .next (s.dropMsg m)
      else if !(s.array p.core).ops.isEmpty then .next s
      else .next (freeLicence (s.dropMsg m) p)
    | _ => .next s
  | none => .next s

end Sys2Proof.Machine
end

