-- ==== Sys2Proof/Machine/Twin.lean ====
section
/-! DEFINITION. `XSIG`, opcode 0x77 (R259, R260). -/

namespace Sys2Proof.Machine

/-- An `XSIG` that waits: its instruction ends here when `ended`, else it executes again. -/
def Ctx.xsigWait (c : Ctx) (i : Instr) (scope : Nat) (waiting ended : Bool) : State :=
  (c.retire i none [] (if ended then nextPc c.g.pc else c.g.pc)).modUnit c.g.uid fun g => { g with wait := .xsig scope waiting ended c.s.now }

/-- The wait half of an `XSIG` (R259, R260); `signalled` when its signal half has completed in this issue. -/
def Ctx.xsigTake (c : Ctx) (i : Instr) (w : TwinWindow) (up : Bool) (scope : Nat) (signalled : Bool) : State :=
  if w.unread up ≠ 0 then xsigSettle ({ c with s := c.s.putTwin (w.consume up) }.pass i) c.g.launch w.lower w.slot
  else if !twinAlive c.s w (!up) then c.fail i 0x43 0
  else xsigSettle ({ c with s := c.s.putTwin w }.xsigWait i scope true signalled) c.g.launch w.lower w.slot

/-- `XSIG` of a kind: 0 `.sig`, 1 `.wait`, 2 `.sync` (R259). -/
def Ctx.xsig (c : Ctx) (i : Instr) (kind scope : Nat) : State :=
  match c.twin? with
  | none => c.fail i 0x43 0
  | some w =>
    let up := upperSide c.g.core
    if kind ≠ 0 ∧ overrunHit c.s c.g scope = true then c.fail i 0x1C 0
    else if kind = 1 then c.xsigTake i w up scope false
    else c.release i scope false
      (if !(w.room up || !twinAlive c.s w (!up)) then c.xsigWait i scope false false
       else if kind = 0 then xsigSettle ({ c with s := c.s.putTwin (w.signal up) }.pass i) c.g.launch w.lower w.slot
       else c.xsigTake i (w.signal up) up scope true)

/-- `XSIG.sig` (R259). -/
def execXsigSig (s : BitVec 3) : State → Host.Outcome State Fault Refusal := issue (.xsigSig s) fun c => c.xsig (.xsigSig s) 0 s.toNat

/-- `XSIG.wait` (R259). -/
def execXsigWait (s : BitVec 3) : State → Host.Outcome State Fault Refusal := issue (.xsigWait s) fun c => c.xsig (.xsigWait s) 1 s.toNat

/-- `XSIG.sync` (R259). -/
def execXsigSync (s : BitVec 3) : State → Host.Outcome State Fault Refusal := issue (.xsigSync s) fun c => c.xsig (.xsigSync s) 2 s.toNat

end Sys2Proof.Machine
end

