-- ==== Sys2Proof/Machine/System.lean ====
section
/-! DEFINITION. System instructions, opcodes 0x78 to 0x7C (R261 to R264): control registers (R66 to R70), page requests (R279), the return
from a trap, counters and trace markers (R336). -/

namespace Sys2Proof.Machine

/-! ## Control registers (R66 to R70) -/

/-- The value that `CSRR` reads (R66); the write-only registers read zero. `CYC` differs by nothing between cores, where R25 allows
a difference of up to 1 (DESIGN CHOICE, log 13). -/
def Ctx.csr (c : Ctx) (n : Nat) : Nat :=
  let g := c.g
  let l := launchOf c.s g
  match n with
  | 0x000 => c.s.now
  | 0x001 => c.s.ptime
  | 0x010 => pack [(9, g.grp)]
  | 0x011 => pack [(16, g.team)]
  | 0x012 => pack [(10, g.core)]
  | 0x013 => pack [(4, dieOf g.core)]
  | 0x014 => pack [(9, g.slot)]
  | 0x015 => g.mask.toNat
  | 0x020 => pack [(10, c.sl.valloc), (6, 0), (9, g.vwb)]
  | 0x021 => pack [(10, c.sl.salloc), (6, 0), (9, g.swb)]
  | 0x022 => pack [(54, liveWord g.vwb g.swb g.live), (1, bitNat g.handler), (1, bitNat (c.s.licenceOf g.gid).isSome), (1, bitNat g.twinned)]
  | 0x023 => pack [(12, natOfBits (g.flags.map (·.set))), (12, natOfBits (g.flags.map fun f => f.pending.isSome))]
  | 0x030 => l.trapVec
  | 0x031 => g.trapCause.toNat
  | 0x032 => g.trapAddr
  | 0x033 => g.trapPc
  | 0x041 => l.rTimeout
  | 0x060 => licstat c.s g
  | 0x061 => pack [(1, bitNat (supervisor c.s g)), (1, bitNat g.handler)]
  | n => if 0x050 ≤ n ∧ n ≤ 0x05F then (l.spads.getD (n - 0x050) 0).toNat else 0

/-- `CSRR` (R261). -/
def execCsrr (d : BitVec 7) (n : BitVec 11) : State → Host.Outcome State Fault Refusal :=
  issue (.csrr d n) fun c =>
    let x := c.csr n.toNat
    if !csrListed n.toNat then c.fail (.csrr d n) 0x01 0
    else c.retire (.csrr d n) none
      (c.dst d.toNat 0 (perStrand fun _ => lowWord x) ++ (if csrWide n.toNat then c.dst (d.toNat + 1) 0 (perStrand fun _ => highWord x) else []))
      (nextPc c.g.pc)

/-- `TRAPVEC` or `RTIMEOUT` of a launch written (R66, R67): a timeout of 0 is taken as 1. -/
def writeTrapvec (s : State) (launch : Nat) (reply : Bool) (v : Nat) : State :=
  s.modLaunch launch fun l => if reply then { l with rTimeout := max 1 (bits v 0 16) } else { l with trapVec := v }

/-- Descriptor n of a launch written; its reserved bits stay zero (R8, R69). -/
def writeSpad (s : State) (launch n : Nat) (v : DWord) : State :=
  let v : DWord := v &&& 0x7FFFFFFF03FFFFFF#64
  s.modLaunch launch fun l => { l with spads := ((List.range 16).map fun k => l.spads.getD k 0).modify n fun _ => v }

/-- The heartbeat deadline of a region set afresh (R335). -/
def setHeart (s : State) (nd : Node) (beat : Bool) : State :=
  if nd.persistent && nd.hbeatInt != 0 then
    let old := s.hearts.find? fun h => h.region == nd.regionId
    let h : Heart := { region := nd.regionId, deadline := s.now + 1000 * nd.hbeatInt, last := if beat then s.now else (old.map (·.last)).getD s.now }
    { s with hearts := h :: s.hearts.filter fun x => x.region != nd.regionId }
  else s

/-- A page request of a unit (R279): a fault, or the state with its record. -/
def pageRequest (s : State) (g : Group) (strand a : Nat) : Except (Nat × Option WalkErr) State :=
  let top := a / 2 ^ 56
  let go (x : Nat) : Except (Nat × Option WalkErr) State :=
    match translate s g.core (rootOf s g) (supervisor s g) .locate x with
    | .error e => .error e
    | .ok p =>
      let key := (g.core, x / p.size * p.size)
      if s.pageReqs.contains key then .ok s
      else .ok (heldRecord { s with pageReqs := s.pageReqs ++ [key] } (launchOf s g) (unitEntry s g 2 0 x) [])
  if top = 0 then go a
  else if top = 0xFC then
    match privateConv (launchOf s g) g strand 1 a with
    | some x => go x
    | none => .error (0x15, none)
  else if top < 0xFB then .error (0x15, none)
  else .ok s

/-- `CSRW` (R261, R66): the value of the lowest strand, or of the scalar; an unlisted number and a privileged write in user mode are
checked last (R91 step 8). -/
def execCsrw (a : BitVec 7) (n : BitVec 11) : State → Host.Outcome State Fault Refusal :=
  issue (.csrw a n) fun c =>
    let i : Instr := .csrw a n
    let x := if csrWide n.toNat then c.src64 a.toNat c.low else (c.src a.toNat c.low).toNat
    let own (f : Group → Group) : State := (c.pass i).modUnit c.g.uid f
    if !csrListed n.toNat then c.fail i 0x01 0
    else if i.privileged && !supervisor c.s c.g then c.fail i 0x08 0
    else match n.toNat with
    | 0x030 => writeTrapvec (c.pass i) c.g.launch false x
    | 0x041 => writeTrapvec (c.pass i) c.g.launch true x
    | 0x031 => own fun g => { g with trapCause := BitVec.ofNat 32 (x % 2 ^ 24) }
    | 0x032 => own fun g => { g with trapAddr := x }
    | 0x033 => own fun g => { g with trapPc := x }
    | 0x040 => setHeart (c.pass i) (launchOf c.s c.g).node true
    | 0x042 =>
      match pageRequest c.s c.g c.low x with
      | .error e => c.failTarget i x e
      | .ok s => { c with s }.pass i
    | k => if 0x050 ≤ k ∧ k ≤ 0x05F then writeSpad (c.pass i) c.g.launch (k - 0x050) (BitVec.ofNat 64 x) else c.pass i

/-- `HBEAT` (R335): the heartbeat that the issuing unit's write records. -/
def execHbeat (_ : Word) (s : State) : Host.Outcome State Fault Refusal :=
  match ctx? s with
  | none => .next s
  | some c => .next (setHeart s (launchOf s c.g).node true)

/-- `PGREQ` (R279): the request that the issuing unit's write makes. -/
def execPgreq (addr : DWord) (s : State) : Host.Outcome State Fault Refusal :=
  match ctx? s with
  | none => .next s
  | some c =>
    match pageRequest s c.g c.low addr.toNat with
    | .error _ => .next s
    | .ok t => .next t

/-- `SPAD_DESCRIPTOR_WRITE` (R67, R261): a supervisor's write of `SPADn` reaches the launch of the issuing unit. -/
def execSpadDescriptorWrite (n : BitVec 4) (v : DWord) (s : State) : Host.Outcome State Fault Refusal :=
  match ctx? s with
  | none => .next s
  | some c => .next (if supervisor s c.g then writeSpad s c.g.launch n.toNat v else s)

/-- `TRAPVEC` (R67): a supervisor's write of `TRAPVEC` or `RTIMEOUT` reaches the launch of the issuing unit. -/
def execTrapvec (reply : Bool) (v : DWord) (s : State) : Host.Outcome State Fault Refusal :=
  match ctx? s with
  | none => .next s
  | some c => .next (if supervisor s c.g then writeTrapvec s c.g.launch reply v.toNat else s)

/-! ## ERET, CYCLE, TRACEM (R262 to R264) -/

/-- `ERET` (R262). -/
def execEret : State → Host.Outcome State Fault Refusal :=
  issue .eret fun c =>
    if !c.g.handler then c.fail .eret 0x01 0
    else match checkTarget c.s c.g c.g.trapPc with
      | some e => c.failTarget .eret c.g.trapPc e
      | none => (c.retire .eret none [] c.g.trapPc true).modUnit c.g.uid trapReturn

/-- `CYCLE` (R263): the ac count belongs to the core; the cores of a die count together (DESIGN CHOICE, log 13). -/
def execCycle (d : BitVec 7) (f : BitVec 4) : State → Host.Outcome State Fault Refusal :=
  issue (.cycle d f) fun c =>
    let x := if f = 0#4 then c.s.now else c.s.acOf c.g.core
    c.retire (.cycle d f) none
      (c.dst d.toNat 0 (perStrand fun _ => lowWord x) ++ c.dst (d.toNat + 1) 0 (perStrand fun _ => highWord x)) (nextPc c.g.pc)

/-- The 32 bytes of a marker (R336). -/
def markerBytes (s : State) (g : Group) (n value : Nat) : List Byte :=
  bytesLE 8 s.now ++ bytesLE 8 g.pc ++ bytesLE 4 g.region ++ bytesLE 2 (pack [(10, g.core)]) ++ bytesLE 2 (pack [(9, g.grp)]) ++
    bytesLE 2 g.team ++ bytesLE 2 (pack [(11, n)]) ++ bytesLE 4 value

/-- A marker posted to the home of its record in the buffer (R188, R336); one whose page cannot be written is lost. -/
def postMarker (s : State) (g : Group) (a : Nat) (bs : List Byte) : State :=
  match lookupPage s g.core (rootOf s g) a with
  | .ok p =>
    if p.res ∧ p.wr ∧ !p.dup then
      postTo s g { kind := .store, n := 8,
                   strands := (List.range 4).map fun k => { strand := k, va := a + 8 * k, loc := .dram p.device (p.pa a + 8 * k), data := dwordOf bs k, aux := 0 } }
    else s
  | .error _ => s

/-- A marker appended to a launch's stream, or counted as lost when the buffer is full; the device then writes the tail and the count of the
header (R336, R342). -/
def traceMark (s : State) (g : Group) (n value : Nat) : State :=
  let l := launchOf s g
  if l.traceBase = 0 ∨ l.traceRecs = 0 then s
  else
    let full := l.traceRecs ≤ l.traceTail
    let tail := if full then l.traceTail else l.traceTail + 1
    let lost := if full then min (l.traceLost + 1) (2 ^ 32 - 1) else l.traceLost
    let t := if full then s else postMarker s g (l.traceBase + 32 + 32 * l.traceTail) (markerBytes s g n value)
    ((devWrite t l.ptRoot l.traceBase (bytesLE 4 tail ++ bytesLE 4 lost)).getD t).modLaunch g.launch fun l => { l with traceTail := tail, traceLost := lost }

/-- `TRACEM` (R264). -/
def execTracem (a : BitVec 7) (n : BitVec 11) : State → Host.Outcome State Fault Refusal :=
  issue (.tracem a n) fun c => { c with s := traceMark c.s c.g n.toNat (c.src a.toNat c.low).toNat }.pass (.tracem a n)

end Sys2Proof.Machine
end

