-- ==== Sys2Proof/Machine/Traps.lean ====
section
/-! DEFINITION. Asynchronous traps (R218, R241, R323), the ends of waits (R139, R140), fault entries held for a full queue (R324, R326),
the watchdogs and the kills that they make (R260, R329, R334, R335, R364). -/

namespace Sys2Proof.Machine

/-- An event that happens of itself in the tick. -/
def passing (o : Host.Outcome State Fault Refusal) (s : State) : State := match o with | .next t => t | _ => s

/-! ## Asynchronous causes (R323) -/

/-- The record of strands of a group is a unit's own: its completion is owed to that unit. -/
def ownRecord (s : State) (g : Group) (gid : Nat) (m : Word) : Bool := gid == g.gid && (owedUnit s gid m).any fun u => u.uid == g.uid

/-- The calls of a unit whose overdue replies have still to be told it. -/
def lateCalls (s : State) (g : Group) : List Call := s.calls.filter fun k => k.overdue && !k.delivered && ownRecord s g k.gid k.mask

/-- The moves of a unit whose missed promises have still to be told it. -/
def lateMoves (s : State) (g : Group) : List Move :=
  s.moves.filter fun m => m.missed && !m.delivered && decide (m.stage < 3) && ownRecord s g m.gid m.mask

/-- The undelivered causes of a unit: flag, cause, TRAPADDR. -/
def causesOf (s : State) (g : Group) : List (Nat × Nat × Nat) :=
  (lateCalls s g).map (fun k => (k.flag, 0x21, 0)) ++ (lateMoves s g).map (fun m => (m.flag, 0x50, tmDst m.desc)) ++ g.causes

/-- The cause that a unit takes next: the lowest flag. -/
def nextCause (s : State) (g : Group) : Option (Nat × Nat × Nat) := leastBy (fun a b => decide (a.1 < b.1)) (causesOf s g)

/-- A cause of a unit marked delivered in the record that it comes from, or taken from those that the unit keeps. -/
def markDelivered (s : State) (g : Group) (flag code : Nat) : State :=
  match (lateCalls s g).find? (fun k => code == 0x21 && k.flag == flag), (lateMoves s g).find? (fun m => code == 0x50 && m.flag == flag) with
  | some k, _ => { s with calls := s.calls.map fun x => if x.id = k.id then { x with delivered := true } else x }
  | none, some m => { s with moves := s.moves.map fun x => if x.id = m.id then { x with delivered := true } else x }
  | none, none => s.modUnit g.uid fun u => { u with causes := u.causes.eraseP fun x => x.1 == flag && x.2.1 == code }

/-- The destinations of the instruction that a unit issues next, which the image of a fault raised before it carries (R74, R324). -/
def nextDest (s : State) (g : Group) : Bool × List Nat :=
  match loadBundle s g with
  | .error _ => (false, [])
  | .ok (_, h) =>
    match slotIssue h with
    | none => (false, [])
    | some (w, iss) => match decodeWord w with | .ok i => destRegs h iss.uni (destBlock iss.uni i) | .error _ => (false, [])

/-- A unit stands at a chain boundary where a trap can be delivered: resident, not halting, not waiting inside an instruction. -/
def atBoundary (g : Group) : Bool :=
  g.loc == .resident && !g.halting && g.chainLen == 0 && g.wait == .none && g.visits.isEmpty && g.visitor.isNone

/-- `TRAP_DELIVERY` (R323): the trap, or the fault when `TRAPVEC` is 0; a target fault is raised at the pc. -/
def execTrapDelivery (u : Nat) (s : State) : Host.Outcome State Fault Refusal :=
  match s.unit? u with
  | none => .next s
  | some g =>
    match nextCause s g, s.slot? g.core g.slot with
    | some (flag, code, addr), some sl =>
      if !atBoundary g ∨ g.handler then .next s
      else
        let vec := (launchOf s g).trapVec
        let s := markDelivered s g flag code
        let g := (s.unit? u).getD g
        if vec = 0 then .next (raise s g sl (nextDest s g) (Ctx.faultReq code 0))
        else match checkTarget s g vec with
          | some e =>
            let s := match e.2 with | some w => walkRecord s g e.1 vec w | none => s
            .next (raise s g sl (nextDest s g) (Ctx.faultReq e.1 vec))
          | none => .next (s.putUnit (trapEntry g vec g.pc addr code flag 0))
    | _, _ => .next s

/-! ## Ends of waits (R139, R140) -/

/-- `PAUSE_END` (R139). -/
def execPauseEnd (u : Nat) (s : State) : Host.Outcome State Fault Refusal :=
  .next (s.modUnit u fun g => if g.pauseEnd ≤ s.now then { g with pauseEnd := 0 } else g)

/-- `SLEEP_WAKE` (R140). -/
def execSleepWake (u : Nat) (s : State) : Host.Outcome State Fault Refusal :=
  .next (s.modUnit u fun g => match g.wait with | .sleep t => if t ≤ s.now then { g with wait := .none } else g | _ => g)

/-! ## Entries that wait for room (R324, R326, R364) -/

/-- The image length written into an entry's record. -/
def withLength (head : List Byte) (n : Nat) : List Byte := head.take 0x38 ++ bytesLE 4 n ++ head.drop 0x3C

/-- The completion record that announces a held entry which has been written (R326, R343). -/
def tellHeld (s : State) (h : HeldEntry) (tail : Nat) : State :=
  match h.qp with
  | some q => complete s q (record 5 0 h.code h.region (BitVec.ofNat 64 h.tag) ((tail + 1) % 2 ^ 32))
  | none => s

/-- A held entry written into its queue: for the fault of a unit its present image, and the unit is then parked (R324). -/
def writeHeld (s : State) (h : HeldEntry) (tail entry : Nat) : Option State :=
  match h.uid with
  | none => (queuePut s h.ptRoot h.qaddr tail entry (h.head ++ h.image)).map fun t => tellHeld t h tail
  | some uid =>
    match s.unit? uid with
    | none => some s
    | some g =>
      match s.slot? g.core g.slot with
      | none => some s
      | some sl =>
        let c := carry g sl h.dest.1 h.dest.2
        let u := { g with carried := some c, seq := g.seq, bundle := none, age := 0, wait := .none, homeFault := none, pauseEnd := 0, visits := [],
                          loc := .swapped, halting := false, halted := false }
        let img := ingotBytes u (headInfo s u) c
        match queuePut s h.ptRoot h.qaddr tail entry (withLength h.head img.length ++ img) with
        | none => none
        | some t =>
          let t := saveImage (tellHeld (t.putUnit u) h tail) (launchOf s g) u
          some (vacate { t with parked := t.parked ++ [{ domain := h.domain, index := tail % 2 ^ 32, qaddr := h.qaddr, u, move := h.move }] } g.core g.slot g.uid)

/-- A held entry may be written: nothing older waits for its queue, the killed launches it follows have ended, and there is room; an
unusable queue ends the wait too. -/
def heldRoom (s : State) (k : Nat) (h : HeldEntry) : Option QState :=
  if (s.heldEntries.take k).any (fun x => x.qaddr == h.qaddr && x.ptRoot == h.ptRoot) ∨
      (h.after.any fun l => s.launches.any fun x => x.idx == l && !x.ended) then none
  else match queueState s h.ptRoot h.qaddr with
  | .full => none
  | q => some q

/-- A held entry that no queue will take: a fault's domain is killed, another record is lost. -/
def loseHeld (s t : State) (h : HeldEntry) : State :=
  match h.uid.bind s.unit? with
  | some g => killLaunches t (domainOf s (launchOf s g)) 0x7F
  | none => t

/-- `FAULT_ENTRY_RETRY` (R324): HEAD, read again, shows room. An unusable queue kills the domain of a fault, and loses other records. -/
def execFaultEntryRetry (k : Nat) (s : State) : Host.Outcome State Fault Refusal :=
  match s.heldEntries[k]? with
  | none => .next s
  | some h =>
    let s' := { s with heldEntries := s.heldEntries.eraseIdx k }
    match heldRoom s k h with
    | none => .next s
    | some (.room tail entry) => .next ((writeHeld s' h tail entry).getD (loseHeld s s' h))
    | some _ => .next (loseHeld s s' h)

/-! ## Kills by the device (R329) -/

/-- The domain of a launch killed with a code, and an entry with KILLED that follows the completion records of its launches. -/
def killWith (s : State) (l : Launch) (code : Nat) (e : EntryInfo) (body : List Byte) : State :=
  let ls := domainOf s l
  let d := domainNode l
  let e := { e with killed := true, domain := d.regionId, escalated := d.addr != l.node.addr, tag := l.tag.toNat, now := s.now, origin := l.node.regionId }
  let t := killLaunches s ls code
  { t with heldEntries := t.heldEntries ++ [{ heldEntry l e body none with after := ls }] }

/-- Fault 0x7F, machine check, of a unit (R329, R354): its entry carries its image, and its domain is killed. -/
def machineCheck (s : State) (g : Group) : State :=
  match g.visitor with
  | some v => visitorFault s g v 0x7F 0
  | none =>
    let c := match g.carried, s.slot? g.core g.slot with
      | some c, _ => c
      | none, some sl => carry g sl false []
      | none, none => { v := [], s := [], destV := [], destS := [], full := false, wrote := [] }
    let img := ingotBytes g (headInfo s g) c
    killWith s (launchOf s g) 0x7F { unitEntry s g 1 0x7F 0 with image := true, length := img.length } img

/-! ## Watchdogs (R334, R335, R364) -/

/-- What an entry says of a barrier (R327). -/
def barrierDetail (id scope expected arrived gen first limit anchor : Nat) : List Byte :=
  bytesLE 1 id ++ bytesLE 1 scope ++ bytesLE 2 expected ++ bytesLE 4 arrived ++ bytesLE 8 gen ++ bytesLE 8 first ++ bytesLE 4 limit ++ bytesLE 4 anchor

/-- A unit of a group of a team: the one that holds its lowest unexited strand. -/
def teamUnit (s : State) (launch team grp : Nat) : Option Group :=
  leastBy (fun a b => decide (lowest a.mask < lowest b.mask)) (s.units.filter fun g => g.launch == launch && g.team == team && g.grp == grp && g.visitor.isNone)

/-- The record whose arrived fragments hold the lowest unexited strand of a group, by its lead. -/
def anchoredLead (s : State) (gid : Nat) : Option Group :=
  leastBy (fun a b => decide (lowest a.mask < lowest b.mask)) ((s.slots.filter fun x => x.gid == gid && !x.visitor).flatMap fun x => x.records.filterMap (·.lead))

/-- PC and state of a group as a watchdog entry samples them (R334): waiting on barrier id when its unit waits there. -/
def sampleGroup (s : State) (t : Team) (id : Nat) (grp : Nat) : Nat × Nat :=
  let unit := teamUnit s t.launch t.idx grp
  let gid : Option Nat := match unit with
    | some g => some g.gid
    | none => (s.slots.find? fun (x : Slot) => x.launch == t.launch && !x.visitor && x.records.any fun (r : Rejoin) => r.lead.any fun (l : Group) => l.team == t.idx && l.grp == grp).map (·.gid)
  match gid with
  | none => (0, 0)
  | some gid =>
    match unit, anchoredLead s gid with
    | some g, (lead : Option Group) =>
      if lead.any fun l => decide (lowest l.mask < lowest g.mask) then ((lead.map (·.pc)).getD 0, 2)
      else
        let st := match g.wait, g.loc with
          | .bar k _ _, _ => if k = id then 7 else if g.loc = .swapped then 6 else 1
          | _, .resident => 1
          | _, .inFlight => 3
          | _, .away => 3
          | _, .queued => 4
          | _, .inCrucible => 5
          | _, .swapped => 6
        (g.pc, st)
    | none, some l => (l.pc, 2)
    | none, none => (0, 0)

/-- The body of a barrier's watchdog entry (R334). -/
def watchBody (s : State) (t : Team) (id : Nat) (arrived : List Nat) : List Byte :=
  let samples := (List.range 512).map (sampleGroup s t id)
  bytesLE 64 (natOfBits ((List.range 512).map arrived.contains)) ++ (samples.flatMap fun p => bytesLE 8 p.1) ++ samples.map fun p => BitVec.ofNat 8 p.2

/-- The time that a barrier's generation has been timed, pre-empted time left out. -/
def barTimed (s : State) (b : Bar) : Option Nat := b.firstAt.map fun t => s.now - t - b.skipped

/-- Limit of a launch's region in rc (R334); none for 0. -/
def barLimit (l : Launch) : Option Nat := if l.node.barTimeout = 0 then none else some (1000 * l.node.barTimeout)

/-- A barrier of a team has reached its limit. -/
def barDue (s : State) (t : Team) (k : Nat) : Bool :=
  match s.launch? t.launch, barTimed s (t.bar k) with
  | some l, some n => !l.preempted && (match barLimit l with | some m => decide (m ≤ n) | none => false)
  | _, _ => false

/-- `BARRIER_TIMEOUT` (R334): `t` is launch × 2^16 + team. -/
def execBarrierTimeout (t b : Nat) (s : State) : Host.Outcome State Fault Refusal :=
  match s.team? (t / 2 ^ 16) (t % 2 ^ 16), s.launch? (t / 2 ^ 16) with
  | some tm, some l =>
    if !barDue s tm b then .next s
    else
      let x := tm.bar b
      let u := teamUnit s tm.launch tm.idx x.first.1
      let mask := match u with | some g => aliveMask s g.gid | none => 0
      let e : EntryInfo :=
        { typ := 4, code := 0x60, core := tm.anchor, slot := (u.map (·.launchSlot)).getD 0, pc := x.first.2.1, grp := x.first.1, team := tm.idx,
          mask := mask.toNat,
          detail := barrierDetail b x.first.2.2 (tm.barN b) x.arrived x.gen (x.firstAt.getD 0) ((barLimit l).getD 0) tm.anchor }
      .next (killWith s l 0x60 e (watchBody s tm b x.groups))
  | _, _ => .next s

/-- The time that an `XSIG` of a unit has lasted; not counted while its twin is swapped out by a pre-emption (R260). -/
def xsigTimed (s : State) (g : Group) : Option Nat :=
  match g.wait, s.twinWindow? g.launch g.core g.slot with
  | .xsig _ _ _ since, some w =>
    let twinOut := s.units.any fun u => u.gid == w.gid (!upperSide g.core) && u.halted
    if twinOut ∨ g.halting then none else some (w.time (upperSide g.core) + (s.now - since))
  | _, _ => none

/-- An `XSIG` has reached its limit. -/
def xsigDue (s : State) (g : Group) : Bool :=
  match xsigTimed s g, barLimit (launchOf s g) with
  | some n, some m => !(launchOf s g).preempted && decide (m ≤ n)
  | _, _ => false

/-- `XSIG_TIMEOUT` (R260): fault 0x60 as a barrier timeout's, with barrier id 0xFE, expected count 1 and arrived count 0. -/
def execXsigTimeout (u : Nat) (s : State) : Host.Outcome State Fault Refusal :=
  match s.unit? u with
  | none => .next s
  | some g =>
    if !xsigDue s g then .next s
    else
      let l := launchOf s g
      let scope := match g.wait with | .xsig sc _ _ _ => sc | _ => 0
      let since := match g.wait with | .xsig _ _ _ t => t | _ => 0
      let pc := match g.wait with | .xsig _ _ true _ => prevPc g.pc | _ => g.pc
      let t := (s.team? g.launch g.team).getD default
      let e : EntryInfo :=
        { typ := 4, code := 0x60, core := t.anchor, slot := g.launchSlot, pc, grp := g.grp, team := g.team, mask := (aliveMask s g.gid).toNat,
          detail := barrierDetail 0xFE scope 1 0 0 since ((barLimit l).getD 0) t.anchor }
      .next (killWith s l 0x60 e (watchBody s t 0xFE []))

/-- A persistent region has missed its heartbeat: a launch of it that is active and not pre-empted. -/
def heartDue (s : State) (region : Nat) : Option (Heart × Launch) :=
  match s.hearts.find? fun h => h.region == region && decide (h.deadline < s.now),
      s.launches.find? fun l => l.node.regionId == region && !l.ended && l.killed.isNone && !l.preempted with
  | some h, some l => some (h, l)
  | _, _ => none

/-- `HEARTBEAT_MISSED` (R335, R364). -/
def execHeartbeatMissed (region : Nat) (s : State) : Host.Outcome State Fault Refusal :=
  match heartDue s region with
  | none => .next s
  | some (h, l) =>
    let e : EntryInfo :=
      { typ := 4, code := 0x61, team := Config.watchTeam s.freeCtr % 2 ^ 16,
        detail := barrierDetail 0xFF 0 0 0 0 h.last (1000 * l.node.hbeatInt) 0 }
    .next (killWith { s with freeCtr := s.freeCtr + 1 } l 0x61 e (List.replicate 4672 0))

/-- The watchdogs whose limits the time reached has passed: their faults come before anything else that happens (R260, R334, R335). -/
def settleWatch (s : State) : State :=
  let bars := s.teams.flatMap fun t => ((List.range 32).filter (barDue s t)).map fun b => (t.launch * 2 ^ 16 + t.idx, b)
  let s := bars.foldl (fun t p => passing (execBarrierTimeout p.1 p.2 t) t) s
  let s := (s.units.filter (xsigDue s)).foldl (fun t g => passing (execXsigTimeout g.uid t) t) s
  s.hearts.foldl (fun t h => passing (execHeartbeatMissed h.region t) t) s

end Sys2Proof.Machine
end

