-- ==== Sys2Proof/Machine/Command.lean ====
section
/-! DEFINITION. The host's side of the module: queue pairs, doorbells and RDMA (R308, R339 to R341), command records and their refusals (R342,
R343, R371), and the commands that set up the session, the device table, the service level and the power states (R271, R286, R311, R342,
R345, R347, R350, R352, R355). -/

namespace Sys2Proof.Machine

/-! ## Device addresses of the host (R340) -/

/-- A physical address: home stack in bits [38:36], stack-local address below, the rest zero (R340). -/
def physOk (a n : Nat) : Bool := decide (a + n ≤ 2 ^ 39)

/-- Bytes read by the command processor or the I/O die: by physical address until SESSION has completed, by virtual address after (R340). -/
def hostRead (s : State) (physical : Bool) (a n : Nat) : Option (List Byte) :=
  if physical then (if physOk a n && !s.dramBad a n then some (Memory.readBytes s.dram a n) else none)
  else devRead s s.ptRoot a n

/-- Bytes written in the same way; nothing is written unless every byte can be. -/
def hostWrite (s : State) (physical : Bool) (a : Nat) (bs : List Byte) : Option State :=
  if physical then
    (if physOk a bs.length && (granules 32 a bs.length).all (fun g => !s.dramPoison.contains g || (decide (a ≤ g * 32) && decide (g * 32 + 32 ≤ a + bs.length))) then
      some (s.dramWrite a bs) else none)
  else devWrite s s.ptRoot a bs

/-- No SESSION has completed. -/
def State.noSession (s : State) : Bool := s.sessionRoot.isNone

/-! ## Queue pairs (R340, R341) -/

/-- The queue pair of a number. -/
def State.qp? (s : State) (id : Nat) : Option QueuePair := s.qps.find? fun q => q.id == id

/-- A queue pair changed in place. -/
def State.modQp (s : State) (id : Nat) (f : QueuePair → QueuePair) : State :=
  { s with qps := s.qps.map fun q => if q.id = id then f q else q }

/-- A queue pair enters the error state (R340): no later command on it is read. -/
def breakQp (s : State) (id : Nat) (out : List HostOut) : State :=
  { s.modQp id fun q => { q with error := true } with hostOut := s.hostOut ++ out }

/-- Held completion records written while there is room, in order (R341). -/
def flushHeld (s : State) (id : Nat) : State :=
  match s.qp? id with
  | none => s
  | some q =>
    let r := q.held.foldl (fun (p : QueuePair × List HostOut) c => let x := qpWrite p.1 s.now c; (x.1, p.2 ++ x.2)) ({ q with held := [] }, [])
    { s.modQp id fun _ => r.1 with hostOut := s.hostOut ++ r.2 }

/-- The effect of a write of CMD_TAIL (R341). -/
def setCmdTail (s : State) (qp tail : Nat) : State :=
  match s.qp? qp with
  | none => s
  | some q =>
    if q.error then s
    else if q.cmdCount < (tail + 2 ^ 32 - q.cmdHead) % 2 ^ 32 then breakQp s qp [.broken qp]
    else s.modQp qp fun q => { q with cmdTail := tail }

/-- The effect of a write of CQ_HEAD (R341). -/
def setCqHead (s : State) (qp head : Nat) : State := flushHeld (s.modQp qp fun q => if q.error then q else { q with cqHead := head }) qp

/-- `CMD_TAIL` (R308, R341). -/
def execCmdTail (qp : Nat) (tail : Word) (s : State) : Host.Outcome State Fault Refusal := .next (setCmdTail s qp tail.toNat)

/-- `CQ_HEAD` (R341). -/
def execCqHead (qp : Nat) (head : Word) (s : State) : Host.Outcome State Fault Refusal := .next (setCqHead s qp head.toNat)

/-- A record count of a ring: a power of two from 16 to 65,536. -/
def ringCount (n : Nat) : Bool := (List.range 13).any fun k => n == 16 * 2 ^ k

/-- What a set-up SEND gives (R340). The order and places of its items are the model's (DESIGN CHOICE, log 26): command ring base at 0x00
(8 bytes), its count at 0x08 (4), remote key at 0x0C (4), completion ring address at 0x10 (8), its count at 0x18 (4), doorbell
requested at 0x20 (8), the rest not read. -/
def setupQp (s : State) (qp : Nat) (bs : List Byte) : Option QueuePair :=
  if bs.length = 64 ∧ field bs 0 8 % 4096 = 0 ∧ ringCount (field bs 8 4) ∧ ringCount (field bs 0x18 4) then
    some
      { id := qp
        cmdBase := field bs 0 8
        physical := s.noSession
        cmdCount := field bs 8 4
        cqAddr := field bs 0x10 8
        cqKey := field bs 0x0C 4
        cqCount := field bs 0x18 4
        cmdTail := 0
        cmdHead := 0
        cqHead := 0
        cqTail := 0
        held := []
        busy := false
        error := false }
  else none

/-- `QUEUE_PAIR_SETUP` (R340): at most 64 queue pairs; any SEND after the first breaks the connection. -/
def execQueuePairSetup (qp : Nat) (bytes : List Byte) (s : State) : Host.Outcome State Fault Refusal :=
  if s.qps.any fun q => q.id == qp && !q.error then .next (breakQp s qp [.nakInvalid qp, .broken qp])
  else if 64 ≤ (s.qps.filter fun q => !q.error).length then .next { s with hostOut := s.hostOut ++ [.broken qp] }
  else match setupQp s qp bytes with
  | none => .next { s with hostOut := s.hostOut ++ [.nakInvalid qp, .broken qp] }
  | some q => .next { s with qps := s.qps.filter (fun x => x.id != qp) ++ [q], hostOut := s.hostOut ++ [.setupReply qp (Config.doorbell qp)] }

/-- The queue pair whose doorbell block holds an address. -/
def doorbellAt (s : State) (a : Nat) : Option (QueuePair × Nat) :=
  s.qps.findSome? fun q => if Config.doorbell q.id ≤ a ∧ a < Config.doorbell q.id + 64 then some (q, a - Config.doorbell q.id) else none

/-- The 64 bytes of a doorbell block. -/
def doorbellBytes (q : QueuePair) : List Byte :=
  bytesLE 8 q.cmdTail ++ bytesLE 8 q.cmdHead ++ bytesLE 8 q.cqHead ++ bytesLE 8 q.cqTail ++ List.replicate 32 0

/-- A write of bytes at an offset of a doorbell block: the host's two words are written, the others ignore it. -/
def doorbellWrite (s : State) (q : QueuePair) (off : Nat) (bytes : List Byte) : State :=
  let old := doorbellBytes q
  let new := (old.take off ++ bytes ++ old.drop (off + bytes.length)).take 64
  let touch (at_ : Nat) : Bool := decide (off < at_ + 4) && decide (at_ < off + bytes.length)
  let s := if touch 0 then setCmdTail s q.id (field new 0 4) else s
  if touch 16 then setCqHead s q.id (field new 16 4) else s

/-- An error record that names no launch: it goes to the queue of the session root (R326). -/
def rootRecord (s : State) (e : EntryInfo) : State :=
  match s.sessionRoot with
  | some r =>
    let q := s.dramRead (r + 8 * 11) 8
    let id := s.dramRead r 4
    let e := { e with origin := id, domain := id, now := s.now }
    match queueState s s.ptRoot q with
    | .room tail entry =>
      match queuePut s s.ptRoot q tail entry (entryBytes e) with
      | some t => complete t (2 ^ 32) (record 5 0 e.code e.origin 0 ((tail + 1) % 2 ^ 32))
      | none => s
    | .full =>
      match devReadLE s s.ptRoot (q + 28) 4 with
      | some n => (devWrite s s.ptRoot (q + 28) (bytesLE 4 (min (n + 1) (2 ^ 32 - 1)))).getD s
      | none => s
    | .unusable => s
  | none => s

/-- The error record of a walk for a host RDMA access or a command that met a bad entry (R369). -/
def hostWalkRecord (s : State) (root : DWord) (code a : Nat) : State :=
  match walk s root a with
  | .bad w =>
    rootRecord s
      { typ := 3, code := if w.poison then 0x19 else code, addr := w.addr
        detail := bytesLE 8 a ++ bytesLE 8 w.level ++ bytesLE 8 w.raw, home := some (w.addr / 2 ^ 36, 0) }
  | _ => s

/-- The record of the first bad entry that translating n bytes at an address meets, if it meets one (R369). -/
def hostWalks (s : State) (root : DWord) (code a n : Nat) : State :=
  match (spans (n / 2 ^ 16 + 2) a n).find? fun x => match walk s root x.1 with | .bad _ => true | _ => false with
  | some x => hostWalkRecord s root code x.1
  | none => s

/-- An RDMA access that fails: a NAK for a remote access error, the record of a bad entry, and the queue pair in the error state (R340). -/
def nakAccess (s : State) (qp code a n : Nat) : State := breakQp (hostWalks s s.ptRoot code a n) qp [.nakAccess qp]

/-- The stacks that hold n bytes at an address serve them: none is turned off or failed. -/
def hostStacksUp (s : State) (a n : Nat) : Bool :=
  (spans (n / 2 ^ 16 + 2) a n).all fun x =>
    let pa : Option Nat := if s.noSession then some x.1 else match walk s s.ptRoot x.1 with
      | .leaf raw level => some (Page.pa { raw, size := pageSize level } x.1)
      | _ => none
    match pa with
    | some p => decide (s.dies.getD (8 + p / 2 ^ 36) 2 ≤ 1)
    | none => true

/-- Any other first message than a set-up SEND breaks the connection with a NAK (R340). -/
def firstMessage (s : State) (qp : Nat) : State := { s with hostOut := s.hostOut ++ [.nakInvalid qp, .broken qp] }

/-- `RDMA_WRITE` (R308, R340, R341). -/
def execRdmaWrite (qp : Nat) (addr : DWord) (bytes : List Byte) (s : State) : Host.Outcome State Fault Refusal :=
  let a := addr.toNat
  match s.qp? qp with
  | none => .next (firstMessage s qp)
  | some q =>
    if q.error then .next s
    else match doorbellAt s a with
    | some (d, off) => .next { doorbellWrite s d off bytes with hostOut := (doorbellWrite s d off bytes).hostOut ++ [.writeAck qp] }
    | none =>
      match (if hostStacksUp s a bytes.length then hostWrite s s.noSession a bytes else none) with
      | some t => .next { t with hostOut := t.hostOut ++ [.writeAck qp] }
      | none => .next (nakAccess s qp 0x11 a bytes.length)

/-- `RDMA_READ` (R308, R340, R341). -/
def execRdmaRead (qp : Nat) (addr : DWord) (len : Nat) (s : State) : Host.Outcome State Fault Refusal :=
  let a := addr.toNat
  match s.qp? qp with
  | none => .next (firstMessage s qp)
  | some q =>
    if q.error then .next s
    else match doorbellAt s a with
    | some (d, off) => .next { s with hostOut := s.hostOut ++ [.readData qp (((doorbellBytes d).drop off).take len)] }
    | none =>
      match (if hostStacksUp s a len then hostRead s s.noSession a len else none) with
      | some bs => .next { s with hostOut := s.hostOut ++ [.readData qp bs] }
      | none => .next (nakAccess s qp 0x10 a len)

/-- `ROCE_ATOMIC` (R339, R340): a NAK for an invalid request. -/
def execRoceAtomic (qp : Nat) (s : State) : Host.Outcome State Fault Refusal :=
  match s.qp? qp with
  | none => .next (firstMessage s qp)
  | some _ => .next { s with hostOut := s.hostOut ++ [.nakInvalid qp] }

/-! ## Command records (R314, R342) -/

/-- The named operands of an opcode: (offset, bytes). Where R342 gives no size, the operand ends before the next one, and W, the kinds
and the levels are one byte (DEDUCED, log 27). -/
def namedOps (op : Nat) : List (Nat × Nat) :=
  match op with
  | 0x01 => [(0x10, 8), (0x18, 8), (0x20, 2), (0x22, 1), (0x23, 1), (0x24, 2), (0x28, 8), (0x30, 8), (0x38, 4), (0x3C, 1)]
  | 0x02 | 0x03 | 0x0D => [(0x10, 8)]
  | 0x04 => [(0x10, 8), (0x18, 8), (0x20, 4)]
  | 0x05 => [(0x18, 8), (0x20, 4)]
  | 0x06 => [(0x10, 8), (0x18, 4)]
  | 0x07 => [(0x10, 8), (0x18, 1), (0x19, 1), (0x1A, 1), (0x20, 8), (0x28, 8)]
  | 0x08 | 0x09 => [(0x10, 4)]
  | 0x0A | 0x0F => [(0x10, 1)]
  | 0x0B => [(0x10, 2), (0x14, 4), (0x18, 4)]
  | 0x0C => [(0x10, 2), (0x12, 1), (0x13, 1), (0x20, 16)]
  | 0x0E => [(0x10, 1), (0x11, 1), (0x12, 1)]
  | _ => [(0x10, 8), (0x18, 2), (0x1C, 4)]

/-- A reserved byte of a record is not zero. -/
def cmdReserved (op : Nat) (bs : List Byte) : Bool :=
  (List.range 64).any fun k =>
    k != 0 && !(decide (8 ≤ k) && decide (k < 16)) && !((namedOps op).any fun x => decide (x.1 ≤ k) && decide (k < x.1 + x.2)) && bs.getD k 0 != 0

/-- The command of a record; none for an unknown opcode or a reserved byte that is not zero. -/
def cmdOp (bs : List Byte) : Option Nat :=
  let op := (bs.getD 0 0).toNat
  if 1 ≤ op ∧ op ≤ 0x10 ∧ !cmdReserved op bs then some op else none

/-- A queue pair whose next record the command processor may take up: published, no record held, none being carried out. -/
def takesNext (q : QueuePair) : Bool := !q.error && !q.busy && q.held.isEmpty && q.cmdTail != q.cmdHead

/-- The next record of a queue pair: none when there is none to take up; an unreadable one is `some none`. -/
def nextRecord (s : State) (qp : Nat) : Option (QueuePair × Option (List Byte)) :=
  match s.qp? qp with
  | none => none
  | some q => if takesNext q then some (q, hostRead s q.physical (q.cmdBase + 64 * (q.cmdHead % q.cmdCount)) 64) else none

/-- TAG of a record. -/
def cmdTag (bs : List Byte) : DWord := BitVec.ofNat 64 (field bs 8 8)

/-- A record taken up: CMD_HEAD moves past it. -/
def takeUp (s : State) (qp : Nat) : State := s.modQp qp fun q => { q with cmdHead := (q.cmdHead + 1) % 2 ^ 32 }

/-- A command refused (R343). -/
def refuse (s : State) (qp op reason : Nat) (tag : DWord) : State := complete s qp (record 2 op reason 0 tag 0)

/-- A command done (R343). -/
def done (s : State) (qp op region : Nat) (tag : DWord) : State := complete s qp (record 1 op 0 region tag 0)

/-- A structure that a command could not read or write: the fault code of the access, the tables, the place. -/
structure Unread where
  code : Nat
  root : DWord
  addr : Nat
  len : Nat
  deriving DecidableEq, Repr

/-- Why a command is refused: the reason, and the structure that it could not read or write. -/
abbrev Refused := Nat × Option Unread

/-- The record of a bad entry met on the way to a structure (R369). -/
def noteUnread (s : State) : Option Unread → State
  | some u => hostWalks s u.root u.code u.addr u.len
  | none => s

/-- A region node that a command names: a bad entry met by its walk is recorded (R369). -/
def noteNode (s : State) (a : Nat) : State := hostWalks s s.ptRoot 0x10 a 256

/-- The operands of an opcode that are addresses taken as physical until SESSION has completed (R340). A LAUNCH is refused then in any case. -/
def addressOps (op : Nat) : List Nat :=
  match op with
  | 0x02 | 0x03 | 0x06 | 0x07 | 0x0D | 0x10 => [0x10]
  | 0x04 => [0x10, 0x18]
  | 0x05 => [0x18]
  | _ => []

/-- An address operand lies outside the physical form before SESSION has completed (R340). -/
def notPhysical (s : State) (op : Nat) (bs : List Byte) : Bool := s.noSession && (addressOps op).any fun k => !physOk (field bs k 8) 1

/-- A command of an opcode taken up from a queue pair: refused with a reason, or carried out. -/
def command (op : Nat) (qp : Nat) (body : State → List Byte → Except Refused State) (s : State) : Host.Outcome State Fault Refusal :=
  match nextRecord s qp with
  | some (_, some bs) =>
    if cmdOp bs = some op then
      match (if notPhysical s op bs then .error (0x09, none) else body (takeUp s qp) bs) with
      | .ok t => .next t
      | .error r => .next (refuse (noteUnread (takeUp s qp) r.2) qp op r.1 (cmdTag bs))
    else .next s
  | _ => .next s

/-- `UNKNOWN_COMMAND` (R342, R343): refused with reason 0x08. A record that cannot be read puts its queue pair into the error state (R340). -/
def execUnknownCommand (qp : Nat) (s : State) : Host.Outcome State Fault Refusal :=
  match nextRecord s qp with
  | some (_, some bs) =>
    if (cmdOp bs).isNone then .next (refuse (takeUp s qp) qp (bs.getD 0 0).toNat 0x08 (cmdTag bs)) else .next s
  | some (q, none) =>
    let t := if q.physical then s else hostWalks s s.ptRoot 0x10 (q.cmdBase + 64 * (q.cmdHead % q.cmdCount)) 64
    .next (breakQp t qp [.nakAccess qp])
  | none => .next s

/-! ## Commands carried out over time -/

/-- A command begun whose completion comes later: no further command of its queue pair is taken up until then. -/
def begin_ (s : State) (p : PendCmd) : State := { s.modQp p.qp fun q => { q with busy := true } with pending := s.pending ++ [p] }

/-- A command whose wait is over leaves the list; its queue pair takes up the next. -/
def endPending (s : State) (p : PendCmd) : State := { s.modQp p.qp fun q => { q with busy := false } with pending := s.pending.erase p }

/-- Groups resident on the cores of a die; with `anchored`, slots reserved there too. -/
def groupsOnDie (s : State) (die : Nat) (anchored : Bool) : Bool :=
  (s.units.any fun g => g.loc == .resident && dieOf g.core == die) || (anchored && s.slots.any fun x => x.here && dieOf x.core == die)

/-- The DRAM contents of a stack are lost: it reads as memory that nothing has written (log 6). -/
def loseDram (s : State) (stack : Nat) : State :=
  { s with
    dram := s.dram.filter fun c => c.1 / 2 ^ 36 != stack
    dramPoison := s.dramPoison.filter fun g => g / 2 ^ 31 != stack }

/-- A die taken out of service: its replica goes with it, and the schedules change (R290, R352); a stack loses its contents. -/
def dieOff (s : State) (die : Nat) : State :=
  let s := if 8 ≤ die then loseDram s (die - 8) else s
  latReschedule { s with dies := modAt s.dies die fun _ => 2, replicas := modAt s.replicas die fun _ => false }

/-- The dies that a level brings up (R348, R350). -/
def levelDies (s : State) (level : Nat) : List Nat :=
  if level = 1 then [0, 1, 8] else (List.range 16).filter fun d => d != 0 && d != 1 && d != 8 && decide (s.dies.getD d 2 ≤ 1)

/-- A valid PEER entry exists. -/
def anyPeer (s : State) : Bool := s.peers.any (·.valid)

/-- A command's wait is over: the state with its effect, or none while it waits. The command itself is ended by `settleOne`. -/
def pendReady (s : State) (p : PendCmd) : Option State :=
  match p.opcode with
  | 0x05 => if p.left.all fun l => s.launches.all fun x => x.idx != l || x.ended then some s else none
  | 0x0B => if ((s.slots.filter fun x => x.here && x.core == p.target).map (·.valloc)).foldl (· + ·) 0 ≤ vfileOf p.target + spillRoom s p.target then some s else none
  | 0x0C =>
    if s.paths.all fun q => q.dev != p.target || q.failed || q.unacked.all fun f => decide ((f.1.seq + 2 ^ 32 - (if q.cls = 0 then p.arg else p.arg2)) % 2 ^ 32 < 2 ^ 31) then some s
    else none
  | 0x0E =>
    if p.arg = 0 then (if p.left.isEmpty && s.replicas.getD p.target false then some s else none)
    else if p.arg = 1 then
      (if groupsOnDie s p.target false then none else some { s with dies := modAt s.dies p.target fun _ => 1 })
    else if groupsOnDie s p.target false || (s.crucible.any fun q => crucibleStack q.core + 8 == p.target) ||
        (s.net.any fun m => m.dst == p.target && (match m.body with | .posted _ _ _ _ => true | _ => false)) then none
    else some (dieOff s p.target)
  | 0x0F =>
    if (s.topLost && s.bottomLost) || !p.left.isEmpty || (p.arg == 2 && !s.locked && anyPeer s) then none else some { s with service := p.arg }
  | _ => none

/-- A pending command looked at: it ends, or a SERVICE goes on to its next level. -/
def settleOne (s : State) (p : PendCmd) : State :=
  match pendReady s p with
  | none => s
  | some t =>
    if p.opcode = 0x0F ∧ p.arg < p.target then
      { t with pending := t.pending.map fun x => if x = p then { p with arg := p.arg + 1, left := levelDies t (p.arg + 1) } else x }
    else done (endPending t p) p.qp p.opcode p.region p.tag

/-- Every pending command looked at. -/
def settleCommands (s : State) : State := s.pending.foldl settleOne s

/-! ## The commands (R342) -/

/-- `SESSION` (R340, R342). -/
def execSession (qp : Nat) : State → Host.Outcome State Fault Refusal :=
  command 0x10 qp fun s bs =>
    let a := field bs 0x10 8
    let dev := field bs 0x18 2
    if s.sessionRoot.isSome then .error (0x07, none)
    else if a % 256 ≠ 0 ∨ dev = 0 ∨ 4095 < dev then .error (0x09, none)
    else match hostRead s true a 256 with
    | none => .error (0x09, none)
    | some node =>
      if field node 8 8 ≠ 0 ∨ field node 4 1 ≠ 1 then .error (0x09, none)
      else .ok (done { s with sessionRoot := some a, ptRoot := BitVec.ofNat 64 (field node 16 8), devNum := dev, sessionId := field bs 0x1C 4 }
        qp 0x10 (field node 0 4) (cmdTag bs))

/-- `SETWIN` (R342, R347). -/
def execSetwin (qp : Nat) : State → Host.Outcome State Fault Refusal :=
  command 0x0A qp fun s bs =>
    let w := field bs 0x10 1
    if w = 0 ∨ 16 < w then .error (0x09, none)
    else if s.launches.any fun l => !l.ended && l.killed.isNone then .error (0x07, none)
    else .ok (done { s with window := w, mismatched := [] } qp 0x0A 0 (cmdTag bs))

/-- `CLROVR` (R311). -/
def execClrovr (qp : Nat) : State → Host.Outcome State Fault Refusal :=
  command 0x08 qp fun s bs =>
    .ok (done { s with overruns := s.overruns.filter fun m => m.1 != field bs 0x10 4 } qp 0x08 (field bs 0x10 4) (cmdTag bs))

/-- A region retired: its rounds stop and its cells are lost (R286). -/
def retireRegion (s : State) (base : Nat) (r : LatRegion) : State :=
  { s with
    latRegions := s.latRegions.filter fun x => x.base != base
    lat := s.lat.filter fun c => !(decide (r.base ≤ c.key % 2 ^ 24) && decide (c.key % 2 ^ 24 < r.base + r.size))
    net := s.net.filter fun m => match m.body with | .round b _ _ _ _ => b != base | .flush _ b _ _ _ => b != base | _ => true }

/-- `LATRET` (R286, R371). -/
def execLatret (qp : Nat) : State → Host.Outcome State Fault Refusal :=
  command 0x09 qp fun s bs =>
    let base := field bs 0x10 4
    match s.latRegions.find? fun r => r.base == base with
    | none => .error (0x09, none)
    | some r =>
      if s.launches.any fun l => !l.ended && l.killed.isNone && l.regions.contains base then .error (0x07, none)
      else .ok (done (retireRegion s base r) qp 0x09 0 (cmdTag bs))

/-- `SETSPILL` (R271): done once the core's registers that its files do not hold fit the new allocation. -/
def execSetspill (qp : Nat) : State → Host.Outcome State Fault Refusal :=
  command 0x0B qp fun s bs =>
    let core := field bs 0x10 2
    let base := field bs 0x14 4
    let size := field bs 0x18 4
    if 1024 ≤ core ∨ base % 256 ≠ 0 ∨ size % 256 ≠ 0 ∨ spadSize core 0 < base + size then .error (0x09, none)
    else if s.owners.any fun o => o.level == 0 && o.index == core && decide (o.base < base + size) && decide (base < o.base + o.size) then .error (0x07, none)
    else
      let s := s.putCore { s.coreState core with spillBase := base, spillSize := size }
      .ok (settleCommands (begin_ s { qp, tag := cmdTag bs, opcode := 0x0B, region := 0, target := core, arg := 0, arg2 := 0, left := [], peer := none }))

/-- `PEER` (R345): the entry is replaced and the path to the device is bound again; a PEER that replaces a valid entry waits for the frames
sent under it. -/
def execPeer (qp : Nat) : State → Host.Outcome State Fault Refusal :=
  command 0x0C qp fun s bs =>
    let dev := field bs 0x10 2
    let port := field bs 0x12 1
    let valid := field bs 0x13 1
    if s.devNum = 0 then .error (0x06, none)
    else if dev = 0 ∨ 4095 < dev ∨ 1 < port ∨ 1 < valid then .error (0x09, none)
    else
      let e : Peer := { dev, port, valid := valid == 1, ip := (bs.drop 0x20).take 16 }
      let old := s.peers.any fun p => p.dev == dev && p.valid
      let next (cls : Nat) : Nat := (pathOf s dev cls).sendSeq
      let s := { s with
        peers := insertPeer e s.peers
        paths := s.paths.map fun p => if p.dev = dev then { p with failed := false } else p }
      if old then .ok (settleCommands (begin_ s { qp, tag := cmdTag bs, opcode := 0x0C, region := 0, target := dev, arg := next 0, arg2 := next 1, left := [], peer := some e }))
      else .ok (done s qp 0x0C 0 (cmdTag bs))
where
  /-- The table with one entry replaced. -/
  insertPeer (e : Peer) (l : List Peer) : List Peer := l.filter (fun p => p.dev != e.dev) ++ [e]

/-- The state of a core in an inventory (R355). -/
def coreByte (s : State) (c : Nat) : Byte :=
  if s.dies.getD (dieOf c) 2 = 3 then 2 else if s.dies.getD (dieOf c) 2 = 2 then 1 else BitVec.ofNat 8 (s.coreState c).status

/-- The inventory block (R355). The spares left of a link are those of the direction with fewer (DEDUCED, log 80). -/
def inventoryBytes (s : State) : List Byte :=
  let cool : Byte := if s.topLost && s.bottomLost then Config.bothLostCode s.freeCtr else if s.topLost then 1 else if s.bottomLost then 2 else 0
  let head := [BitVec.ofNat 8 s.service, cool, BitVec.ofNat 8 s.window, BitVec.ofNat 8 (bitNat s.locked + 2 * bitNat (!s.degraded.isEmpty))] ++ bytesLE 2 s.devNum
  let links := s.links.flatMap fun l => [BitVec.ofNat 8 l.state, BitVec.ofNat 8 (min l.spares.1 l.spares.2)] ++ List.replicate 14 0
  let body := head ++ List.replicate 250 0 ++ s.dies.map (BitVec.ofNat 8) ++ List.replicate 240 0 ++ (List.range 1024).map (coreByte s) ++ links
  body ++ List.replicate (0x1000 - body.length) 0 ++ (List.range 512).flatMap fun c => (rowMapOf c).map (BitVec.ofNat 8)

/-- `INVENTORY` (R355); an address that cannot be written is refused (DEDUCED, log 27). -/
def execInventory (qp : Nat) : State → Host.Outcome State Fault Refusal :=
  command 0x0D qp fun s bs =>
    let a := field bs 0x10 8
    if a % 4096 ≠ 0 then .error (0x09, none)
    else match hostWrite { s with freeCtr := s.freeCtr + 1 } s.noSession a (inventoryBytes s) with
    | none => .error (0x09, some { code := 0x11, root := s.ptRoot, addr := a, len := 0x11000 })
    | some t => .ok (done t qp 0x0D 0 (cmdTag bs))

/-- A licence is held, or on its way out, on a core of a die. -/
def licenceOnDie (s : State) (die : Nat) : Bool := s.pairs.any fun p => (p.holder.isSome || p.dying) && dieOf p.core == die

/-- `POWER` (R352). A change that the present state already has is done at once; a stack that is off cannot be parked, and a failed die takes
no state (DEDUCED, log 27). -/
def execPower (qp : Nat) : State → Host.Outcome State Fault Refusal :=
  command 0x0E qp fun s bs =>
    let kind := field bs 0x10 1
    let idx := field bs 0x11 1
    let goal := field bs 0x12 1
    let die := if kind = 0 then 8 + idx else idx
    let st := s.dies.getD die 3
    let later (left : List Nat) : Except Refused State :=
      .ok (settleCommands (begin_ s { qp, tag := cmdTag bs, opcode := 0x0E, region := 0, target := die, arg := goal, arg2 := 0, left, peer := none }))
    let now (t : State) : Except Refused State := .ok (done t qp 0x0E 0 (cmdTag bs))
    if 1 < kind ∨ 8 ≤ idx ∨ 2 < goal then .error (0x09, none)
    else if kind = 1 ∧ goal = 1 then .error (0x06, none)
    else if st = 3 then .error (0x06, none)
    else if st = goal then now s
    else if goal = 0 then (if st = 1 then now { s with dies := modAt s.dies die fun _ => 0 } else later [die])
    else if goal = 1 then (if st = 2 then .error (0x06, none) else later [])
    else if kind = 1 then (if groupsOnDie s die true || licenceOnDie s die then .error (0x07, none) else now (dieOff s die))
    else later []

/-- `SERVICE` (R350, R351): only upward; not while both cooling loops are lost. -/
def execService (qp : Nat) : State → Host.Outcome State Fault Refusal :=
  command 0x0F qp fun s bs =>
    let goal := field bs 0x10 1
    if goal = 0 ∨ 2 < goal ∨ goal < s.service then .error (0x09, none)
    else if goal = s.service then .ok (done s qp 0x0F 0 (cmdTag bs))
    else if (s.topLost && s.bottomLost) || s.pending.any (fun p => p.opcode == 0x0F) then .error (0x06, none)
    else
      .ok (settleCommands (begin_ s { qp, tag := cmdTag bs, opcode := 0x0F, region := 0, target := goal, arg := s.service + 1, arg2 := 0,
                                      left := levelDies s (s.service + 1), peer := none }))

end Sys2Proof.Machine
end

