-- ==== Sys2Proof/Machine/Integer.lean ====
section
/-! DEFINITION. Integer and logic instructions, rows 0x10 to 0x27 (R144 to R155). -/

namespace Sys2Proof.Machine

/-! ## Results (R145 to R153) -/

/-- `IADD` (R145). -/
def iaddOf (fv : Nat) (a b : Word) : Word :=
  match fv with
  | 1 => wordOf (satS (sgn a + sgn b))
  | 2 => wordOf (satU ((a.toNat : Int) + b.toNat))
  | _ => a + b

/-- `ISUB` (R145). -/
def isubOf (fv : Nat) (a b : Word) : Word :=
  match fv with
  | 1 => wordOf (satS (sgn a - sgn b))
  | 2 => wordOf (satU ((a.toNat : Int) - b.toNat))
  | _ => a - b

/-- `IMUL` (R145). -/
def imulOf (fv : Nat) (a b : Word) : Word :=
  match fv with
  | 1 => wordOf (sgn a * sgn b / 2 ^ 32)
  | 2 => BitVec.ofNat 32 (a.toNat * b.toNat / 2 ^ 32)
  | _ => a * b

/-- `IMAD` (R146): d is the third source. -/
def imadOf (fv : Nat) (d a b : Word) : Word :=
  match fv with
  | 1 => wordOf (satS (sgn a * sgn b + sgn d))
  | 2 => wordOf (satU ((a.toNat : Int) * b.toNat + d.toNat))
  | _ => a * b + d

/-- `IMNX` (R145). -/
def imnxOf (fv : Nat) (a b : Word) : Word :=
  match fv with
  | 0 => if sgn b < sgn a then b else a
  | 1 => if sgn a < sgn b then b else a
  | 2 => if b.toNat < a.toNat then b else a
  | _ => if a.toNat < b.toNat then b else a

/-- `SHL` (R150). -/
def shlOf (fv : Nat) (a b : Word) : Word :=
  if fv = 1 then a.rotateLeft (b.toNat % 32) else if 32 ≤ b.toNat then 0 else a <<< b.toNat

/-- `SHR` (R150). -/
def shrOf (fv : Nat) (a b : Word) : Word :=
  match fv with
  | 1 => if 32 ≤ b.toNat then (if a.msb then allStrands else 0) else a.sshiftRight b.toNat
  | 2 => a.rotateRight (b.toNat % 32)
  | _ => if 32 ≤ b.toNat then 0 else a >>> b.toNat

/-- `BFX` (R151). -/
def bfxOf (fv : Nat) (d a b : Word) : Word :=
  let pos := bits b.toNat 0 5
  let len := min (min (bits b.toNat 8 6) 32) (32 - pos)
  let field := bits a.toNat pos len
  match fv with
  | 1 => if len = 0 then 0 else wordOf (sext field len)
  | 2 => BitVec.ofNat 32 (d.toNat - bits d.toNat pos len * 2 ^ pos + bits a.toNat 0 len * 2 ^ pos)
  | _ => BitVec.ofNat 32 field

/-- `BITOP` (R152). -/
def bitopOf (fv : Nat) (a : Word) : Word :=
  match fv with
  | 0 => BitVec.ofNat 32 (population a)
  | 1 => BitVec.ofNat 32 (if a = 0 then 32 else 31 - Nat.log2 a.toNat)
  | 2 => BitVec.ofNat 32 (if a = 0 then 32 else lowest a)
  | 3 => maskOf fun k => inMask a (31 - k)
  | _ => BitVec.ofNat 32 (pack ((List.range 4).map fun k => (8, bits a.toNat (8 * (3 - k)) 8)))

/-- The immediate of format I as a word (R153). -/
def imm11 (i : BitVec 11) : Word := wordOf (sext i.toNat 11)

/-- `SHI` (R153): kind 0 shl, 1 shr, 2 sar, 3 ror. -/
def shiOf (k n : Nat) (a : Word) : Word :=
  match k with
  | 0 => shlOf 0 a (BitVec.ofNat 32 n)
  | 1 => shrOf 0 a (BitVec.ofNat 32 n)
  | 2 => shrOf 1 a (BitVec.ofNat 32 n)
  | _ => shrOf 2 a (BitVec.ofNat 32 n)

/-! ## Meanings -/

/-- `IADD` (R145). -/
def execIadd (d a b : BitVec 7) (f : BitVec 4) : State → Host.Outcome State Fault Refusal :=
  regOp2 (.iadd d a b f) d a b (iaddOf f.toNat)

/-- `ISUB` (R145). -/
def execIsub (d a b : BitVec 7) (f : BitVec 4) : State → Host.Outcome State Fault Refusal :=
  regOp2 (.isub d a b f) d a b (isubOf f.toNat)

/-- `IMUL` (R145). -/
def execImul (d a b : BitVec 7) (f : BitVec 4) : State → Host.Outcome State Fault Refusal :=
  regOp2 (.imul d a b f) d a b (imulOf f.toNat)

/-- `IMAD` (R146). -/
def execImad (d a b : BitVec 7) (f : BitVec 4) : State → Host.Outcome State Fault Refusal :=
  regOp3 (.imad d a b f) d a b (imadOf f.toNat)

/-- `IMNX` (R145). -/
def execImnx (d a b : BitVec 7) (f : BitVec 4) : State → Host.Outcome State Fault Refusal :=
  regOp2 (.imnx d a b f) d a b (imnxOf f.toNat)

/-- `ISETP` (R147). -/
def execIsetp (p : BitVec 3) (a b : BitVec 7) (f : BitVec 4) : State → Host.Outcome State Fault Refusal :=
  issue (.isetp p a b f) fun c => c.predOp (.isetp p a b f) p.toNat fun k =>
    andOld f.toNat (c.predBit p.toNat k) (icond (f.toNat % 8) (c.src a.toNat k) (c.src b.toNat k))

/-- `SEL` (R148). -/
def execSel (d a b : BitVec 7) (s : BitVec 1) (p : BitVec 3) : State → Host.Outcome State Fault Refusal :=
  issue (.sel d a b s p) fun c => c.regOp (.sel d a b s p) d.toNat fun k =>
    if c.predBit p.toNat k != (s == 1#1) then c.src a.toNat k else c.src b.toNat k

/-- `IADDC` (R149): the register and the carry predicate are written together. -/
def execIaddc (d a b : BitVec 7) (s : BitVec 1) (p : BitVec 3) : State → Host.Outcome State Fault Refusal :=
  issue (.iaddc d a b s p) fun c =>
    let y (k : Nat) := addcExact (s == 1#1) (c.src a.toNat k) (c.src b.toNat k) (c.predBit p.toNat k)
    let vals := perStrand fun k => wordOf (y k)
    c.retire (.iaddc d a b s p) (some vals)
      (c.dst d.toNat 1 vals ++ c.pdst p.toNat 1 c.g.mask (maskOf fun k => addcOut (s == 1#1) (y k))) (nextPc c.g.pc)

/-- `AND` (R145). -/
def execLand (d a b : BitVec 7) : State → Host.Outcome State Fault Refusal := regOp2 (.land d a b) d a b fun x y => x &&& y

/-- `OR` (R145). -/
def execLor (d a b : BitVec 7) : State → Host.Outcome State Fault Refusal := regOp2 (.lor d a b) d a b fun x y => x ||| y

/-- `XOR` (R145). -/
def execLxor (d a b : BitVec 7) : State → Host.Outcome State Fault Refusal := regOp2 (.lxor d a b) d a b fun x y => x ^^^ y

/-- `ANDN` (R145). -/
def execAndn (d a b : BitVec 7) : State → Host.Outcome State Fault Refusal := regOp2 (.andn d a b) d a b fun x y => x &&& ~~~y

/-- `SHL` (R150). -/
def execShl (d a b : BitVec 7) (f : BitVec 4) : State → Host.Outcome State Fault Refusal :=
  regOp2 (.shl d a b f) d a b (shlOf f.toNat)

/-- `SHR` (R150). -/
def execShr (d a b : BitVec 7) (f : BitVec 4) : State → Host.Outcome State Fault Refusal :=
  regOp2 (.shr d a b f) d a b (shrOf f.toNat)

/-- `BFX` (R151). -/
def execBfx (d a b : BitVec 7) (f : BitVec 4) : State → Host.Outcome State Fault Refusal :=
  regOp3 (.bfx d a b f) d a b (bfxOf f.toNat)

/-- `BITOP` (R152). -/
def execBitop (d a : BitVec 7) (f : BitVec 4) : State → Host.Outcome State Fault Refusal :=
  regOp1 (.bitop d a f) d a (bitopOf f.toNat)

/-- `IADDI` (R153). -/
def execIaddi (d a : BitVec 7) (i : BitVec 11) : State → Host.Outcome State Fault Refusal :=
  regOp1 (.iaddi d a i) d a fun x => x + imm11 i

/-- `ANDI` (R153). -/
def execAndi (d a : BitVec 7) (i : BitVec 11) : State → Host.Outcome State Fault Refusal :=
  regOp1 (.andi d a i) d a fun x => x &&& imm11 i

/-- `ORI` (R153). -/
def execOri (d a : BitVec 7) (i : BitVec 11) : State → Host.Outcome State Fault Refusal :=
  regOp1 (.ori d a i) d a fun x => x ||| imm11 i

/-- `XORI` (R153). -/
def execXori (d a : BitVec 7) (i : BitVec 11) : State → Host.Outcome State Fault Refusal :=
  regOp1 (.xori d a i) d a fun x => x ^^^ imm11 i

/-- `SHI` (R153). -/
def execShi (d a : BitVec 7) (k : BitVec 2) (n : BitVec 5) : State → Host.Outcome State Fault Refusal :=
  regOp1 (.shi d a k n) d a (shiOf k.toNat n.toNat)

/-- `MOVI` (R155). -/
def execMovi (d : BitVec 7) (i : BitVec 18) : State → Host.Outcome State Fault Refusal :=
  issue (.movi d i) fun c => c.regOp (.movi d i) d.toNat fun _ => wordOf (sext i.toNat 18)

/-- `MOVHI` (R155): bits [13:0] of D are kept; with D = 112 they read as zero. -/
def execMovhi (d : BitVec 7) (i : BitVec 18) : State → Host.Outcome State Fault Refusal :=
  issue (.movhi d i) fun c => c.regOp (.movhi d i) d.toNat fun k =>
    BitVec.ofNat 32 (i.toNat * 2 ^ 14 + (if d.toNat = 112 then 0 else bits (c.src d.toNat k).toNat 0 14))

/-- `ISETPI` (R154). -/
def execIsetpi (p : BitVec 3) (a : BitVec 7) (cc : BitVec 3) (i : BitVec 8) : State → Host.Outcome State Fault Refusal :=
  issue (.isetpi p a cc i) fun c => c.predOp (.isetpi p a cc i) p.toNat fun k =>
    icond cc.toNat (c.src a.toNat k) (isetpiImm cc.toNat i)

end Sys2Proof.Machine
end

