-- ==== Sys2Proof/Machine/Lattice.lean ====
section
/-! DEFINITION. Lattice instructions, opcodes 0x60 to 0x66 (R224 to R232), and the rounds, flushes and deliveries that carry joins
between replicas (R230 to R233, R285 to R290). -/

namespace Sys2Proof.Machine

/-! ## Addresses (R224) -/

/-- The lattice region that an address names for a unit, checked for a type (R224). -/
def Ctx.cell (c : Ctx) (t a : Nat) : Except (Nat × Nat) LatRegion :=
  let top := a / 2 ^ 56
  let o := a % 2 ^ 56
  if top ≠ 0 ∧ top < 0xFB then .error (0x15, a)
  else if top ≠ 0xFB then .error (0x31, a)
  else
    let mine := if (homeOf c.g.gid).isSome then [] else (launchOf c.s c.g).regions
    match c.s.latRegions.find? fun r => mine.contains r.base && decide (r.base ≤ o) && decide (o < r.base + r.size) with
    | none => .error (0x31, a)
    | some r => if r.typ ≠ t then .error (0x31, a) else if a % latWidth t ≠ 0 then .error (0x16, a) else .ok r

/-- The cells of the active strands (strand, region, offset), or the failure of the lowest that fails. -/
def Ctx.cells (c : Ctx) (t : Nat) (addr : Nat → Nat) : List Nat → Except (Nat × Nat) (List (Nat × LatRegion × Nat))
  | [] => .ok []
  | k :: rest =>
    match c.cell t (addr k) with
    | .error e => .error e
    | .ok r =>
      match c.cells t addr rest with
      | .error e => .error e
      | .ok l => .ok ((k, r, addr k % 2 ^ 56) :: l)

/-- The frame of a lattice instruction: replica in service (R290), the checks of R224, then its effect on its strands' cells. -/
def Ctx.lattice (c : Ctx) (i : Instr) (t : Nat) (act : List Nat) (addr : Nat → Nat) (go : List (Nat × LatRegion × Nat) → State) : State :=
  if !c.s.replicas.getD (dieOf c.g.core) false then c.fail i 0x18 (addr (act.headD 0))
  else match c.cells t addr act with
    | .error (code, a) => c.fail i code a
    | .ok l => go l

/-- A value operand of the width of a type. -/
def Ctx.latVal (c : Ctx) (t f k : Nat) : Nat := if latWidth t = 8 then c.src64 f k else (c.src f k).toNat

/-- Values by strand written to a destination of the width of a type. -/
def Ctx.latResult (c : Ctx) (t d : Nat) (vals : List (Nat × Nat)) : List PendWrite :=
  if d = 112 then []
  else c.dst d 0 (resLanes vals false) ++ (if latWidth t = 8 then c.dst (d + 1) 0 (resLanes vals true) else [])

/-- Results by strand; in uniform form every lane holds the one value. -/
def Ctx.spread (c : Ctx) (vals : List (Nat × Nat)) : List (Nat × Nat) :=
  if c.uni then (List.range 32).map fun k => (k, (vals.head?.map (·.2)).getD 0) else vals

/-- A cell joined by a unit, and noted in its join list (R226, R232). -/
def noteJoin (g : Group) (r : LatRegion) (o : Nat) : Group :=
  let known := g.joinList.contains o
  { g with joinList := if known ∨ 64 ≤ g.joinList.length then g.joinList else g.joinList ++ [o]
           joinOver := g.joinOver || (!known && decide (64 ≤ g.joinList.length))
           joinRegions := if g.joinRegions.contains r.base then g.joinRegions else g.joinRegions ++ [r.base] }

/-- Values joined into cells in ascending strand order: the old values, and the state (R226, R233). -/
def joinCells (s : State) (uid die : Nat) (l : List (Nat × LatRegion × Nat)) (val : Nat → Nat) : List (Nat × Nat) × State :=
  l.foldl (fun p x =>
    let old := latGet p.2 x.2.1.typ die x.2.2
    (p.1 ++ [(x.1, old)], (latRaise p.2 x.2.1 die x.2.2 (latNorm x.2.1.typ (val x.1)) none p.2.now).modUnit uid fun g => noteJoin g x.2.1 x.2.2)) ([], s)

/-! ## Instructions (R226 to R231) -/

/-- `LJOIN` and `LJOINR` (R226). -/
def Ctx.join (c : Ctx) (i : Instr) (a b t : Nat) (d : Nat) : State :=
  let addr (k : Nat) := c.addr a 0 k
  c.lattice i t c.active addr fun l =>
    let r := joinCells c.s c.g.uid (dieOf c.g.core) l (c.latVal t b)
    let g := (r.2.unit? c.g.uid).getD c.g
    { c with s := r.2, g := { c.g with joinList := g.joinList, joinOver := g.joinOver, joinRegions := g.joinRegions } }.retire i none
      (if d = 112 then [] else c.latResult t d (c.spread r.1)) (nextPc c.g.pc)

/-- `LJOIN` (R226). -/
def execLjoin (a b : BitVec 7) (t : BitVec 4) : State → Host.Outcome State Fault Refusal :=
  issue (.ljoin a b t) fun c => c.join (.ljoin a b t) a.toNat b.toNat t.toNat 112

/-- `LJOINR` (R226). -/
def execLjoinr (d a b : BitVec 7) (t : BitVec 4) : State → Host.Outcome State Fault Refusal :=
  issue (.ljoinr d a b t) fun c => c.join (.ljoinr d a b t) a.toNat b.toNat t.toNat d.toNat

/-- The values of cells at the local replica. -/
def Ctx.cellVals (c : Ctx) (l : List (Nat × LatRegion × Nat)) : List (Nat × Nat) :=
  l.map fun x => (x.1, latGet c.s x.2.1.typ (dieOf c.g.core) x.2.2)

/-- `LLD` (R227). -/
def execLld (d a : BitVec 7) (o : BitVec 4) (t : BitVec 4) : State → Host.Outcome State Fault Refusal :=
  issue (.lld d a o t) fun c =>
    let i : Instr := .lld d a o t
    c.lattice i t.toNat c.active (c.addr a.toNat (o.toNat * latWidth t.toNat)) fun l =>
      c.retire i none (c.latResult t.toNat d.toNat (c.spread (c.cellVals l))) (nextPc c.g.pc)

/-- The limit of an `LLDW` wait in rc (R228). -/
def latLimit (s : State) (g : Group) : Nat :=
  let n := (launchOf s g).node.barTimeout
  if n = 0 then 1000000000 else 1000 * n

/-- `LLDW` (R228): the wait's start stands in the unit; fault 0x33 at the first strand unsatisfied when the limit is reached. -/
def execLldw (d a b : BitVec 7) (t : BitVec 4) : State → Host.Outcome State Fault Refusal :=
  issue (.lldw d a b t) fun c =>
    let i : Instr := .lldw d a b t
    let addr (k : Nat) := c.addr a.toNat 0 k
    c.lattice i t.toNat c.active addr fun l =>
      let vals := c.cellVals l
      let start := match c.g.wait with | .lldw t0 => t0 | _ => c.s.now
      match vals.find? fun x => !latLeq t.toNat (c.latVal t.toNat b.toNat x.1) x.2 with
      | some x =>
        if latLimit c.s c.g ≤ c.s.now - start then { c with g := { c.g with wait := .none } }.fail i 0x33 (addr x.1)
        else hold (c.s.modUnit c.g.uid fun g => { g with wait := .lldw start })
      | none =>
        { c with g := { c.g with wait := .none } }.retire i none (c.latResult t.toNat d.toNat (c.spread vals)) (nextPc c.g.pc)

/-- `LSTX` (R229): no strand is written when a value lies below its cell. -/
def execLstx (d a : BitVec 7) (o : BitVec 4) (t : BitVec 4) : State → Host.Outcome State Fault Refusal :=
  issue (.lstx d a o t) fun c =>
    let i : Instr := .lstx d a o t
    let addr (k : Nat) := c.addr a.toNat (o.toNat * latWidth t.toNat) k
    c.lattice i t.toNat c.active addr fun l =>
      let val (k : Nat) := latNorm t.toNat (c.latVal t.toNat d.toNat k)
      let r := joinCells c.s c.g.uid (dieOf c.g.core) l val
      match r.1.find? fun x => !latLeq t.toNat x.2 (val x.1) with
      | some x => c.fail i 0x30 (addr x.1)
      | none =>
        let g := (r.2.unit? c.g.uid).getD c.g
        { c with s := r.2, g := { c.g with joinList := g.joinList, joinOver := g.joinOver, joinRegions := g.joinRegions } }.pass i

/-- `LFLUSH` (R230): the region of the lowest active strand; the unit waits for the acknowledgements. -/
def execLflush (a : BitVec 7) (t : BitVec 4) : State → Host.Outcome State Fault Refusal :=
  issue (.lflush a t) fun c =>
    let i : Instr := .lflush a t
    let addr (k : Nat) := pairValue (c.vsrc a.toNat k) (c.vsrc (a.toNat + 1) k)
    c.lattice i t.toNat (strands c.g.mask) addr fun l =>
      match l with
      | [] => c.pass i
      | (_, r, _) :: _ =>
        let s := c.pass i
        let p := startFlush s c.g.uid (dieOf c.g.core) r
        settleFlush (p.2.modUnit c.g.uid fun g => { g with wait := .flush p.1 }) p.1

/-- `LEPOCH` (R231): one rc before the start of the most recent complete sweep, 0 before the first. -/
def execLepoch (d a : BitVec 7) (t : BitVec 4) : State → Host.Outcome State Fault Refusal :=
  issue (.lepoch d a t) fun c =>
    let i : Instr := .lepoch d a t
    let addr (k : Nat) := pairValue (c.vsrc a.toNat k) (c.vsrc (a.toNat + 1) k)
    c.lattice i t.toNat (strands c.g.mask) addr fun l =>
      let e := match l with
        | [] => 0
        | (_, r, _) :: _ => match r.sweep with | some x => x - 1 | none => 0
      let w (x : Word) := perStrand fun _ => x
      c.retire i none
        (if d = 112#7 then [] else c.vdst d.toNat 0 c.g.mask (w (lowWord e)) ++ c.vdst (d.toNat + 1) 0 c.g.mask (w (highWord e))) (nextPc c.g.pc)

/-- `LATTICE_WAIT_LIMIT` (R228): the waiting `LLDW` looks at its cells again and, past its limit, raises fault 0x33. -/
def execLatticeWaitLimit (u : Nat) (s : State) : Host.Outcome State Fault Refusal :=
  match s.unit? u with
  | none => .next s
  | some g =>
    match g.wait, slotIssue g with
    | .lldw start, some (w, iss) =>
      if s.now - start < latLimit s g then .next s
      else match decodeWord w with
        | .ok (.lldw d a b t) => execLldw d a b t { s with cur := iss }
        | _ => .next s
    | _, _ => .next s

/-! ## Rounds (R287 to R290) -/

/-- The live region with a base. -/
def latBase (s : State) (base : Nat) : Option LatRegion := s.latRegions.find? fun r => r.base == base

/-- A region replaced. -/
def putRegion (s : State) (r : LatRegion) : State := { s with latRegions := s.latRegions.map fun x => if x.base = r.base then r else x }

/-- The deliveries of round k that starts at a time: source, partner, the cells whose bit for it was set before. -/
def roundSends (s : State) (r : LatRegion) (start : Nat) : List (Nat × Nat × List (Nat × Nat)) :=
  ((replicasUp s).flatMap fun d => (roundPartners s r r.round d).map fun p =>
    (d, p, ((latCellsOf s r d).filter fun c => c.dirty.any fun b => b.1 == p && decide (b.2 < start)).map fun c => (c.key % 2 ^ 24, c.val))).filter
    fun x => !x.2.2.isEmpty

/-- `BURNISH_ROUND_START` (R287, R288): at its time, with no round of the region in flight. -/
def execBurnishRoundStart (base : Nat) (s : State) : Host.Outcome State Fault Refusal :=
  match latBase s base with
  | none => .next s
  | some r =>
    if s.now < r.nextAt ∨ r.started.isSome then .next s
    else
      let sends := roundSends s r r.nextAt
      let s := sends.foldl (fun t x => t.send .exchange (1024 + x.1) x.2.1 (.round base r.round x.2.1 x.1 x.2.2)) s
      let sent (key p : Nat) : Bool := sends.any fun x => x.1 == key / 2 ^ 24 && x.2.1 == p && x.2.2.any fun c => c.1 == key % 2 ^ 24
      let s := { s with lat := s.lat.map fun c => { c with dirty := c.dirty.filter fun b => !(sent c.key b.1 && decide (b.2 < r.nextAt)) } }
      .next (putRegion s { r with started := some r.nextAt, left := sends.length })

/-- `ROUND_DELIVERY` (R287): joined at the receiving replica and acknowledged. A delivery that no link carries is sent again until one does (R337,
R338). -/
def execRoundDelivery (m : Nat) (s : State) : Host.Outcome State Fault Refusal :=
  match s.msg? m with
  | some msg =>
    match msg.body with
    | .round base k die src cells =>
      if !routeUp s msg.src msg.dst then .next s else
      let s := s.dropMsg m
      match latBase s base with
      | none => .next s
      | some r =>
        let s := cells.foldl (fun t c => latRaise t r die c.1 c.2 (some src) 0) s
        .next (if r.round = k then putRegion s { r with left := r.left - 1 } else s)
    | _ => .next s
  | none => .next s

/-- `ROUND_COMPLETION` (R288): the next round starts at its own time or now, whichever is later. -/
def execRoundCompletion (base : Nat) (s : State) : Host.Outcome State Fault Refusal :=
  match latBase s base with
  | none => .next s
  | some r =>
    match r.started with
    | some t =>
      if r.left ≠ 0 then .next s
      else .next (putRegion s (r.endRound s t))
    | none => .next s

/-- `LFLUSH_DELIVERY` (R230). -/
def execLflushDelivery (m : Nat) (s : State) : Host.Outcome State Fault Refusal :=
  match s.msg? m with
  | some msg =>
    match msg.body with
    | .flush id base die src cells =>
      if !routeUp s msg.src msg.dst then .next s else
      let s := s.dropMsg m
      let s : State := match latBase s base with
        | none => s
        | some r => cells.foldl (fun t (c : Nat × Nat) => latRaise t r die c.1 c.2 (some src) t.now) s
      .next (settleFlush { s with flushes := s.flushes.map fun f => if f.id = id then { f with left := f.left - 1 } else f } id)
    | _ => .next s
  | none => .next s

/-- Cells delivered for a unit ahead of it, noted in its join list at the new die: R305 has it observe them wherever it goes next
(R232, R305; DEDUCED, log 44). -/
def noteDelivered (s : State) (cells : List (Nat × Nat)) (g : Group) : Group :=
  cells.foldl (fun g c => match latRegionAt s c.1 with | some r => noteJoin g r c.1 | none => g) g

/-- `JOIN_LIST_DELIVERY` (R232). -/
def execJoinListDelivery (m : Nat) (s : State) : Host.Outcome State Fault Refusal :=
  match s.ready? m with
  | some msg =>
    match msg.body with
    | .joinCells uid die cells =>
      if !routeUp s msg.src msg.dst then .next s else
      let s := cells.foldl (fun t c => match latRegionAt t c.1 with | some r => latRaise t r die c.1 c.2 none t.now | none => t) (s.dropMsg m)
      .next (s.modUnit uid fun g => { noteDelivered s cells g with joinWait := g.joinWait - cells.length })
    | _ => .next s
  | none => .next s

/-- `REPLICA_RETURN_COPY` (R290): a die that is on again takes every cell of its ring neighbour's replica, and its replica is in service. -/
def execReplicaReturnCopy (die : Nat) (s : State) : Host.Outcome State Fault Refusal :=
  if s.dies.getD die 2 ≠ 0 ∨ s.replicas.getD die true ∨ 16 ≤ die then .next s
  else
    let kept := s.lat.filter fun c => c.key / 2 ^ 24 != die
    let from_ := ((replicasUp s).find? fun d => decide (die < d)).orElse fun _ => (replicasUp s).head?
    let copy := match from_ with
      | some d => (s.lat.filter fun c => c.key / 2 ^ 24 == d).map fun c => { c with key := latKey die (c.key % 2 ^ 24), changed := s.now }
      | none => []
    .next (latReschedule { s with lat := kept ++ copy, replicas := modAt s.replicas die fun _ => true })

end Sys2Proof.Machine
end

