-- ==== Sys2Proof/Machine/Launches.lean ====
section
/-! DEFINITION. From launch record to resident group and back: the region chain (R42, R43), the kernel descriptor (R99 to R101), lattice
tables (R285, R286), LAUNCH and its refusals (R314, R343, R371), the distributor (R38 to R40, R268, R315, R316), and the end of a launch
(R41, R308, R329). -/

namespace Sys2Proof.Machine

/-! ## Region nodes (R42, R43) -/

/-- Where the session root lies now: its address, and its place in the new frame while its page is being moved (R284, R340). -/
def rootPlaces (s : State) : List Nat :=
  match s.sessionRoot with
  | none => []
  | some r => r :: s.pageMoves.filterMap fun p => if p.oldPa ≤ r ∧ r < p.oldPa + p.size then some (p.newPa + (r - p.oldPa)) else none

/-- The name of a node in the model: its virtual address, and 0 for the session root, which several addresses may map. -/
def nodeKey (s : State) (a : Nat) : Nat :=
  match walk s s.ptRoot a with
  | .leaf raw level =>
    let p : Page := { raw, size := pageSize level }
    if a / 2 ^ 56 = 0 ∧ p.device = 0 ∧ (rootPlaces s).contains (p.pa a) then 0 else a
  | _ => a

/-- The blocks of a chain from a node up to the session root, with the name of each, or the reason of the refusal (R43, R371). A node
not aligned to 256 bytes counts as one that cannot be read (DEDUCED, log 28). -/
def readChain (s : State) : Nat → Nat → Except Refused (List (Nat × List Byte))
  | 0, _ => .error (0x02, none)
  | fuel + 1, a =>
    if a % 256 ≠ 0 then .error (0x02, none)
    else match devRead s s.ptRoot a 256 with
    | none => .error (0x02, some { code := 0x10, root := s.ptRoot, addr := a, len := 256 })
    | some bs =>
      if field bs 4 1 ≠ 1 then .error (0x01, none)
      else if nodeKey s a = 0 then .ok [(0, bs)]
      else if dwordOf bs 1 = 0 then .error (0x02, none)
      else match readChain s fuel (dwordOf bs 1) with
        | .error e => .error e
        | .ok up => .ok ((a, bs) :: up)

/-- The nodes of a chain with their effective values, node first. -/
def effChain : List (Nat × List Byte) → List Node
  | [] => []
  | (a, bs) :: t => let up := effChain t; nodeOf a bs up.head? :: up

/-! ## The kernel descriptor (R99 to R101) -/

/-- A count of registers: a multiple of 8 from 8 to 512 (R98). -/
def allocOk (n : Nat) : Bool := n % 8 == 0 && decide (8 ≤ n) && decide (n ≤ 512)

/-- An entry of the remote table (R100). -/
def remoteOf (bs : List Byte) (i : Nat) : RemoteEntry :=
  let d := dwordOf bs (4 + i)
  { offset := sext d 32, payload := bits d 32 4, reply := bits d 36 3, valid := bit d 39 }

/-- A valid entry breaks R100. -/
def RemoteEntry.bad (e : RemoteEntry) : Bool := e.valid && (e.payload == 0 || decide (8 < e.payload) || decide (4 < e.reply))

/-- A lattice binding: its type code and size in bytes (R101). -/
def bindingOf (bs : List Byte) (k : Nat) : Nat × Nat :=
  let w := field bs (0xA0 + 4 * k) 4
  (bits w 0 4, 8 * bits w 4 21)

/-- A type code of R223. -/
def latTypeOk (t : Nat) : Bool := decide (1 ≤ t) && decide (t ≤ 11)

/-- A descriptor that breaks a limit of R99 to R101: reason 0x04. -/
def descBad (bs : List Byte) : Bool :=
  let n := bits (dwordOf bs 0) 9 5
  !allocOk (bits (dwordOf bs 1) 0 10) || !allocOk (bits (dwordOf bs 1) 16 10) || bits (dwordOf bs 1) 32 10 == 0 || decide (512 < bits (dwordOf bs 1) 32 10) ||
    bits (dwordOf bs 2) 2 2 == 0 || (List.range 16).any (fun i => (remoteOf bs i).bad) || decide (16 < n) ||
    (List.range n).any fun k => !latTypeOk (bindingOf bs k).1 || (bindingOf bs k).2 == 0 || decide (2 ^ 23 < (bindingOf bs k).2)

/-! ## Lattice tables (R285, R286) -/

/-- A descriptor of a lattice table as a region not yet started. -/
def latDescOf (bs : List Byte) : LatRegion :=
  let d := dwordOf bs
  { base := bits (d 0) 0 23
    size := bits (d 0) 32 24
    typ := bits (d 1) 0 4
    butterfly := bit (d 1) 4
    period := bits (d 1) 8 8
    t0 := 0
    round := 0
    nextAt := 0
    left := 0
    started := none
    done := []
    old := false
    sweep := none }

/-- A descriptor breaks R285. -/
def latDescBad (r : LatRegion) : Bool :=
  r.base % 64 != 0 || r.size % 64 != 0 || r.size == 0 || decide (2 ^ 23 < r.size) || decide (2 ^ 23 < r.base + r.size) || !latTypeOk r.typ ||
    r.period == 0 || decide (128 < r.period)

/-- Two regions are equal in every field of their descriptors. -/
def sameRegion (a b : LatRegion) : Bool := a.base == b.base && a.size == b.size && a.typ == b.typ && a.butterfly == b.butterfly && a.period == b.period

/-- Two regions share a byte of the window. -/
def regionsOverlap (a b : LatRegion) : Bool := decide (a.base < b.base + b.size) && decide (b.base < a.base + a.size)

/-- The descriptors of a table, or none when it cannot be read: COUNT, then 16 bytes each. A LATTICE_TABLE of 0 names no table (DEDUCED, log
29). -/
def latTable (s : State) (root : DWord) (a : Nat) : Option (Nat × List LatRegion) :=
  if a = 0 then some (0, [])
  else if a % 16 ≠ 0 then none
  else match devReadLE s root a 8 with
  | none => none
  | some c =>
    let n := c % 128
    match devRead s root (a + 16) (16 * n) with
    | none => none
    | some bs => some (n, (List.range n).map fun k => latDescOf ((bs.drop (16 * k)).take 16))

/-- The regions that a launch lists, each once. -/
def distinctRegions (l : List LatRegion) : List LatRegion :=
  l.foldl (fun acc r => if acc.any (sameRegion r) then acc else acc ++ [r]) []

/-- The reason for which a table refuses a launch (R286). -/
def latRefusal (s : State) (nd : Node) (n : Nat) (ds : List LatRegion) : Option Nat :=
  let new := (distinctRegions ds).filter fun r => !(s.latRegions.any (sameRegion r))
  if nd.quotaLat < n ∨ 64 < n ∨ ds.any latDescBad ∨ (ds.any fun r => s.latRegions.any fun q => regionsOverlap r q && !sameRegion r q) ∨
      (ds.any fun r => ds.any fun q => regionsOverlap r q && !sameRegion r q) ∨ 64 < s.latRegions.length + new.length then some 0x05
  else if n ≠ 0 ∧ s.service = 1 then some 0x06
  else none

/-- New regions made live (R286): every cell at the bottom, T₀ the first multiple of P after now. -/
def startRegions (s : State) (ds : List LatRegion) : State :=
  { s with latRegions := s.latRegions ++ ((distinctRegions ds).filter fun r => !(s.latRegions.any (sameRegion r))).map fun r =>
      { r with t0 := (s.now / (500 * r.period) + 1) * (500 * r.period), nextAt := (s.now / (500 * r.period) + 1) * (500 * r.period) } }

/-! ## LAUNCH (R314, R342, R349, R371) -/

/-- The words of a list of bytes. -/
def wordsOf (n : Nat) (bs : List Byte) : List Word := (List.range n).map fun k => BitVec.ofNat 32 (field bs (4 * k) 4)

/-- A binding's address, from the arguments, names a region of the table with its type and size (R101). -/
def bindingMet (ds : List LatRegion) (args : List Word) (k : Nat) (b : Nat × Nat) : Bool :=
  let a := pairValue (args.getD (2 * k) 0) (args.getD (2 * k + 1) 0)
  a / 2 ^ 56 == 0xFB && ds.any fun r => r.base == a % 2 ^ 56 && r.typ == b.1 && decide (b.2 ≤ r.size)

/-- A scratchpad descriptor has a reserved field that is not zero (R69). -/
def spadReserved (d : Nat) : Bool := bits d 26 6 != 0 || bit d 63

/-- What the fields of a LAUNCH record need before anything is read (R38, R342). -/
def launchFieldsBad (bs : List Byte) : Bool :=
  field bs 0x20 2 == 0 || !([1, 2, 4, 8, 16].contains (field bs 0x22 1)) || decide (1 < field bs 0x23 1) || field bs 0x28 8 % 8 != 0 ||
    field bs 0x30 8 % 4096 != 0 || decide (16 < field bs 0x3C 1)

/-- The launch context that a record, its chain and its descriptor give (R314), or the reason of the refusal; with it the descriptors of
its lattice table. Where several reasons hold, the order is this one (DEDUCED, log 28). -/
def launchOfRecord (s : State) (qp : Nat) (bs : List Byte) : Except Refused (Launch × List LatRegion) :=
  if s.noSession then .error (0x02, none)
  else if s.service = 0 || (s.topLost && s.bottomLost) then .error (0x06, none)
  else if launchFieldsBad bs then .error (0x09, none)
  else match readChain s 8 (field bs 0x10 8) with
  | .error e => .error e
  | .ok raw =>
    let chain := effChain raw
    let nd := chain.headD default
    let root : DWord := BitVec.ofNat 64 (dwordOf ((raw.getLast?.map (·.2)).getD []) 2)
    let da := field bs 0x18 8
    if da % 256 ≠ 0 then .error (0x04, none)
    else match devRead s root da 256 with
    | none => .error (0x04, some { code := 0x10, root, addr := da, len := 256 })
    | some ds =>
      let valloc := bits (dwordOf ds 1) 0 10
      let salloc := bits (dwordOf ds 1) 16 10
      let n := bits (dwordOf ds 1) 32 10
      let twin := bit (dwordOf ds 0) 8
      let teams := field bs 0x20 2
      let cores := field bs 0x22 1
      let stack := field bs 0x23 1 == 1
      let argc := field bs 0x24 2
      let spadn := field bs 0x3C 1
      if field ds 0 1 ≠ 1 then .error (0x01, none)
      else if descBad ds then .error (0x04, none)
      else if twin ∧ (stack ∨ teams % 2 = 1) then .error (0x0A, none)
      else if cores * (if stack then 128 else 512) < n then .error (0x03, none)
      else if s.service = 1 ∧ !stack ∧ 1 < cores then .error (0x06, none)
      else if salloc < argc then .error (0x09, none)
      else
        let argBytes := roundUp (4 * argc) 8
        match (if argBytes + 8 * spadn = 0 then some [] else devRead s root (field bs 0x28 8) (argBytes + 8 * spadn)) with
        | none => .error (0x09, some { code := 0x10, root, addr := field bs 0x28 8, len := argBytes + 8 * spadn })
        | some ab =>
          let args := wordsOf argc ab
          let spads : List Nat := (List.range spadn).map fun k => field ab (argBytes + 8 * k) 8
          if spads.any spadReserved then .error (0x09, none)
          else match latTable s root nd.latticeTable with
          | none => .error (0x05, some { code := 0x10, root, addr := nd.latticeTable, len := 16 * 65 })
          | some (count, lat) =>
            match latRefusal s nd count lat with
            | some r => .error (r, none)
            | none =>
              if !((List.range (bits (dwordOf ds 0) 9 5)).all fun k => bindingMet lat args k (bindingOf ds k)) then .error (0x04, none)
              else
                .ok
                  ({ idx := s.nextId
                     tag := cmdTag bs
                     qp
                     chain
                     ptRoot := root
                     kernel := da
                     entry := wrap 64 ((da : Int) + sext (dwordOf ds 2) 64) / 4 * 4
                     valloc
                     salloc
                     teamGroups := n
                     teams
                     cores
                     stackKind := stack
                     twin
                     args
                     trapVec := nd.trapVector
                     rTimeout := nd.replyTimeout
                     spads := spads.map (BitVec.ofNat 64) ++ List.replicate (16 - spadn) 0
                     remote := (List.range 16).map (remoteOf ds)
                     regions := (distinctRegions lat).map (·.base)
                     traceBase := field bs 0x30 8
                     traceRecs := field bs 0x38 4
                     traceTail := 0
                     traceLost := 0
                     toPlace := List.range teams
                     killed := none
                     preempted := false
                     lastWindow := none
                     ended := false
                     guestOf := none }, lat)

/-- `LAUNCH` (R314): the context is created and its teams wait for the distributor; the first launch of a region sets its heartbeat
deadline (R335). -/
def execLaunch (qp : Nat) : State → Host.Outcome State Fault Refusal :=
  command 0x01 qp fun s bs =>
    match launchOfRecord s qp bs with
    | .error e => .error e
    | .ok (l, lat) =>
      let first := !(s.launches.any fun x => x.node.addr == l.node.addr && !x.ended)
      let s := startRegions { s with nextId := s.nextId + 1, launches := s.launches ++ [l] } lat
      let s := if first then setHeart s l.node false else s
      .ok (done s qp 0x01 l.node.regionId (cmdTag bs))

/-! ## The distributor (R38 to R40, R43, R268, R315, R316) -/

/-- The launch whose team is considered next: the highest effective priority, then the earliest arrival (R315). -/
def nextToPlace (s : State) : Option Launch :=
  leastBy (fun a b => lexLt [7 - a.node.priority, a.idx] [7 - b.node.priority, b.idx])
    (s.launches.filter fun l => !l.ended && !l.preempted && l.killed.isNone && !l.toPlace.isEmpty)

/-- Groups of a team on the j-th of its cores (R38). -/
def groupsOn (l : Launch) (j : Nat) : List Nat := (List.range l.teamGroups).filter fun g => g % l.cores == j

/-- The cores of a placement, its twin cores too. -/
def allCores (l : Launch) (cores : List Nat) : List Nat := cores ++ (if l.twin then cores.map twinOf else [])

/-- The slots that groups of a launch may take on a core: in a twinned launch, those free on both twin cores (R315). -/
def placeSlots (s : State) (l : Launch) (core : Nat) : List Nat :=
  (freeSlots s core).filter fun k => !l.twin || (freeSlots s (twinOf core)).contains k

/-- The ownership that a placement on cores asks for: one range for each used descriptor and scratchpad (R268). -/
def wantedOwners (l : Launch) (cores : List Nat) : List Owner :=
  ((allCores l cores).flatMap fun c => (l.spads.filter fun d => spadBytes d != 0).map fun d =>
    ({ level := spadLvl d, index := spadIndex c (spadLvl d), base := spadBase d,
       size := min (spadBytes d) (spadSize c (spadLvl d) - spadBase d), region := l.node.regionId, launch := l.idx } : Owner)).eraseDups.filter fun o => o.size != 0

/-- A range can be granted: no other region owns a byte of it, and it lies outside spill allocations (R268, R271). -/
def ownerFree (s : State) (o : Owner) : Bool :=
  (s.owners.all fun w => !(w.level == o.level && w.index == o.index && w.region != o.region && decide (w.base < o.base + o.size) && decide (o.base < w.base + w.size))) &&
    (o.level != 0 || let c := s.coreState o.index; !(decide (c.spillBase < o.base + o.size) && decide (o.base < c.spillBase + c.spillSize) && c.spillSize != 0))

/-- Effective budgets of the launch's node and of every ancestor admit a team on given cores (R43). -/
def teamBudgetOk (s : State) (l : Launch) (cores : List Nat) : Bool :=
  let n := l.teamGroups * (if l.twin then 2 else 1)
  l.chain.all fun nd =>
    let mine := s.slots.filter fun x => x.here && beneath s nd x.launch
    let spad := (s.owners.filter fun o => beneath s nd o.launch) ++ wantedOwners l cores
    decide (mine.length + n ≤ nd.budgetGroups) && decide ((allCores l cores ++ mine.map (·.core)).eraseDups.length ≤ nd.budgetCores) &&
      decide (((mine.map (·.valloc)).foldl (· + ·) 0 + n * l.valloc) * 128 ≤ nd.quotaV * 1024) &&
      decide (((mine.map (·.salloc)).foldl (· + ·) 0 + n * l.salloc) * 4 ≤ nd.quotaS * 1024) &&
      decide ((spad.eraseDups.map (·.size)).foldl (· + ·) 0 ≤ nd.quotaSpad * 1024)

/-- A list of numbers strictly rising. -/
def rising : List Nat → Bool
  | a :: b :: t => decide (a < b) && rising (b :: t)
  | _ => true

/-- A team is resident: some group of it, or some anchored slot of one, stands on its cores; one whose groups are all swapped out is not (R39,
R315). -/
def teamHere (s : State) (t : Team) : Bool :=
  let mine (gid : Nat) : Bool := s.units.any fun g => g.gid == gid && g.launch == t.launch && g.team == t.idx && g.visitor.isNone
  (s.units.any fun g => g.launch == t.launch && g.team == t.idx && g.visitor.isNone && g.loc != .swapped) ||
    s.slots.any fun x => x.here && x.launch == t.launch && !x.visitor && (mine x.gid || x.records.any fun r => r.lead.any fun g => g.team == t.idx)

/-- Every condition of R315 holds for the next team of a launch on given cores. -/
def placeOk (s : State) (l : Launch) (cores : List Nat) : Bool :=
  cores.length == l.cores && rising cores && (cores.all fun c => decide (c < 1024) && isStackCore c == l.stackKind && c / 16 == cores.headD 0 / 16) &&
    (!l.twin || cores.all fun c => !isUpper c) && (allCores l cores).all (coreUp s) &&
    ((List.range l.cores).all fun j =>
      let c := cores.getD j 0
      let n := (groupsOn l j).length
      decide (n ≤ (placeSlots s l c).length) && filesOk s c (n * l.valloc) (n * l.salloc) && (!l.twin || filesOk s (twinOf c) (n * l.valloc) (n * l.salloc))) &&
    (s.teams.all fun t => !teamHere s t || (t.anchor != cores.headD 0 && (!l.twin || t.anchor != twinOf (cores.headD 0)))) &&
    (wantedOwners l cores).all (ownerFree s) && teamBudgetOk s l cores

/-- The state of a group at launch (R74, R316). -/
def newGroup (l : Launch) (id team grp core slot : Nat) : Group :=
  { uid := id
    gid := id
    launch := l.idx
    team
    grp
    visitor := none
    loc := .resident
    core
    slot
    launchCore := core
    launchSlot := slot
    twinned := l.twin
    mask := allStrands
    pc := l.entry
    vwb := 0
    swb := 0
    live := { vbase := 0, vcount := 0, sbase := 0, scount := 0, bar := 0, declared := false }
    preds := List.replicate 6 0 ++ [allStrands]
    flags := List.replicate 12 { set := false, pending := none }
    anchorDev := 0
    anchor := 0
    rejoin := 0
    handler := false
    trapPc := 0
    trapAddr := 0
    trapCause := 0
    chainLen := 0
    bypass := []
    holds := []
    holdPtr := 0
    pend := []
    chainHold := 0
    bundle := none
    pauseEnd := 0
    holding := false
    age := 0
    opps := 64
    halting := false
    halted := false
    wait := .none
    visits := []
    postErrs := []
    deferred := none
    lastWindow := none
    acqFlags := []
    homeFault := none
    joinList := []
    joinOver := false
    joinRegions := []
    joinWait := 0
    image := none
    msRows := 0
    msFlag := 0
    resume := (0, 0, 0, 0)
    haltPosted := 0
    carried := none
    region := l.node.regionId
    seq := 0
    homeDev := 0
    flagDevs := []
    causes := []
    tokens := []
    lateAbsent := 0
    inAnchor := false
    rejoining := false
    awaited := [] }

/-- The slot of a group at launch: arguments in s0 onward, every dirty bit clear (R74). -/
def newSlot (l : Launch) (core slot gid : Nat) : Slot :=
  let x := blankSlot core slot gid l.idx l.valloc l.salloc false
  { x with
    s := l.args.take l.salloc ++ List.replicate (l.salloc - l.args.length) 0
    vdirty := x.vdirty.map fun _ => false
    sdirty := x.sdirty.map fun _ => false }

/-- The core and slot of group g of a team placed on cores: the lowest free slot of its core in turn (R38, R315). -/
def groupPlace (s : State) (l : Launch) (cores : List Nat) (g : Nat) : Nat × Nat :=
  let c := cores.getD (g % l.cores) 0
  (c, (placeSlots s l c).getD (g / l.cores) 0)

/-- One team placed on cores at places already found. -/
def placeTeam (s : State) (l : Launch) (idx : Nat) (places : List (Nat × Nat)) (cores : List Nat) : State :=
  let ids := (List.range l.teamGroups).map (s.nextId + ·)
  let row := (List.range l.teamGroups).zip (ids.zip places)
  { s with
    nextId := s.nextId + l.teamGroups
    units := s.units ++ row.map fun x => newGroup l x.2.1 idx x.1 x.2.2.1 x.2.2.2
    slots := s.slots ++ row.map fun x => newSlot l x.2.2.1 x.2.2.2 x.2.1
    teams := s.teams ++ [{ launch := l.idx, idx, cores, anchor := cores.headD 0, members := List.range l.teamGroups, bars := List.replicate 32 Bar.blank }] }

/-- The twin windows of two teams just placed in the same slots (R40, R63). -/
def newTwins (s : State) (l : Launch) (idx : Nat) (places : List (Nat × Nat)) : List TwinWindow :=
  let gidOf (team grp : Nat) : Nat := ((s.units.find? fun u => u.launch == l.idx && u.team == team && u.grp == grp).map (·.gid)).getD 0
  places.zipIdx.map fun x =>
    { lower := x.1.1, slot := x.1.2, launch := l.idx, gidLower := gidOf idx x.2, gidUpper := gidOf (idx + 1) x.2
      x := List.replicate 8 (List.replicate 32 0), late := [], lateAt := 0, sentL := 0, usedL := 0, sentU := 0, usedU := 0, timeL := 0, timeU := 0 }

/-- The next team of a launch, with its twin team, placed on cores (R315). -/
def place (s : State) (l : Launch) (cores : List Nat) : State :=
  match l.toPlace with
  | [] => s
  | idx :: rest =>
    let places := (List.range l.teamGroups).map (groupPlace s l cores)
    let t := placeTeam s l idx places cores
    let t := if l.twin then
        let t := placeTeam t l (idx + 1) (places.map fun p => (twinOf p.1, p.2)) (cores.map twinOf)
        { t with twins := t.twins ++ newTwins t l idx places }
      else t
    let t := { t with owners := t.owners ++ (wantedOwners l cores).filter fun o => !t.owners.contains o }
    t.modLaunch l.idx fun x => { x with toPlace := if l.twin then rest.drop 1 else rest }

/-- Lists of k members of a list, in order. -/
def choose : Nat → List Nat → List (List Nat)
  | 0, _ => [[]]
  | _ + 1, [] => []
  | k + 1, x :: t => (choose k t).map (x :: ·) ++ choose (k + 1) t

/-- A placement of the next team: the environment's where it is one, else the first by core number (R315 leaves the choice open). -/
def findPlace (s : State) (l : Launch) : Option (List Nat) :=
  let first := s.env.places.head?.bind fun c => if placeOk s l c then some c else none
  first.orElse fun _ =>
    ((List.range 64).filter fun k => decide (32 ≤ k) == l.stackKind).findSome? fun k =>
      (choose l.cores ((List.range 16).map (16 * k + ·))).find? (placeOk s l)

/-- `DISTRIBUTOR_PLACE_TEAM` (R315): the next waiting team is placed whole on given cores, if it can be. -/
def execDistributorPlaceTeam (cores : List Nat) (s : State) : Host.Outcome State Fault Refusal :=
  match nextToPlace s with
  | none => .next s
  | some l =>
    if placeOk s l cores then
      .next { place s l cores with env := { s.env with places := if s.env.places.head? = some cores then s.env.places.drop 1 else s.env.places } }
    else .next s

/-! ## The end of a launch (R41, R308, R329) -/

/-- Every group of a launch has ended, every access and tile move of it is complete, and the window rule is met (R308, R310). -/
def launchQuiet (s : State) (l : Launch) : Bool :=
  !l.ended && l.toPlace.isEmpty && !(s.units.any fun g => g.launch == l.idx) && !(s.slots.any fun x => x.launch == l.idx) &&
    !(s.posted.any fun p => p.launch == l.idx) && !(s.calls.any fun c => c.launch == l.idx) && !(s.moves.any fun m => m.launch == l.idx) &&
    !(s.net.any fun m => match m.body with | .call c => c.srcDev == 0 && c.launch == l.idx | _ => false) &&
    (match l.lastWindow with | some n => decide ((n + 2) * s.window * 1000 ≤ s.ptime) | none => true) &&
    (l.killed.isNone || (!(s.pairs.any (·.dying)) && !(s.saved.any fun x => x.launch == l.idx)))

/-- `LAUNCH_COMPLETION` (R41, R308, R329, R343): the record, with the code of a kill by the device; scratchpad ownership is freed (R268). -/
def execLaunchCompletion (l : Nat) (s : State) : Host.Outcome State Fault Refusal :=
  match s.launch? l with
  | none => .next s
  | some x =>
    if !launchQuiet s x then .next s
    else
      let s := { s.modLaunch l (fun y => { y with ended := true }) with
        owners := s.owners.filter fun o => o.launch != l
        twins := s.twins.filter fun w => w.launch != l
        teams := s.teams.filter fun t => t.launch != l }
      let c := match x.killed with
        | some code => record 4 0x01 code x.node.regionId x.tag 0
        | none => record 3 0x01 0 x.node.regionId x.tag 0
      .next (settleCommands (complete s x.qp c))

end Sys2Proof.Machine
end

