-- ==== Sys2Proof/Machine/Preempt.lean ====
section
/-! DEFINITION. Pre-emption (R53, R54, R332, R333): halting, saving into checkpoint records (R75, R330, R331), re-entry; and the two commands
for parked groups (R328, R329). -/

namespace Sys2Proof.Machine

/-! ## Halting (R255, R259, R332) -/

/-- Launches under a node that have not ended. -/
def coveredBy (s : State) (node : Nat) : List Launch :=
  s.launches.filter fun l => !l.ended && l.killed.isNone && l.chain.any fun n => n.addr == node

/-- A unit waits inside an inline instruction that is counted halted at once and saved after its completion (R332). -/
def finishesInline (s : State) (g : Group) : Bool :=
  match g.wait with
  | .inlineAccess _ _ _ _ => true
  | .barSent _ _ _ => true
  | .query _ => true
  | .flush _ => true
  | .matrix => s.arrays.any fun a => a.ops.any fun o => o.uid == g.uid && o.kind != 1
  | _ => false

/-- A unit as its halt leaves it: PC_W and the resume block by the table of R332. -/
def haltedUnit (s : State) (g : Group) : Group :=
  let h : Group := { g with halting := true, halted := true, wait := .none, bundle := none, pauseEnd := 0, age := 0
                            haltPosted := (s.posted.filter fun p => p.owners.contains g.uid).length }
  match g.wait with
  | .sleep _ => { h with pc := prevPc g.pc }
  | .bar id scope token => { h with resume := (1, id, scope, token) }
  | .xsig scope _ signalled _ =>
    if signalled then
      { h with resume := (2, 0, scope, ((s.twinWindow? g.launch g.core g.slot).map fun w => (w.counts (upperSide g.core)).2.toNat).getD 0) }
    else h
  | _ => h

/-- A unit that is halting, its chain ended, halts: it leaves the waiters of a licence, the count of its `XSIG` stops, the sequencer of a
licence holder stops at a row boundary (R255 step 1, R259, R260). -/
def haltUnit (s : State) (g : Group) : State :=
  let s := match s.licenceOf g.gid with | some p => s.putPair { p with saving := true } | none => s
  let s := match g.wait, s.twinWindow? g.launch g.core g.slot with
    | .xsig _ _ _ since, some w => s.putTwin (w.addTime (upperSide g.core) (s.now - since))
    | _, _ => s
  { s.putUnit (haltedUnit s g) with pairs := s.pairs.map fun p => { p with waiters := p.waiters.filter fun w => w.1 != g.uid } }

/-- A halting unit that can halt now. -/
def canHalt (s : State) (g : Group) : Bool := g.halting && !g.halted && g.loc == .resident && g.chainLen == 0 && !finishesInline s g

/-- Every halting unit that can halt does. -/
def settleHalts (s : State) : State :=
  s.units.foldl (fun t g => match t.unit? g.uid with | some h => if canHalt t h then haltUnit t h else t | none => t) s

/-- A unit counts as halted (R53, R332). -/
def countsHalted (s : State) (g : Group) : Bool := g.loc != .resident || g.halted || (g.halting && finishesInline s g)

/-- Nothing of a launch is left to save: every unit is swapped out or on another module, every reserved slot is saved. -/
def launchSaved (s : State) (l : Launch) : Bool :=
  (s.units.all fun g => g.launch != l.idx || g.loc == .swapped || g.loc == .away) && s.slots.all fun x => x.launch != l.idx || !x.here

/-- REGION_ID of a node as the launches under it have read it; 0 when there is none. -/
def nodeRegion (s : State) (node : Nat) : Nat :=
  ((s.launches.findSome? fun l => l.chain.find? fun n => n.addr == node).map (·.regionId)).getD 0

/-- A pre-emption looked at: the halt event, then the save event (R332). One that no PREEMPT command asked for writes no record. -/
def settlePreempt (s : State) (p : Preempt) : State :=
  let ls := coveredBy s p.node
  let put (t : State) (q : Preempt) : State := { t with preempts := t.preempts.map fun x => if x = p then q else x }
  let tell (t : State) (kind : Nat) : State := if p.qp < 2 ^ 32 then complete t p.qp (record kind 0x02 0 (nodeRegion s p.node) p.tag 0) else t
  if !p.haltTold then
    (if s.units.all fun g => !(ls.any fun l => l.idx == g.launch) || countsHalted s g then tell (put s { p with haltTold := true }) 6 else s)
  else if !p.saveTold then (if ls.all (launchSaved s) then tell (put s { p with saveTold := true }) 7 else s)
  else s

/-- Every pre-emption looked at, for its halt and for its save. -/
def settlePreempts (s : State) : State :=
  let s := s.preempts.foldl settlePreempt s
  s.preempts.foldl settlePreempt s

/-- A pre-emption of a node begun: its launches are marked, their units begin to halt. -/
def startPreempt (s : State) (node qp : Nat) (tag : DWord) : State :=
  let ls := (coveredBy s node).map (·.idx)
  let p : Preempt := { node, qp, tag, since := s.now, haltTold := false, saveTold := false }
  settlePreempts (settleHalts
    { s with
      launches := s.launches.map fun l => if ls.contains l.idx then { l with preempted := true } else l
      units := s.units.map fun g => if ls.contains g.launch ∧ g.loc = .resident then { g with halting := true } else g
      preempts := s.preempts ++ [p] })

/-- `PREEMPT` (R332): its completions are the halt event and the save event. -/
def execPreempt (qp : Nat) : State → Host.Outcome State Fault Refusal :=
  command 0x02 qp fun s bs => .ok (startPreempt (noteNode s (field bs 0x10 8)) (nodeKey s (field bs 0x10 8)) qp (cmdTag bs))

/-! ## Saving (R53, R75, R330 to R332) -/

/-- The unit's pre-emption has reported its halt. -/
def haltReported (s : State) (launch : Nat) : Bool :=
  (s.launch? launch).any fun l => l.preempted && s.preempts.all fun p => p.haltTold || !(l.chain.any fun n => n.addr == p.node)

/-- A halted unit stands where it can be saved: on its core, or in a queue, or at the head of the crucible for its core (R53). -/
def savePlace (s : State) (g : Group) : Bool :=
  match g.loc with
  | .resident => g.halted && !(s.heldEntries.any fun h => h.uid == some g.uid)
  | .queued => true
  | .inCrucible => ((s.crucible.find? fun q => q.core == g.core).map (·.uid)) == some g.uid
  | _ => false

/-- No arrival of a team is on its way to its barriers (R332 step 3). -/
def arrivalsIn (s : State) (launch team : Nat) : Bool :=
  !(s.net.any fun m => match m.body with
    | .barArrive gid _ _ _ _ _ => s.units.any fun u => u.gid == gid && u.launch == launch && u.team == team
    | _ => false)

/-- A unit that can be saved now (R53); the record of a unit of group 0 waits for the arrivals that were on their way at the halt. -/
def canSave (s : State) (g : Group) : Bool := haltReported s g.launch && savePlace s g && (g.grp != 0 || arrivalsIn s g.launch g.team)

/-- A unit halted for the loss of the top cooling loop and not yet saved (R257, R351). -/
def coolHalted (s : State) (g : Group) : Bool :=
  !((s.launch? g.launch).any (·.preempted)) && savePlace s g && (g.loc == .resident || upperHolder s g.gid)

/-- Bytes of a resume block (R331). -/
def resumeBlock (g : Group) : List Byte :=
  bytesLE 1 g.resume.1 ++ bytesLE 1 g.resume.2.1 ++ bytesLE 2 g.resume.2.2.1 ++ bytesLE 4 g.resume.2.2.2 ++ bytesLE 8 g.haltPosted ++ List.replicate 48 0

/-- A barrier block (R331). -/
def barBlock (t : Team) (k : Nat) : List Byte :=
  let b := t.bar k
  bytesLE 2 (t.barN k) ++ bytesLE 2 b.n0 ++ bytesLE 4 b.arrived ++ bytesLE 8 b.gen ++ bytesLE 16 (b.firstAt.getD 0) ++
    bytesLE 64 (natOfBits ((List.range 512).map b.groups.contains))

/-- The barrier of a block (R331); what a block does not hold stays as the anchor core has it. -/
def barOf (bs : List Byte) (k : Nat) (b : Bar) : Bar :=
  { b with
    n := if k = 0 then b.n else field bs 0 2
    n0 := field bs 2 2
    arrived := field bs 4 4
    gen := field bs 8 8
    firstAt := if field bs 0x10 8 = 0 then none else some (field bs 0x10 8)
    groups := (List.range 512).filter fun g => bit (field bs 0x20 64) g }

/-- A unit's record holds the barrier blocks of its team: the unit holds the lowest unexited strand of the team's group 0 (R331, R332 step 3). -/
def holdsBars (s : State) (g : Group) : Bool :=
  (s.team? g.launch g.team).isSome && g.grp == 0 && g.visitor.isNone && !((s.launch? g.launch).any fun l => !l.preempted) &&
    inMask g.mask (lowest (aliveMask s g.gid))

/-- The barrier blocks that go with a unit. -/
def barPieces (s : State) (g : Group) (ext : Nat) : List (Nat × List Byte) :=
  match s.team? g.launch g.team with
  | some t => if holdsBars s g then (List.range 32).map fun k => (ext + 0x840 + 96 * k, barBlock t k) else []
  | none => []

/-- Barrier blocks restored to the team anchor core (R333). -/
def restoreBars (s : State) (x : Saved) : State :=
  match (if x.bars then x.unit.bind fun g => s.team? g.launch g.team else none) with
  | none => s
  | some t =>
    match devRead s x.ptRoot (extAt x.addr x.holder + 0x840) (32 * 96) with
    | some bs => s.putTeam { t with bars := (List.range 32).map fun k => barOf ((bs.drop (96 * k)).take 96) k (t.bar k) }
    | none => s

/-- The pieces of a unit's record that hold its registers: format bytes and bodies of vector registers, scalars raw (R75). -/
def regPieces (addr : Nat) (mask : Word) (v : List (Nat × List Word)) (sc : List (Nat × Word)) : List (Nat × List Byte) :=
  (v.flatMap fun r =>
    [(addr + 0x80 + r.1, [BitVec.ofNat 8 (bodyFormat mask r.2)]), (addr + 0x1000 + 128 * r.1, bodyBytes mask r.2 (bodyFormat mask r.2))]) ++
    sc.map fun r => (addr + 0x280 + 4 * r.1, bytesLE 4 r.2.toNat)

/-- Header and trap block of a record (R75). -/
def recordHead (g : Group) (h : HeadInfo) : List Byte :=
  headBytes g h { v := [], s := [], destV := [], destS := [], full := true, wrote := [] } ++ (if g.handler then trapBlock g else List.replicate 32 0)

/-- The twin window of a unit, as a record holds it. -/
def twinPiece (s : State) (g : Group) (addr : Nat) : List (Nat × List Byte) :=
  match (if g.twinned then s.twins.find? fun w => w.launch == g.launch && w.slot == g.launchSlot && w.lower == pairOf g.launchCore else none) with
  | some w => [(addr + 0xA80, (List.range 8).flatMap fun k => (List.range 32).flatMap fun i => bytesLE 4 (laneAt (w.all.getD k []) i).toNat)]
  | none => []

/-- The vector registers of a slot that a save to a record writes: the dirty ones; all of them where another record holds the clean ones
(R75; DEDUCED, log 42). -/
def Slot.savesV (x : Slot) (addr k : Nat) : Bool := (x.record.isSome && x.record != some addr) || x.vdirty.getD k true

/-- The scalars of a slot that a save writes: in the same way, and at a first save those that the launch arguments filled (DEDUCED, log 39). -/
def savesS (s : State) (x : Slot) (addr k : Nat) : Bool :=
  (x.record.isSome && x.record != some addr) || x.sdirty.getD k true ||
    (x.record.isNone && !x.visitor && (s.launch? x.launch).any fun l => decide (k < l.args.length))

/-- Registers of a unit to be saved to a record: those written since its last save, by its slot's dirty bits, or everything that it carries,
the rest zero (R74, R75). Everything goes to a record that does not hold the clean ones (DEDUCED, log 42). -/
def dirtyRegs (s : State) (g : Group) (addr : Nat) (kept : Bool) : List (Nat × List Word) × List (Nat × Word) :=
  match g.carried, s.slot? g.core g.slot with
  | some c, _ =>
    if c.full && kept then (c.v.filter fun r => c.wrote.contains (.vec r.1), c.s.filter fun r => c.wrote.contains (.scal r.1))
    else
      let h := headInfo s g
      ((List.range h.valloc).map (fun k => (k, lookupD (c.v ++ c.destV) k (List.replicate 32 0))),
       (List.range h.salloc).map fun k => (k, lookupD (c.s ++ c.destS) k 0))
  | none, some sl =>
    let c := carryAll g sl
    (c.v.filter fun r => sl.savesV addr r.1, c.s.filter fun r => savesS s sl addr r.1)
  | none, none => ([], [])

/-- A unit leaves where it stood: its slot, its queue entry or its crucible entry. -/
def leavePlace (s : State) (g : Group) : State :=
  match g.loc with
  | .resident => vacate s g.core g.slot g.uid
  | .queued => leaveQueue s g.core g.uid
  | _ => { s with crucible := s.crucible.filter fun q => q.uid != g.uid }

/-- The licence goes with this unit: it stands on the licensed core, or no unit of its group does (R255). -/
def takesLicence (s : State) (g : Group) : Bool :=
  match s.licenceOf g.gid with
  | some p => g.core == p.core || !(s.units.any fun u => u.gid == g.gid && u.core == p.core && u.loc == .resident)
  | none => false

/-- KIND of a unit's map entry (R330). -/
def unitKind (g : Group) : Nat := if g.visitor.isSome then 3 else 1

/-- A unit written to its checkpoint record, and swapped out; none while no slot of its size is free or the record cannot be written. -/
def saveUnit (s : State) (g : Group) : Option State :=
  let r := if takesLicence s g then leaveLicence s g else (s, g)
  let s := r.1
  let g := r.2
  let l := launchOf s g
  let holder := g.image.isSome
  let kind := unitKind g
  match areaSlot s l (fun x => x.matches g kind holder) holder with
  | none => none
  | some (addr, mapAddr, kept) =>
    let seq := (s.coreState g.core).ingotSeq
    let regs := dirtyRegs s g addr kept
    let u : Group := { g with seq, visits := g.visits }
    let ext := extAt addr holder
    let pieces := [(addr, recordHead u (headInfo s u)), (ext + 0x40, resumeBlock u), (mapAddr, mapBytes l u kind 0)] ++
      regPieces addr u.mask regs.1 regs.2 ++ twinPiece s u addr ++ barPieces s u ext ++
      (match g.image with | some m => matrixPieces addr m | none => [])
    match writeAll l.ptRoot pieces s with
    | none => none
    | some t =>
      let u : Group := { u with
        loc := .swapped
        halted := true
        halting := false
        inAnchor := g.loc == .resident && (s.slot? g.core g.slot).any fun x => !x.records.isEmpty
        image := u.image.map fun m => { m with dirty := [], record := some addr }
        carried := some { v := [], s := [], destV := [], destS := [], full := true, wrote := [] } }
      let t := leavePlace (t.putCore { t.coreState g.core with ingotSeq := (seq + 1) % 4096 }) g
      some ((t.putUnit u).putSaved
        { addr, mapAddr, holder, kind, launch := l.idx, ptRoot := l.ptRoot, unit := some u, slot := none, used := true, bars := holdsBars s u })

/-- A slot with records that no unit executes in any more, of a launch being saved (R53). -/
def anchoredReady (s : State) (x : Slot) : Bool :=
  x.here && !x.records.isEmpty && haltReported s x.launch && s.teams.all (fun t => t.launch != x.launch || arrivalsIn s t.launch t.idx) &&
    !(s.units.any fun g => g.loc == .resident && g.core == x.core && g.slot == x.slot)

/-- A rejoin record's bytes (R331). -/
def rejoinBytes (r : Rejoin) : List Byte :=
  bytesLE 4 r.parent.toNat ++ bytesLE 4 r.arrived.toNat ++ bytesLE 2 r.outerAnchor ++ bytesLE 1 r.outerBar ++ [1] ++ bytesLE 4 0 ++
    bytesLE 8 ((r.lead.map (·.pc)).getD 0) ++ bytesLE 8 ((r.lead.map fun g => liveWord g.vwb g.swb g.live).getD 0) ++ List.replicate 32 0

/-- What stands for an anchored slot in a header: the group's facts, the mask of its records, its predicates (DEDUCED, log 31). -/
def anchoredUnit (s : State) (x : Slot) : Group :=
  let g := ((s.units.find? fun u => u.gid == x.gid).orElse fun _ => x.records.findSome? (·.lead)).getD default
  { g with
    mask := x.records.foldl (fun m r => m ||| r.parent) 0
    pc := 0
    preds := x.preds
    flags := List.replicate 12 { set := false, pending := none }
    handler := false
    image := none
    msRows := 0
    msFlag := 0
    rejoin := 0
    anchor := x.core
    launchSlot := g.launchSlot
    seq := 0 }

/-- The records of an anchored slot in the extension block, every place written. -/
def rejoinPieces (x : Slot) (ext : Nat) : List (Nat × List Byte) :=
  (List.range 31).map fun b => (ext + 0x80 + 64 * b,
    match x.records.find? fun r => r.bar == b + 1 with | some r => rejoinBytes r | none => List.replicate 64 0)

/-- An anchored slot written to its checkpoint record (R53, R54, R330): its number and allocation are free for other launches; its records go
on under a number that no core has. -/
def saveAnchored (s : State) (x : Slot) : Option State :=
  let l := (s.launch? x.launch).getD default
  let u := anchoredUnit s x
  match areaSlot s l (fun y => y.kind == 2 && y.launch == x.launch && y.slot.any fun z => z.core == x.core && z.slot == x.slot && z.gid == x.gid) false with
  | none => none
  | some (addr, mapAddr, _) =>
    let ext := extAt addr false
    let w : Group := { u with mask := u.mask &&& x.arrived }
    let v := (x.v.zipIdx.map fun (r : List Word × Nat) => (r.2, r.1)).filter fun r => x.savesV addr r.1
    let sc := (x.s.zipIdx.map fun (r : Word × Nat) => (r.2, r.1)).filter fun r => savesS s x addr r.1
    let h : HeadInfo := { valloc := x.valloc, salloc := x.salloc, region := u.region, lic := false, seq := 0 }
    let pieces := [(addr, recordHead u h), (mapAddr, mapBytes l u 2 x.slot)] ++ regPieces addr allStrands v sc ++ twinPiece s u addr ++
      rejoinPieces x ext ++ barPieces s w ext
    match writeAll l.ptRoot pieces s with
    | none => none
    | some t =>
      let t' : State := { t with
        nextId := t.nextId + 1
        slots := t.slots.map fun (y : Slot) => if y.core = x.core ∧ y.slot = x.slot then { y with slot := 1024 + t.nextId } else y }
      some (t'.putSaved
          { addr, mapAddr, holder := false, kind := 2, launch := l.idx, ptRoot := l.ptRoot, unit := some u, slot := some x, used := true, bars := holdsBars s w })

/-! ## Checkpoint slots that are free again (R332 step 1) -/

/-- A slot is still kept: its unit has neither retired, merged nor been killed; its anchored slot still has records. -/
def stillKept (s : State) (x : Saved) : Bool :=
  if x.kind = 2 then
    x.slot.any fun y => s.slots.any fun z => z.gid == y.gid && z.core == y.core && !z.records.isEmpty && (z.slot == y.slot || !z.here)
  else x.unit.any fun g => s.units.any fun h => h.uid == g.uid

/-- Slots no longer kept are freed: USED is cleared in their map entries. -/
def settleSaved (s : State) : State :=
  let gone := s.saved.filter fun x => !stillKept s x
  gone.foldl (fun t x => (devWrite t x.ptRoot x.mapAddr [0]).getD t) { s with saved := s.saved.filter (stillKept s) }

/-! ## Re-entry (R54, R75, R257, R333) -/

/-- The core at which an image addressed to a core re-enters: that one, or its twin while LOWER_ONLY is 1 and it carries a matrix image (R54,
R257). -/
def reentryCore (s : State) (g : Group) (core : Nat) : Nat := if s.lowerOnly && g.image.isSome && isUpper core then twinOf core else core

/-- The registers of a record as memory holds them; none when a format byte is not in the table or a byte cannot be read (R73, R75). -/
def recordRegs (s : State) (root : DWord) (addr valloc salloc : Nat) (mask : Word) : Option Carried :=
  match devRead s root (addr + 0x80) 512, devRead s root (addr + 0x280) 2048, devRead s root (addr + 0x1000) (128 * valloc) with
  | some fm, some sc, some vs =>
    let f (k : Nat) : Nat := (fm.getD k 0).toNat
    if (List.range valloc).all fun k => (bodySize (f k)).isSome then
      some
        { v := (List.range valloc).map fun k => (k, bodyLanes mask (f k) ((vs.drop (128 * k)).take 128))
          s := (List.range salloc).map fun k => (k, BitVec.ofNat 32 (field sc (4 * k) 4))
          destV := []
          destS := []
          full := true
          wrote := [] }
    else none
  | _, _, _ => none

/-- The resume block of a record (R331). -/
def resumeOf (bs : List Byte) : Nat × Nat × Nat × Nat := (field bs 0 1, field bs 1 1, field bs 2 2, field bs 4 4)

/-- The unit of a record read back: only PC_W and the resume block may differ from what was written (R71, R333); none makes its re-entry fail
with fault 0x7F. -/
def unitBack (s : State) (x : Saved) (g : Group) : Option Group :=
  let l := launchOf s g
  let h := headInfo s g
  match devRead s x.ptRoot x.addr 96, devRead s x.ptRoot (extAt x.addr x.holder + 0x40) 8, recordRegs s x.ptRoot x.addr h.valloc h.salloc g.mask, imageBack s l g with
  | some hd, some rs, some c, some image =>
    let g' := { g with pc := 4 * bits (field hd 0 8) 0 54 }
    if hd = recordHead g' h then some { g' with carried := some c, image, resume := resumeOf rs } else none
  | _, _, _, _ => none

/-- A unit handed to the distributor: an ingot addressed to a core, or as R257 readdresses it (R54). On another die than the one where it
halted it sees its own joins as after a migration: its join list goes ahead of it, or the regions it has joined are flushed, and its
admission waits for that (R232, R305). -/
def handOver (s : State) (g : Group) (at_ : Nat) : State :=
  let core := reentryCore s g at_
  let s := if g.joinOver && dieOf core != dieOf g.core then flushFor s g g.joinRegions else s
  let r := sendJoins s g core
  let u : Group := { r.2 with core, loc := .inFlight }
  (r.1.putUnit u).send .request (1024 + dieOf core) (dieOf core) (.ingot u none { reg := none, pair := false, uni := false } 12)

/-- A saved unit re-enters at a core, or its image kills its domain (R329, R333). -/
def reenterAt (s : State) (x : Saved) (core : Nat) : State :=
  match x.unit.bind fun g => s.unit? g.uid with
  | none => s
  | some g =>
    if g.loc ≠ .swapped then s
    else match unitBack s x g with
    | some u => handOver (s.putSaved { x with used := false }) { u with halting := false } core
    | none => machineCheck s g

/-- A saved unit re-enters where it halted. -/
def reenter (s : State) (x : Saved) : State := reenterAt s x ((x.unit.map (·.core)).getD 0)

/-- The number by which CHECKPOINT_SAVE names an anchored slot. -/
def anchoredId (core slot : Nat) : Nat := 2 ^ 40 + core * 512 + slot

/-- Where a unit halted for the top cooling loop re-enters: the one that takes the licence with it at the twin of the licensed core, the others where
they halted (R257). -/
def cooledCore (s : State) (g : Group) : Nat :=
  match s.licenceOf g.gid with
  | some p => if takesLicence s g then twinOf p.core else g.core
  | none => g.core

/-- A unit halted for the top cooling loop is saved, and re-enters (R257). -/
def saveCooled (s : State) (g : Group) : State :=
  match saveUnit s g with
  | none => s
  | some t =>
    match t.saved.find? fun x => x.unit.any fun u => u.uid == g.uid with
    | some x => reenterAt t x (cooledCore s g)
    | none => t

/-- `CHECKPOINT_SAVE` (R332): a unit, or from 2^40 upward an anchored slot (core × 512 + slot). -/
def execCheckpointSave (u : Nat) (s : State) : Host.Outcome State Fault Refusal :=
  if 2 ^ 40 ≤ u then
    match s.slot? ((u - 2 ^ 40) / 512) ((u - 2 ^ 40) % 512) with
    | some x => .next (if anchoredReady s x then settlePreempts ((saveAnchored s x).getD s) else s)
    | none => .next s
  else
    match s.unit? u with
    | some g => .next (if canSave s g then settlePreempts ((saveUnit s g).getD s) else if coolHalted s g then saveCooled s g else s)
    | none => .next s

/-- An anchored image is restored to its own slot number on its anchor core once that is free (R54); complete records then merge. -/
def restoreAnchored (s : State) (x : Saved) : State :=
  match x.slot with
  | none => s
  | some y =>
    let shadow := s.slots.find? fun z => z.gid == y.gid && z.core == y.core && !z.here
    match shadow, s.launch? x.launch with
    | some z, some l =>
      let kept := s.twins.any fun w => (w.lower == y.core || twinOf w.lower == y.core) && w.slot == y.slot && w.launch != x.launch &&
        (s.launch? w.launch).any fun q => !q.ended && !q.preempted
      if !x.used || l.preempted || (s.slot? y.core y.slot).isSome || kept || !filesOk s y.core y.valloc y.salloc || !budgetOk s l y.core y.valloc y.salloc then s
      else match recordRegs s x.ptRoot x.addr y.valloc y.salloc allStrands with
      | none => match s.units.find? fun g => g.gid == y.gid with
        | some g => machineCheck s g
        | none => killWith s l 0x7F { typ := 1, code := 0x7F } []
      | some c =>
        let z' : Slot := { z with
          slot := y.slot
          v := c.v.map (·.2)
          s := c.s.map (·.2)
          vdirty := z.vdirty.map fun _ => false
          sdirty := z.sdirty.map fun _ => false
          record := some x.addr }
        let s := { s.putSaved { x with used := false } with slots := s.slots.map fun q => if q.core = z.core ∧ q.slot = z.slot then z' else q }
        z'.records.foldl (fun t r => match t.slot? z'.core z'.slot with | some q => settleRecord t q r | none => t) s
    | _, _ => s

/-- Every anchored image of a launch that runs again looked at. -/
def settleAnchors (s : State) : State := (s.saved.filter fun x => x.kind == 2 && x.used).foldl restoreAnchored s

/-- Time of a barrier's generation that pre-emption has taken (R334). -/
def skipTime (now since : Nat) (b : Bar) : Bar :=
  match b.firstAt with | some t => { b with skipped := b.skipped + (now - max since t) } | none => b

/-- Launches run again after a pre-emption: their barriers' timers go on with their remainder, their persistent regions get fresh deadlines
(R333 to R335). -/
def unpreempt (s : State) (ls : List Launch) : State :=
  let since (l : Launch) : Nat := ((s.preempts.filter fun p => l.chain.any fun n => n.addr == p.node).map (·.since)).foldl min s.now
  let idx := ls.map (·.idx)
  let s := { s with
    launches := s.launches.map fun l => if idx.contains l.idx then { l with preempted := false } else l
    teams := s.teams.map fun t => match ls.find? fun l => l.idx == t.launch with
      | some l => { t with bars := t.bars.map (skipTime s.now (since l)) }
      | none => t }
  let s := ls.foldl (fun t l => setHeart t l.node false) s
  { s with preempts := s.preempts.filter fun p => !p.saveTold || (coveredBy s p.node).any (·.preempted) }

/-- `RESUME` (R333, R371). -/
def execResume (qp : Nat) : State → Host.Outcome State Fault Refusal :=
  command 0x03 qp fun s bs =>
    let node := nodeKey s (field bs 0x10 8)
    let ls := (coveredBy s node).filter (·.preempted)
    if s.preempts.any fun p => !p.saveTold && (p.node == node || ls.any fun l => l.chain.any fun n => n.addr == p.node) then .error (0x07, none)
    else
      let region := nodeRegion s node
      let idx := ls.map (·.idx)
      let all := s.saved.filter fun x => x.used && idx.contains x.launch
      let mine := all.filter fun x => x.kind != 2
      let s := mine.foldl reenter (all.foldl restoreBars (unpreempt (noteNode s (field bs 0x10 8)) ls))
      .ok (done (settleAnchors s) qp 0x03 region (cmdTag bs))

/-! ## RESUMEENTRY and KILLENTRY (R328, R329, R371) -/

/-- The parked group that a command names: an entry of its domain's queue between HEAD and TAIL. -/
def parkedAt (s : State) (domain index : Nat) : Option Parked :=
  match s.parked.find? fun p => p.domain == domain && p.index == index with
  | none => none
  | some p =>
    let root := (launchOf s p.u).ptRoot
    match devReadLE s root (p.qaddr + 16) 4, devReadLE s root (p.qaddr + 24) 4 with
    | some head, some tail => if (index + 2 ^ 32 - head) % 2 ^ 32 < (tail + 2 ^ 32 - head) % 2 ^ 32 then some p else none
    | _, _ => none

/-- What a command that names an entry has to read: the node, and the control block of its queue. -/
def queueRead (s : State) (bs : List Byte) : Option Unread :=
  match s.parked.find? fun p => p.domain == nodeKey s (field bs 0x18 8) && p.index == field bs 0x20 4 with
  | some p => some { code := 0x10, root := (launchOf s p.u).ptRoot, addr := p.qaddr, len := 32 }
  | none => some { code := 0x10, root := s.ptRoot, addr := field bs 0x18 8, len := 256 }

/-- KILLED set in an entry already written (R329 step 5). -/
def markKilled (s : State) (p : Parked) : State :=
  let root := (launchOf s p.u).ptRoot
  match devReadLE s root p.qaddr 8, devReadLE s root (p.qaddr + 8) 2 with
  | some ent, some cnt =>
    if cnt = 0 then s
    else
      let a := ent + 16384 * (p.index % cnt) + 3
      match devReadLE s root a 1 with
      | some b => (devWrite s root a (bytesLE 1 (b ||| 2))).getD s
      | none => s
  | _, _ => s

/-- Bytes of an image before its register bodies: header, trap block, format bytes. -/
def imageFront (g : Group) (c : Carried) : Nat := 64 + (if g.handler then 32 else 0) + roundUp c.v.length 8

/-- The bytes of an ingot image at an address, as long as its own format bytes make it. -/
def readImage (s : State) (root : DWord) (a : Nat) (g : Group) (c : Carried) : Option (List Byte) :=
  match devRead s root a (imageFront g c) with
  | none => none
  | some front =>
    let fmts := (front.drop (imageFront g c - roundUp c.v.length 8)).take c.v.length
    let n := (fmts.map fun f => roundUp ((bodySize f.toNat).getD 0) 8).foldl (· + ·) 0
    devRead s root a (imageFront g c + n + roundUp (4 * c.s.length) 8 + 128 * c.destV.length + roundUp (4 * c.destS.length) 8)

/-- The recorded move of a fault 0x51 issued again from its progress, on the same flag, set again (R242). -/
def reissueMove (s : State) (g : Group) (flag : Nat) (f : FlagFault) : State :=
  let e := tmEngine s g f.desc
  let p := bookPromise s g.core e
  let m : Move :=
    { id := p.2.nextId, gid := g.gid, launch := g.launch, mask := g.mask, flag, core := g.core, slot := g.slot, uid := g.uid, engine := e, desc := f.desc
      progress := f.progress, promise := p.1, missed := false, delivered := false, stage := 0, after := [], window := none }
  ({ p.2 with nextId := p.2.nextId + 1, moves := p.2.moves ++ [m] }.modUnit g.uid fun u =>
    { u.arm flag false with flagDevs := eraseKey flag u.flagDevs }).send .request g.core e (.move m.id)

/-- A parked unit returned with what its image and its matrix image say. -/
def returnParked (s : State) (p : Parked) (g : Group) : State :=
  let s := { s with parked := s.parked.filter fun q => q != p }
  let g : Group := { g with haltPosted := (s.posted.filter fun q => q.owners.contains g.uid).length, halting := false, halted := false }
  let s := handOver s g g.core
  match p.move, s.unit? g.uid with
  | some (k, f), some u => reissueMove s u k f
  | _, _ => s

/-- `RESUMEENTRY` (R242, R328, R329, R371): an image that breaks R71 or R73 kills the domain. -/
def execResumeentry (qp : Nat) : State → Host.Outcome State Fault Refusal :=
  command 0x04 qp fun s bs =>
    let a := field bs 0x10 8
    match parkedAt s (nodeKey s (field bs 0x18 8)) (field bs 0x20 4) with
    | none => .error (0x09, queueRead s bs)
    | some p =>
      let c := p.u.carried.getD { v := [], s := [], destV := [], destS := [], full := false, wrote := [] }
      let l := launchOf s p.u
      match (if a % 16 = 0 then readImage s l.ptRoot a p.u c else none) with
      | none => .error (0x09, some { code := 0x10, root := l.ptRoot, addr := a, len := imageFront p.u c })
      | some img =>
        let fin (t : State) : Except Refused State := .ok (done t qp 0x04 l.node.regionId (cmdTag bs))
        match readIngot p.u (headInfo s p.u) c img, imageBack s l p.u with
        | some g, some image => fin (returnParked s p { g with image })
        | _, _ => fin (killLaunches (markKilled { s with parked := s.parked.filter fun q => q != p } p) (domainOf s l) 0x7F)

/-- `KILLENTRY` (R328, R329, R371): done once the launches of the domain have ended. -/
def execKillentry (qp : Nat) : State → Host.Outcome State Fault Refusal :=
  command 0x05 qp fun s bs =>
    match parkedAt s (nodeKey s (field bs 0x18 8)) (field bs 0x20 4) with
    | none => .error (0x09, queueRead s bs)
    | some p =>
      let l := launchOf s p.u
      let ls := domainOf s l
      let s := killLaunches (markKilled s p) ls 0
      .ok (settleCommands (begin_ s { qp, tag := cmdTag bs, opcode := 0x05, region := (domainNode l).regionId, target := 0, arg := 0, arg2 := 0, left := ls, peer := none }))

end Sys2Proof.Machine
end

