-- ==== Sys2Proof/Machine/Pages.lean ====
section
/-! DEFINITION. Changing the page tables under the device: invalidations of cached translations (R279, R280, R283) and page moves (R284). -/

namespace Sys2Proof.Machine

/-! ## INVAL (R280) -/

/-- Every buffer that can hold leaf entries: 1,024 cores, 64 walkers, 16 engines. -/
def allBuffers : List Nat := List.range 1104

/-- A range of pages and a page share a byte. -/
def rangesMeet (a n b k : Nat) : Bool := decide (a < b + k) && decide (b < a + n)

/-- The page of this module that a virtual address is in now, when its leaf allows no atomics. -/
def barsAtomics (s : State) (root : DWord) (a : Nat) : Option (Nat × Nat × Nat) :=
  match walk s root a with
  | .leaf raw level =>
    let p : Page := { raw, size := pageSize level }
    if p.device = 0 ∧ !p.dup ∧ !p.at_ then some (a / p.size * p.size, p.pa (a / p.size * p.size), p.size) else none
  | _ => none

/-- The homes learn the AT bits of a range: a frame whose held leaf allowed atomics takes none from now on where its present leaf clears AT, and
takes them again where it sets AT (R280). -/
def learnAtomics (s : State) (base n : Nat) : State :=
  let old := s.noAtomic.filter fun f => !rangesMeet base n f.1 f.2.2
  let still := (s.noAtomic.filter fun f => rangesMeet base n f.1 f.2.2).filterMap fun f => barsAtomics s s.ptRoot f.1
  let held := s.tlb.filter fun t => rangesMeet base n t.base t.size && Page.at_ { raw := t.leaf.toNat, size := t.size }
  { s with noAtomic := old ++ (still ++ held.filterMap fun t => barsAtomics s t.root t.base).eraseDups }

/-- `INVAL` (R280): the homes learn AT first; it waits for every buffer and walker. -/
def execInval (qp : Nat) : State → Host.Outcome State Fault Refusal :=
  command 0x06 qp fun s bs =>
    let base := field bs 0x10 8
    let pages := field bs 0x18 4
    if base % 2 ^ 16 ≠ 0 ∨ pages = 0 then .error (0x09, none)
    else
      let v : Inval := { id := s.nextId, qp, tag := cmdTag bs, base, pages, left := allBuffers }
      .ok { (learnAtomics s base (pages * 2 ^ 16)).modQp qp (fun q => { q with busy := true }) with nextId := s.nextId + 1, invals := s.invals ++ [v] }

/-- A flagged load of a core in the range has not returned its data yet (R283 step 2). -/
def loadsInRange (s : State) (v : Inval) (core : Nat) : Bool :=
  s.floads.any fun f => f.core == core && f.acc.strands.any fun x => rangesMeet v.base (v.pages * 2 ^ 16) x.va f.acc.n

/-- A buffer can acknowledge an invalidation now. -/
def canAck (s : State) (v : Inval) (buffer : Nat) : Bool := v.left.contains buffer && !loadsInRange s v buffer

/-- The markers that a core sends on dropping an entry: one to the old home of each page in the range that moves (R284 step 3). -/
def sendMarkers (s : State) (v : Inval) (core : Nat) : State :=
  (s.pageMoves.filter fun p => rangesMeet v.base (v.pages * 2 ^ 16) p.va p.size && p.cores.contains core &&
      !(s.net.any fun m => match m.body with | .marker id c => id == p.id && c == core | _ => false)).foldl
    (fun t p => t.send .request core (8 + p.oldPa / 2 ^ 36) (.marker p.id core)) s

/-- `INVALIDATION_ACK` (R280): a buffer drops the range; the last acknowledgement completes the command, which also ends the page requests
of the range (R279). -/
def execInvalidationAck (v buffer : Nat) (s : State) : Host.Outcome State Fault Refusal :=
  match s.invals.find? fun x => x.id == v with
  | none => .next s
  | some x =>
    if !canAck s x buffer then .next s
    else
      let n := x.pages * 2 ^ 16
      let s := { s with tlb := s.tlb.filter fun t => !(t.buffer == buffer && rangesMeet x.base n t.base t.size) }
      let s := if buffer < 1024 then sendMarkers s x buffer else s
      let left := x.left.filter (· != buffer)
      if left.isEmpty then
        let s := { s with invals := s.invals.filter fun y => y.id != v, pageReqs := s.pageReqs.filter fun r => !(decide (x.base ≤ r.2) && decide (r.2 < x.base + n)) }
        .next (done (s.modQp x.qp fun q => { q with busy := false }) x.qp 0x06 0 x.tag)
      else .next { s with invals := s.invals.map fun y => if y.id = v then { y with left } else y }

/-! ## PGMOVE (R284) -/

/-- Bytes of a size code. -/
def sizeOfCode (c : Nat) : Nat := if c = 0 then 2 ^ 16 else if c = 1 then 2 ^ 21 else 2 ^ 30

/-- `PGMOVE` (R284 step 1): the forwarding entry stands from here on. Frames are multiples of the page size below the crucible (DEDUCED,
log 27). -/
def execPgmove (qp : Nat) : State → Host.Outcome State Fault Refusal :=
  command 0x07 qp fun s bs =>
    let va := field bs 0x10 8
    let code := field bs 0x18 1
    let size := sizeOfCode code
    let old := field bs 0x20 8
    let new := field bs 0x28 8
    let oldPa := dramAt (field bs 0x19 1) old
    let newPa := dramAt (field bs 0x1A 1) new
    if 2 < code ∨ va % size ≠ 0 ∨ va / 2 ^ 56 ≠ 0 ∨ 7 < field bs 0x19 1 ∨ 7 < field bs 0x1A 1 ∨ old % size ≠ 0 ∨ new % size ≠ 0 ∨
        crucibleBase < old + size ∨ crucibleBase < new + size ∨ oldPa = newPa then .error (0x09, none)
    else
      let p : PageMove := { id := s.nextId, qp, tag := cmdTag bs, va, size, oldPa, newPa, copied := false, cores := List.range 1024 }
      .ok { s.modQp qp (fun q => { q with busy := true }) with nextId := s.nextId + 1, pageMoves := s.pageMoves ++ [p] }

/-- The bytes of one frame copied to another. -/
def copyFrame (m : List Host.Cell) (src dst size : Nat) : List Host.Cell :=
  let cells := m.filter fun c => decide (src ≤ c.1) && decide (c.1 < src + size)
  cells.foldl (fun t c => Memory.write t (dst + (c.1 - src)) c.2) (m.filter fun c => !(decide (dst ≤ c.1) && decide (c.1 < dst + size)))

/-- Poisoned granules of one frame, as those of another. -/
def copyPoison (l : List Nat) (src dst size : Nat) : List Nat :=
  let in_ (a g : Nat) : Bool := decide (a / 32 ≤ g) && decide (g < (a + size) / 32)
  (l.filter fun g => !in_ dst g) ++ (l.filter (in_ src)).map fun g => dst / 32 + (g - src / 32)

/-- `PAGE_COPY_COMPLETE` (R284 step 2). -/
def execPageCopyComplete (g : Nat) (s : State) : Host.Outcome State Fault Refusal :=
  match s.pageMoves.find? fun p => p.id == g && !p.copied with
  | none => .next s
  | some p =>
    .next { s with
      dram := copyFrame s.dram p.oldPa p.newPa p.size
      dramPoison := copyPoison s.dramPoison p.oldPa p.newPa p.size
      pageMoves := s.pageMoves.map fun q => if q.id = g then { q with copied := true } else q }

/-- A page move whose last marker has arrived: the forwarding entry goes, the command completes; a session root in the page has moved with
it. -/
def endMove (s : State) (p : PageMove) : State :=
  let s := { s with
    pageMoves := s.pageMoves.filter fun q => q.id != p.id
    sessionRoot := s.sessionRoot.map fun r => if p.oldPa ≤ r ∧ r < p.oldPa + p.size then p.newPa + (r - p.oldPa) else r }
  done (s.modQp p.qp fun q => { q with busy := false }) p.qp 0x07 0 p.tag

/-- The marker of a core has reached the new home of a page. -/
def markerIn (s : State) (p : PageMove) (core : Nat) : State :=
  let cores := p.cores.filter (· != core)
  if cores.isEmpty then endMove s p else { s with pageMoves := s.pageMoves.map fun q => if q.id = p.id then { q with cores } else q }

/-- `PAGE_MOVE_MARKER` (R284 steps 3 and 4): the old home passes it on; at the new home it releases its core's requests, and the last one
completes the move. A marker waits for the copy. One whose route has a failed link counts as arrived: no request of its core passes there
either (R338; DEDUCED, log 79). -/
def execPageMoveMarker (m : Nat) (s : State) : Host.Outcome State Fault Refusal :=
  match s.ready? m with
  | some msg =>
    match msg.body with
    | .marker id core =>
      match s.pageMoves.find? fun p => p.id == id with
      | none => .next (s.dropMsg m)
      | some p =>
        let home := 8 + p.newPa / 2 ^ 36
        if !routeUp s msg.src msg.dst then .next (markerIn (s.dropMsg m) p core)
        else if msg.dst ≠ home then .next ((s.dropMsg m).send .request core home (.marker id core))
        else if !p.copied then .next s
        else .next (markerIn (s.dropMsg m) p core)
    | _ => .next s
  | none => .next s

end Sys2Proof.Machine
end

