-- ==== Sys2Proof/Machine/Peers.lean ====
section
/-! DEFINITION. The transport between modules as it arrives (R311, R344, R345, R347): data frames, acknowledgements, the resend timer, and
what a failed path does with the frames it still holds. -/

namespace Sys2Proof.Machine

/-! ## Frames taken from the ports (R344) -/

/-- Sequence numbers count modulo 2^32: `b` is `a` or stands after it. -/
def seqFrom (a b : Nat) : Bool := decide ((b + 2 ^ 32 - a) % 2 ^ 32 < 2 ^ 31)

/-- The header of a frame agrees with this module, but for W (R344, R345). -/
def headerOk (s : State) (f : Frame) : Bool :=
  s.devNum != 0 && f.version == 1 && f.session == s.sessionId && f.dstDev == s.devNum && decide (f.cls ≤ 1)

/-- A frame taken from the ports. -/
def State.takeFrame (s : State) (k : Nat) : State := { s with env := { s.env with wire := s.env.wire.eraseIdx k } }

/-- The event *window mismatch*, once for each change of a peer's W (R347). -/
def mismatchEvent (s : State) (f : Frame) : State :=
  if s.mismatched.contains (f.srcDev, f.w) then s
  else moduleEvent { s with mismatched := (f.srcDev, f.w) :: s.mismatched.filter fun p => p.1 != f.srcDev } 0x0002
    (pack [(12, f.srcDev), (4, 0), (8, f.w), (8, s.window)])

/-- The frames that a cumulative acknowledgement frees; a PEER that waits for them may end (R344, R345). -/
def freeFrames (s : State) (dev cls ackSeq : Nat) : State :=
  let p := pathOf s dev cls
  settleCommands (putPath s { p with unacked := p.unacked.filter fun f => !seqFrom f.1.seq ackSeq })

/-- The frame that acknowledges, cumulatively, what has been received in order. -/
def ackFrame (s : State) (dev cls : Nat) : State := s.transmit [frameFor s dev cls 2 0 none]

/-! ## Messages from other modules (R52, R281, R309, R311, R344) -/

/-- An ingot from another module: its unit is taken in and goes on to its core (R52, R281). -/
def importIngot (s : State) (dev port : Nat) (u : Group) (acc : Option Access) (dest : Dest) (flag : Nat)
    (lent : Option Launch) : State :=
  match takeIn s dev u lent with
  | .ok (t, g) => t.send .request (peerSrc dev port) (dieOf g.core) (.ingot g (acc.map (importAccess s)) dest flag)
  | .error .gone => s
  | .error .noRegion => sendPeer s dev 1 (.refuse u.gid u.mask acc.isNone 0x18 (leadOf u acc))

/-- A unit that another module has refused is back on its core, to raise the fault at its migrating instruction (R55, R345). -/
def importRefuse (s : State) (gid : Nat) (mask : Word) (bare : Bool) (code addr : Nat) : State :=
  match s.units.find? fun g => g.gid == gid && g.loc == .away && g.mask &&& mask != 0 with
  | none => s
  | some g => let r := cutAway s g mask; sendBack r.1 r.2 r.2.core bare code addr none

/-- The die of the core that a posted operation was issued on. -/
def postedDie (s : State) (id : Nat) : Nat := ((s.posted.find? fun p => p.id == id).map fun p => dieOf p.core).getD 8

/-- The die at which a message about a group of this module is met: that of a record on a core, or of a unit. -/
def groupDie (s : State) (gid : Nat) (mask : Word) : Nat := ((owedUnit s gid mask).map fun g => dieOf g.core).getD 8

/-- The die of the team anchor core of a group (R39). -/
def anchorDie (s : State) (gid : Nat) : Nat :=
  match s.units.find? fun g => g.gid == gid with
  | some g => ((s.team? g.launch g.team).map fun t => dieOf t.anchor).getD 8
  | none => 8

/-- The die of the core that issued a call or a tile move of a group (R221, R243). -/
def issuerDie (s : State) (gid flag : Nat) : Nat :=
  match s.calls.find? fun k => k.gid == gid && k.flag == flag with
  | some k => dieOf k.core
  | none => ((s.moves.find? fun m => m.gid == gid && m.flag == flag).map fun m => dieOf m.core).getD 8

/-- A call of another module under this module's record of its launch; 0 where the module has no node of its region (log 23). -/
def hostCall (s : State) (dev : Nat) (c : CallMsg) (lent : Option Launch) : State × CallMsg :=
  match hostLaunch s dev ((lent.map fun l => l.node.regionId).getD 0) lent with
  | some (t, idx) => (t, { c with launch := idx })
  | none => (s, { c with launch := 0 })

/-- A message from another module put on this module's fabric; its source is the port that it came in by. One whose operation belongs to a fabric
alone is answered with code 0x1B (R345). -/
def importBody (s : State) (dev port : Nat) (body : Payload) (lent : Option Launch) : State :=
  let put (cls : MsgClass) (dst : Nat) (b : Payload) : State := s.send cls (peerSrc dev port) dst b
  let own (gid : Nat) : Nat := importGid s gid
  match body with
  | .ingot u acc dest flag => importIngot s dev port u acc dest flag lent
  | .refuse gid mask bare code addr => importRefuse s (own gid) mask bare code addr
  | .posted id acc window region =>
    let a := importAccess s acc
    put .request (8 + ((a.places.head?).getD 0) / 2 ^ 36) (.posted id a window region)
  | .ack id err => put .reply (postedDie s id) (.ack id err)
  | .call c => let h := hostCall s dev c lent; h.1.send .request (peerSrc dev port) (dieOf c.dstCore) (.call h.2)
  | .retry c => let h := hostCall s dev c lent; h.1.send .request (peerSrc dev port) (dieOf c.dstCore) (.retry h.2)
  | .reply r => put .reply (dieOf r.dstCore) (.reply r)
  | .barArrive gid mask b scope kind count => put .request (anchorDie s (own gid)) (.barArrive (own gid) mask b scope kind count)
  | .barRelease gid mask fault => put .reply (groupDie s (own gid) mask) (.barRelease (own gid) mask fault)
  | .exitRemove gid core bar mask after => put .request (dieOf core) (.exitRemove (own gid) core bar mask after)
  | .askCall gid flag mask dest => put .request (issuerDie s (own gid) flag) (.askCall (own gid) flag mask dest)
  | .askMove gid flag mask prom dest => put .request (issuerDie s (own gid) flag) (.askMove (own gid) flag mask prom dest)
  | .askRetry payload entry gid flag mask => put .request (issuerDie s (own gid) flag) (.askRetry payload entry (own gid) flag mask)
  | .cause gid flag mask code addr => put .reply (groupDie s (own gid) mask) (.cause (own gid) flag mask code addr)
  | .completion gid flag mask res fault => put .reply (groupDie s (own gid) mask) (.completion (own gid) flag mask res fault)
  | .overrun region window addr => put .request 16 (.overrun region window addr)
  | .spad _ _ _ _ | .spadLoad _ _ _ | .licRelease _ _ | .joinCells _ _ _ | .round _ _ _ _ _ | .flush _ _ _ _ _ | .move _ | .marker _ _ =>
    sendPeer s dev 1 (.ack 0 (some 0x1B))

/-- `GRIERN_DATA_FRAME` (R344, R345, R347): the frame standing at a position on the ports is checked; one that is the next of its class is
delivered, the others are discarded; what has been received in order is acknowledged. -/
def execGriernDataFrame (k : Nat) (s : State) : Host.Outcome State Fault Refusal :=
  match s.env.wire[k]? with
  | none => .next s
  | some p =>
    let f := p.frame
    if f.ftype = 2 then .next s
    else
      let s := s.takeFrame k
      if f.ftype ≠ 1 ∨ headerOk s f = false then .next s
      else if f.w ≠ s.window then .next (mismatchEvent s f)
      else
        let path := pathOf s f.srcDev f.cls
        if f.seq ≠ (path.recvSeq + 1) % 2 ^ 32 then .next (ackFrame s f.srcDev f.cls)
        else
          let s := ackFrame (putPath s { path with recvSeq := f.seq }) f.srcDev f.cls
          let s := match f.body with | some m => importBody s f.srcDev p.port m.body m.lent | none => s
          .next (freeFrames s f.srcDev f.cls f.ackSeq)

/-- `GRIERN_ACK_FRAME` (R344): every frame up to the one it names is freed. -/
def execGriernAckFrame (k : Nat) (s : State) : Host.Outcome State Fault Refusal :=
  match s.env.wire[k]? with
  | none => .next s
  | some p =>
    let f := p.frame
    if f.ftype ≠ 2 then .next s
    else
      let s := s.takeFrame k
      if headerOk s f = false then .next s
      else if f.w ≠ s.window then .next (mismatchEvent s f)
      else .next (freeFrames s f.srcDev f.cls f.ackSeq)

/-! ## Resends and failed paths (R344) -/

/-- A unit whose question is lost without an answer goes on: a retry is sent again by the program at the next deadline (R218). -/
def passWaiter (s : State) (gid : Nat) (mask : Word) : State :=
  match unitBy s gid mask with
  | none => s
  | some g => s.putUnit { g.advance with wait := .none }

/-- What happens to a message held for a path that has failed (R337, R344). -/
def pathLost (s : State) (body : Payload) : State :=
  match body with
  | .ingot u acc _ _ => importRefuse s (importGid s u.gid) u.mask acc.isNone 0x18 (leadOf u acc)
  | .posted id _ _ _ =>
    match s.posted.find? fun p => p.id == id with
    | some p => postedDone (postedRecord s p 0x18 p.addr (some (p.die - 8, p.dev))) p (some 0x18)
    | none => s
  | .barArrive gid mask _ _ _ _ => failWaiter s (importGid s gid) mask
  | .askCall gid _ mask _ => failWaiter s (importGid s gid) mask
  | .askMove gid _ mask _ _ => failWaiter s (importGid s gid) mask
  | .askRetry _ _ gid _ mask => passWaiter s (importGid s gid) mask
  | _ => s

/-- The path to a module fails, in both classes: its frames are handled, and the event *peer unreachable* is written. Frames sent after a
PEER count on from the first that was never acknowledged (DEDUCED, log 32). -/
def failPath (s : State) (dev : Nat) : State :=
  let mine := [0, 1].map fun c => pathOf s dev c
  let s := mine.foldl (fun t p =>
    putPath t { p with failed := true, sendSeq := (p.unacked.head?.map (·.1.seq)).getD p.sendSeq, unacked := [] }) s
  let bodies := mine.flatMap fun p => p.unacked.filterMap fun f => f.1.body.map (·.body)
  settleCommands (moduleEvent (bodies.foldl pathLost s) 0x0001 dev)

/-- `GRIERN_RESEND_TIMER` (R344): every frame sent 20 µs ago or more is sent again; one that has been sent 16 times fails the path. -/
def execGriernResendTimer (dev cls : Nat) (s : State) : Host.Outcome State Fault Refusal :=
  let p := pathOf s dev cls
  let due (f : Frame × Nat × Nat) : Bool := decide (f.2.1 + State.us 20 ≤ s.now)
  if !(p.unacked.any due) then .next s
  else if p.unacked.any fun f => due f && decide (16 ≤ f.2.2) then .next (failPath s dev)
  else .next ((putPath s { p with unacked := p.unacked.map fun f => if due f then (f.1, s.now, f.2.2 + 1) else f }).transmit ((p.unacked.filter due).map (·.1)))

end Sys2Proof.Machine
end

