-- ==== Sys2Proof/Machine/Services.lean ====
section
/-! DEFINITION. Device services: links (R337, R338), time (R346), device reset and self-tests (R348 to R350), cooling (R351), power (R352), errors
(R353, R354), spilling (R271). -/

namespace Sys2Proof.Machine

/-! ## Links (R337, R338) -/

/-- Data lanes of a link per direction (R337). -/
def linkLanes (link : Nat) : Nat := if link < 32 then 64 else if link < 40 then 128 else 64

/-- Spare lanes of a link per direction (R337). -/
def spareLanes (link : Nat) : Nat := if link < 40 then 4 else if link < 42 then 2 else 0

/-- The direction in which a message between two dies goes over a link of its route (R22): 0 towards the home stack of a vertical link, up the ring,
and towards the I/O die; 1 the other way. -/
def linkDir (a b link : Nat) : Nat :=
  let up (h g : Nat) : Nat := if (g + 8 - h) % 8 ≤ 4 then 0 else 1
  if link < 32 then (if a < 8 ∧ link / 8 = a / 2 then 0 else 1)
  else if link < 40 then
    (if a = 16 then 1 - up (b - 8) (ioStack (b - 8))
      else up (if a = 17 then 0 else if a = 18 then 4 else a - 8) (if b = 16 then ioStack (a - 8) else b - 8))
  else if b = 16 then 0 else 1

/-- A link whose present 1 ms window is that of a time: the counts of an earlier one are gone (R338). -/
def Link.roll (l : Link) (now : Nat) : Link :=
  if now / 1000000 = l.windowAt / 1000000 then l else { l with errors := [], windowAt := now / 1000000 * 1000000 }

/-- One more corrected error on a lane: with more than 64 in one window the lane is lasting (R338). -/
def Link.count (l : Link) (lane : Nat) : Link :=
  let n := (l.errors.lookup lane).getD 0 + 1
  { l with errors := insertKey lane n l.errors, lasting := if 64 < n then insertNat lane l.lasting else l.lasting }

/-- A link changed in place. -/
def modLink (s : State) (link : Nat) (f : Link → Link) : State := { s with links := modAt s.links link f }

/-- A count of a list kept by number. -/
def countAt (l : List (Nat × Nat)) (k : Nat) : Nat := (l.lookup k).getD 0

/-- The number of the launch that a message works for. -/
def messageOwner (s : State) (b : Payload) : Option Nat :=
  let unit (p : Group → Bool) : Option Nat := (s.units.find? p).map fun g => g.launch
  match b with
  | .ingot u _ _ _ => some u.launch
  | .posted id _ _ _ | .ack id _ => (s.posted.find? fun p => p.id == id).map fun p => p.launch
  | .call c | .retry c => some c.launch
  | .reply r => (s.calls.find? fun k => k.core == r.dstCore && k.seq == r.seq).map fun k => k.launch
  | .spad uid _ _ _ => unit fun g => g.uid == uid
  | .barArrive gid _ _ _ _ _ | .barRelease gid _ _ | .exitRemove gid _ _ _ _ | .askCall gid _ _ _ | .askMove gid _ _ _ _ | .askRetry _ _ gid _ _
  | .cause gid _ _ _ _ | .completion gid _ _ _ _ | .licRelease _ gid | .refuse gid _ _ _ _ => unit fun g => g.gid == gid
  | .spadLoad load _ _ => (s.floads.find? fun f => f.id == load).bind fun f => unit fun g => g.gid == f.gid
  | .joinCells uid _ _ => unit fun g => g.uid == uid
  | .flush id _ _ _ _ => (s.flushes.find? fun f => f.id == id).bind fun f => unit fun g => g.uid == f.uid
  | .move id => (s.moves.find? fun m => m.id == id).map fun m => m.launch
  | _ => none

/-- The launch that a message works for. -/
def messageLaunch (s : State) (b : Payload) : Option Launch := (messageOwner s b).bind s.launch?

/-- What becomes of a message whose flit has failed three times (R218, R337): requests come back with fault 0x18; calls, replies, posted
operations and acknowledgements are lost to the timers of their issuers; what its sender sends again until it is acknowledged stays
(the last for messages that R337 does not name: DEDUCED, log 34). -/
def discardMessage (s : State) (m : Msg) : State :=
  match m.body with
  | .ingot u acc _ _ =>
    match s.unit? u.uid with
    | none => s.dropMsg m.id
    | some g =>
      if 2048 ≤ m.src then refuseUnit (s.dropMsg m.id) (peerOf m.src) g acc.isNone 0x18 (leadOf g acc)
      else if m.src < 1024 then sendBack (s.dropMsg m.id) g m.src acc.isNone 0x18 (leadOf g acc) none
      else s
  | .spad uid _ acc _ => (s.dropMsg m.id).modUnit uid fun g => bankAnswer g [] (some (0x18, acc.lead))
  | .spadLoad l _ acc => modLoad (s.dropMsg m.id) l fun x => x.answer [] (some (0x18, acc.lead))
  | .barArrive gid mask _ _ _ _ | .askCall gid _ mask _ | .askMove gid _ mask _ _ => failAsker (s.dropMsg m.id) m gid mask
  | .askRetry _ _ gid _ mask => if 2048 ≤ m.src then failAsker (s.dropMsg m.id) m gid mask else s.dropMsg m.id
  | .move id =>
    match s.moves.find? fun x => x.id == id with
    | some v => failMove (s.dropMsg m.id) v 0x18 (tmRow (tmSrc v.desc) (tmSrcStride v.desc) v.progress)
    | none => s.dropMsg m.id
  | .posted _ _ _ _ | .ack _ _ | .call _ | .retry _ | .reply _ => s.dropMsg m.id
  | _ => s

/-- `FLIT_CRC_ERROR` (R337): a flit of a message fails its CRC on a lane of a link of its route. It is sent again, counted on its lane; the third
failure discards it, and an error record is written, in the queue of the session root where the message works for no launch (its code 0x18:
DEDUCED, log 34). -/
def execFlitCrcError (link lane m : Nat) (s : State) : Host.Outcome State Fault Refusal :=
  match s.msg? m, s.links[link]? with
  | some msg, some l =>
    if !(routeLinks (sourceDie msg.src) msg.dst).contains link ∨ l.state = 2 ∨ linkLanes link + spareLanes link ≤ lane then .next s
    else
      let failed := countAt l.retries m + 1
      if failed < 3 then
        .next (modLink s link fun x =>
          { (x.roll s.now).count (256 * linkDir (sourceDie msg.src) msg.dst link + lane) with retries := insertKey m failed x.retries })
      else
        let s := modLink s link fun x => { x with retries := eraseKey m x.retries }
        let e : EntryInfo := { typ := 3, code := 0x18, core := if msg.src < 1024 then msg.src else 0 }
        let s := match messageLaunch s msg.body with
          | some la => errorRecord s la { e with origin := la.node.regionId }
          | none => rootRecord s e
        .next (discardMessage s msg)
  | _, _ => .next s

/-- `LANE_SAMPLE_WINDOW` (R338): lanes whose eye margin is found bad, spare lanes included, are lasting; a new window has no counts. -/
def execLaneSampleWindow (link : Nat) (badEye : List Nat) (s : State) : Host.Outcome State Fault Refusal :=
  let bad := badEye.filter fun k => decide (k < 512) && decide (k % 256 < linkLanes link + spareLanes link)
  .next (modLink s link fun x => { x.roll s.now with lasting := bad.foldl (fun t k => insertNat k t) x.lasting })

/-- A spare of a direction used up. -/
def Link.useSpare (l : Link) (dir : Nat) : Link :=
  { l with spares := if dir = 0 then (l.spares.1 - 1, l.spares.2) else (l.spares.1, l.spares.2 - 1) }

/-- `LANE_SPARE_SWAP` (R338): a spare takes over a lasting lane; without a spare in its direction the link goes on with half its lanes; a direction
at half that loses a lane fails the link. The bond is not spared at run time (R337). -/
def execLaneSpareSwap (link lane : Nat) (s : State) : Host.Outcome State Fault Refusal :=
  match s.links[link]? with
  | none => .next s
  | some l =>
    let dir := lane / 256
    if !l.lasting.contains lane ∨ l.state = 2 ∨ 42 ≤ link then .next s
    else
      let off (x : Link) : Link := { x with lasting := x.lasting.filter (· != lane) }
      if 0 < (if dir = 0 then l.spares.1 else l.spares.2) then .next (modLink s link fun x => (off x).useSpare dir)
      else if !l.half.contains dir then
        .next (moduleEvent (modLink s link fun x => { off x with state := 1, half := dir :: x.half }) 0x0005 (pack [(8, link), (8, linkLanes link / 2)]))
      else .next (moduleEvent (modLink s link fun x => { off x with state := 2 }) 0x0006 link)

/-! ## Time (R346) -/

/-- The estimated offset has stayed within 100 ns since a time. -/
def offsetGood (offset : Int) : Bool := decide (-100 ≤ offset) && decide (offset ≤ 100)

/-- `IEEE_1588_MESSAGE` (R346): a message gives the servo a new estimate of the offset from the grandmaster and a slew, which stays within 200
ppm. The first one sets `PTIME` (DEDUCED, log 35). -/
def execIeee1588Message (port : Nat) (slew offset : Int) (s : State) : Host.Outcome State Fault Refusal :=
  if 2 ≤ port then .next s
  else
    let off := if s.ptimeSet then offset else 0
    .next { s with
      ptime := if s.ptimeSet then s.ptime else ((s.ptime : Int) - offset).toNat
      ptimeSet := true
      slew := sat slew (-200) 200
      offset := off
      lockSince := if offsetGood off then some (s.lockSince.getD s.now) else none }

/-- `TIME_LOCKED` (R346): the offset has stayed within 100 ns for 1 s. -/
def execTimeLocked (offset : Word) (s : State) : Host.Outcome State Fault Refusal :=
  match s.lockSince with
  | none => .next s
  | some t =>
    if s.locked ∨ s.now < t + 1000000000 ∨ offset ≠ wordOf s.offset then .next s
    else .next (settleCommands (moduleEvent { s with locked := true } 0x0003 offset.toNat))

/-- `TIME_LOCK_LOST` (R346): the estimate exceeds 125 ns. -/
def execTimeLockLost (offset : Word) (s : State) : Host.Outcome State Fault Refusal :=
  if !s.locked ∨ (-125 ≤ s.offset ∧ s.offset ≤ 125) ∨ offset ≠ wordOf s.offset then .next s
  else .next (moduleEvent { s with locked := false } 0x0004 offset.toNat)

/-! ## Cooling (R257, R351) -/

/-- The groups that hold licences of cores on upper dies begin to halt, wherever their units stand (R257); the sequencer of one without a resident
unit stops at once. -/
def haltUpperHolders (s : State) : State :=
  let gids := (s.pairs.filter fun p => isUpper p.core).filterMap (·.holder)
  let here (gid : Nat) : Bool := s.units.any fun g => g.gid == gid && g.loc == .resident
  settleHalts { s with
    units := s.units.map fun g => if gids.contains g.gid ∧ g.loc = .resident then { g with halting := true } else g
    pairs := s.pairs.map fun p => if isUpper p.core ∧ (p.holder.any fun gid => !here gid) then { p with saving := true } else p }

/-- A holder of an upper die that has still to halt: the upper clock has not yet changed (R351). -/
def upperHalting (s : State) : Bool :=
  s.topLost && s.units.any fun g => g.halting && !g.halted && (s.licenceOf g.gid).any fun p => isUpper p.core

/-- With both loops lost and everything saved, the module is at S0 (R351). -/
def settleCooling (s : State) : State :=
  if s.topLost && s.bottomLost && s.service != 0 && s.preempts.all (fun p => p.qp < 2 ^ 32 || p.saveTold) then { s with service := 0 } else s

/-- `COOLING_LOOP_LOST` (R257, R351). The pre-emption of every node writes no event of its own (DEDUCED, log 36). -/
def execCoolingLoopLost (bottom : Bool) (s : State) : Host.Outcome State Fault Refusal :=
  if (if bottom then s.bottomLost else s.topLost) then .next s
  else
    let s := if bottom then { s with bottomLost := true } else { s with topLost := true }
    let s := moduleEvent s 0x0007 (bitNat bottom + 2 * bitNat (s.topLost && s.bottomLost))
    if s.topLost && s.bottomLost then .next (settleCooling (startPreempt s 0 (2 ^ 32) 0))
    else .next (if bottom then s else haltUpperHolders s)

/-- `COOLING_LOOP_RESTORED` (R351). -/
def execCoolingLoopRestored (bottom : Bool) (s : State) : Host.Outcome State Fault Refusal :=
  if (if bottom then s.bottomLost else s.topLost) then
    let s := if bottom then { s with bottomLost := false } else { s with topLost := false }
    .next (settleCommands (moduleEvent s 0x0008 (bitNat bottom)))
  else .next s

/-- `DRAM_OVER_LIMIT` (R351): with both loops lost the stacks that have power lose it, and their contents. -/
def execDramOverLimit (s : State) : Host.Outcome State Fault Refusal :=
  if s.topLost && s.bottomLost then
    let on := (List.range 8).filter fun h => decide (s.dies.getD (8 + h) 2 ≤ 1)
    .next (moduleEvent (on.foldl (fun t h => dieOff t (8 + h)) s) 0x0009 (natOfBits ((List.range 8).map on.contains)))
  else .next s

/-! ## Power, self-tests, reset (R348, R350, R352) -/

/-- `STACK_WAKE` (R352): a parked stack that an access waits for is on again; the access is then performed by its own event. -/
def execStackWake (stack : Nat) (s : State) : Host.Outcome State Fault Refusal :=
  if s.dies.getD (8 + stack) 0 = 1 ∧ s.net.any (fun m => m.dst == 8 + stack) then .next { s with dies := modAt s.dies (8 + stack) fun _ => 0 }
  else .next s

/-- A command refused after it had been begun. -/
def refusePending (s : State) (p : PendCmd) : State := refuse (endPending s p) p.qp p.opcode 0x06 p.tag

/-- `SELF_TEST_COMPLETE` (R350, R352): the self-test and link training of a die end; SERVICE and POWER on wait for it. -/
def execSelfTestComplete (die : Nat) (pass : Bool) (s : State) : Host.Outcome State Fault Refusal :=
  let waits (p : PendCmd) : Bool := (p.opcode == 0x0F || p.opcode == 0x0E) && p.left.contains die
  let ps := s.pending.filter waits
  if ps.isEmpty then .next s
  else if pass then
    let on := ps.any fun p => p.opcode == 0x0E
    let s := { s with
      pending := s.pending.map fun p => if waits p then { p with left := p.left.filter (· != die) } else p
      dies := if on then modAt s.dies die fun _ => 0 else s.dies }
    .next (settleCommands s)
  else
    let s := ps.foldl (fun t p =>
      moduleEvent (refusePending t p) 0x000A (pack [(8, die), (8, if p.opcode = 0x0F then p.arg else t.service)])) s
    .next (latReschedule { s with dies := modAt s.dies die fun _ => 3, replicas := modAt s.replicas die fun _ => false })

/-- `DEVICE_RESET` (R348, R350): every launch and region is discarded without completion records. Memories keep their contents: DRAM in self-refresh;
for scratchpads the manual states none (DEDUCED, log 37). What has been sent, what the environment will choose and the repairs of memory
stay. -/
def execDeviceReset (s : State) : Host.Outcome State Fault Refusal :=
  .next { State.reset with
    freeCtr := s.freeCtr
    env := s.env
    dram := s.dram
    dramPoison := s.dramPoison
    spad := s.spad
    spadPoison := s.spadPoison
    hostOut := s.hostOut
    frameOut := s.frameOut
    spareRows := s.spareRows
    degraded := s.degraded }

/-! ## Errors (R353, R354) -/

/-- Spare rows of a bank that have been used. -/
def sparesUsed (s : State) (stack bank : Nat) : Nat := countAt s.spareRows (stack * 2 ^ 32 + bank)

/-- `DRAM_CORRECTED_ERROR` (R354): counted per row in a sliding window of 10 minutes; the fourth moves the row to one of the 16 spare rows of its
bank. -/
def execDramCorrectedError (stack bank row : Nat) (s : State) : Host.Outcome State Fault Refusal :=
  if 8 ≤ stack then .next s
  else
    let mine (r : RowCount) : Bool := r.stack == stack && r.bank == bank && r.row == row
    let old := s.rowCounts.find? mine
    let rest := s.rowCounts.filter fun r => !mine r
    if old.any (·.lasting) then .next s
    else
      let times := s.now :: ((old.map (·.times)).getD []).filter fun t => decide (s.now < t + 600000000000)
      if times.length < 4 then .next { s with rowCounts := { stack, bank, row, times, lasting := false } :: rest }
      else if sparesUsed s stack bank < 16 then
        .next { s with rowCounts := rest, spareRows := insertKey (stack * 2 ^ 32 + bank) (sparesUsed s stack bank + 1) s.spareRows }
      else
        .next (moduleEvent { s with rowCounts := { stack, bank, row, times := [], lasting := true } :: rest } 0x000B
          (pack [(4, stack), (4, 0), (36, Config.rowAddr stack bank row % 2 ^ 36)]))

/-- A lattice word restored from the replica of its ring neighbour (R354). -/
def restoreCell (s : State) (key : Nat) : State :=
  match (ringPartners s (key / 2 ^ 24)).head? with
  | none => s
  | some d =>
    let rest := s.lat.filter fun c => c.key != key
    match s.lat.find? fun c => c.key == latKey d (key % 2 ^ 24) with
    | some c => { s with lat := rest ++ [{ c with key, changed := s.now }] }
    | none => { s with lat := rest }

/-- `UNCORRECTABLE_ERROR` (R270, R273, R354), by kind: 0 a DRAM granule and 1 a scratchpad bank word are poisoned; 2 a lattice word is restored; 3 the
storage of a unit: fault 0x7F; 4 an entry of a stack's remap table is lost (stack × 2^16 + entry): the stack is degraded. -/
def execUncorrectableError (kind place : Nat) (s : State) : Host.Outcome State Fault Refusal :=
  match kind with
  | 0 => .next (if place < 2 ^ 34 then { s with dramPoison := insertNat place s.dramPoison } else s)
  | 1 => .next { s with spadPoison := insertNat place s.spadPoison }
  | 2 => .next (restoreCell s place)
  | 3 => .next (match s.unit? place with | some g => if g.loc = .away then s else machineCheck s g | none => s)
  | 4 =>
    let stack := place / 2 ^ 16
    let entry := place % 2 ^ 16
    if 8 ≤ stack then .next s
    else
      let lost := (Config.remapGranules stack entry).filter fun g => g / 2 ^ 31 == stack
      .next (moduleEvent { s with degraded := insertNat stack s.degraded, dramPoison := lost.foldl (fun t g => insertNat g t) s.dramPoison }
        0x000C (pack [(4, stack), (12, 0), (16, entry)]))
  | _ => .next s

/-- `PATROL_SCRUB` (R353): what it finds is corrected; no architectural state changes. -/
def execPatrolScrub (_ _ _ : Nat) (s : State) : Host.Outcome State Fault Refusal := .next s

/-- `REGISTER_SPILL` (R271): moving registers into or out of the spill allocation changes no register value; it can end a SETSPILL that waits for
room. -/
def execRegisterSpill (_ : Nat) (s : State) : Host.Outcome State Fault Refusal := .next (settleCommands s)

end Sys2Proof.Machine
end

