-- ==== Sys2Proof/Machine/Dispatch.lean ====
section
/-! DEFINITION. Which meaning each step of the machine has: one arm per constructor of Instr. -/

namespace Sys2Proof.Machine

def exec (i : Instr) (s : State) : Host.Outcome State Fault Refusal :=
  match i with
  | .nop => Sys2Proof.Machine.execNop s
  | .bra o => Sys2Proof.Machine.execBra o s
  | .brc p sc b o => Sys2Proof.Machine.execBrc p sc b o s
  | .call l o => Sys2Proof.Machine.execCall l o s
  | .ret a => Sys2Proof.Machine.execRet a s
  | .jtab a b => Sys2Proof.Machine.execJtab a b s
  | .pad c l => Sys2Proof.Machine.execPad c l s
  | .exit sc p => Sys2Proof.Machine.execExit sc p s
  | .trap n => Sys2Proof.Machine.execTrap n s
  | .loop c o => Sys2Proof.Machine.execLoop c o s
  | .winb m k => Sys2Proof.Machine.execWinb m k s
  | .swinb m k => Sys2Proof.Machine.execSwinb m k s
  | .live v c sc b => Sys2Proof.Machine.execLive v c sc b s
  | .pause n => Sys2Proof.Machine.execPause n s
  | .sleep a => Sys2Proof.Machine.execSleep a s
  | .iadd d a b f => Sys2Proof.Machine.execIadd d a b f s
  | .isub d a b f => Sys2Proof.Machine.execIsub d a b f s
  | .imul d a b f => Sys2Proof.Machine.execImul d a b f s
  | .imad d a b f => Sys2Proof.Machine.execImad d a b f s
  | .imnx d a b f => Sys2Proof.Machine.execImnx d a b f s
  | .isetp p a b f => Sys2Proof.Machine.execIsetp p a b f s
  | .sel d a b sc p => Sys2Proof.Machine.execSel d a b sc p s
  | .iaddc d a b sc p => Sys2Proof.Machine.execIaddc d a b sc p s
  | .land d a b => Sys2Proof.Machine.execLand d a b s
  | .lor d a b => Sys2Proof.Machine.execLor d a b s
  | .lxor d a b => Sys2Proof.Machine.execLxor d a b s
  | .andn d a b => Sys2Proof.Machine.execAndn d a b s
  | .shl d a b f => Sys2Proof.Machine.execShl d a b f s
  | .shr d a b f => Sys2Proof.Machine.execShr d a b f s
  | .bfx d a b f => Sys2Proof.Machine.execBfx d a b f s
  | .bitop d a f => Sys2Proof.Machine.execBitop d a f s
  | .iaddi d a imm => Sys2Proof.Machine.execIaddi d a imm s
  | .andi d a imm => Sys2Proof.Machine.execAndi d a imm s
  | .ori d a imm => Sys2Proof.Machine.execOri d a imm s
  | .xori d a imm => Sys2Proof.Machine.execXori d a imm s
  | .shi d a k n => Sys2Proof.Machine.execShi d a k n s
  | .movi d imm => Sys2Proof.Machine.execMovi d imm s
  | .movhi d imm => Sys2Proof.Machine.execMovhi d imm s
  | .isetpi p a c imm => Sys2Proof.Machine.execIsetpi p a c imm s
  | .fadd d a b f => Sys2Proof.Machine.execFadd d a b f s
  | .fmul d a b f => Sys2Proof.Machine.execFmul d a b f s
  | .ffma d a b f => Sys2Proof.Machine.execFfma d a b f s
  | .fmnx d a b f => Sys2Proof.Machine.execFmnx d a b f s
  | .fsetp p a b f => Sys2Proof.Machine.execFsetp p a b f s
  | .fsfu d a f => Sys2Proof.Machine.execFsfu d a f s
  | .fcvt d a g r v f => Sys2Proof.Machine.execFcvt d a g r v f s
  | .fclass d a f => Sys2Proof.Machine.execFclass d a f s
  | .hadd2 d a b f => Sys2Proof.Machine.execHadd2 d a b f s
  | .hmul2 d a b f => Sys2Proof.Machine.execHmul2 d a b f s
  | .hfma2 d a b f => Sys2Proof.Machine.execHfma2 d a b f s
  | .bfma2 d a b f => Sys2Proof.Machine.execBfma2 d a b f s
  | .dot4 d a b f => Sys2Proof.Machine.execDot4 d a b f s
  | .pcvt d a b f => Sys2Proof.Machine.execPcvt d a b f s
  | .mov d a f => Sys2Proof.Machine.execMov d a f s
  | .idx d a b f => Sys2Proof.Machine.execIdx d a b f s
  | .plop d a b f => Sys2Proof.Machine.execPlop d a b f s
  | .vote d a f => Sys2Proof.Machine.execVote d a f s
  | .shfl d a b f => Sys2Proof.Machine.execShfl d a b f s
  | .redux d a f => Sys2Proof.Machine.execRedux d a f s
  | .pmov d a f => Sys2Proof.Machine.execPmov d a f s
  | .pset p f => Sys2Proof.Machine.execPset p f s
  | .ldb d a o f => Sys2Proof.Machine.execLdb d a o f s
  | .ldh d a o f => Sys2Proof.Machine.execLdh d a o f s
  | .ldw d a o f => Sys2Proof.Machine.execLdw d a o f s
  | .ldd d a o f => Sys2Proof.Machine.execLdd d a o f s
  | .ldba d a sc o f => Sys2Proof.Machine.execLdba d a sc o f s
  | .ldha d a sc o f => Sys2Proof.Machine.execLdha d a sc o f s
  | .ldwa d a sc o f => Sys2Proof.Machine.execLdwa d a sc o f s
  | .ldda d a sc o f => Sys2Proof.Machine.execLdda d a sc o f s
  | .stb d a o p g => Sys2Proof.Machine.execStb d a o p g s
  | .sth d a o p g => Sys2Proof.Machine.execSth d a o p g s
  | .stw d a o p g => Sys2Proof.Machine.execStw d a o p g s
  | .std d a o p g => Sys2Proof.Machine.execStd d a o p g s
  | .stbl d a sc o p g => Sys2Proof.Machine.execStbl d a sc o p g s
  | .sthl d a sc o p g => Sys2Proof.Machine.execSthl d a sc o p g s
  | .stwl d a sc o p g => Sys2Proof.Machine.execStwl d a sc o p g s
  | .stdl d a sc o p g => Sys2Proof.Machine.execStdl d a sc o p g s
  | .aadd d a b sc o p => Sys2Proof.Machine.execAadd d a b sc o p s
  | .asub d a b sc o p => Sys2Proof.Machine.execAsub d a b sc o p s
  | .amins d a b sc o p => Sys2Proof.Machine.execAmins d a b sc o p s
  | .amaxs d a b sc o p => Sys2Proof.Machine.execAmaxs d a b sc o p s
  | .aminu d a b sc o p => Sys2Proof.Machine.execAminu d a b sc o p s
  | .amaxu d a b sc o p => Sys2Proof.Machine.execAmaxu d a b sc o p s
  | .aand d a b sc o p => Sys2Proof.Machine.execAand d a b sc o p s
  | .aor d a b sc o p => Sys2Proof.Machine.execAor d a b sc o p s
  | .axor d a b sc o p => Sys2Proof.Machine.execAxor d a b sc o p s
  | .axch d a b sc o p => Sys2Proof.Machine.execAxch d a b sc o p s
  | .acas d a b sc o p => Sys2Proof.Machine.execAcas d a b sc o p s
  | .afadd d a b sc o p => Sys2Proof.Machine.execAfadd d a b sc o p s
  | .afmin d a b sc o p => Sys2Proof.Machine.execAfmin d a b sc o p s
  | .afmax d a b sc o p => Sys2Proof.Machine.execAfmax d a b sc o p s
  | .aincw d a b sc o p => Sys2Proof.Machine.execAincw d a b sc o p s
  | .adecw d a b sc o p => Sys2Proof.Machine.execAdecw d a b sc o p s
  | .stn d a o p g => Sys2Proof.Machine.execStn d a o p g s
  | .stbm d a b p g => Sys2Proof.Machine.execStbm d a b p g s
  | .migrCore a => Sys2Proof.Machine.execMigrCore a s
  | .migrAddr a => Sys2Proof.Machine.execMigrAddr a s
  | .migrLaunch => Sys2Proof.Machine.execMigrLaunch s
  | .home d a => Sys2Proof.Machine.execHome d a s
  | .rejoin b => Sys2Proof.Machine.execRejoin b s
  | .barArrive sc imm b c => Sys2Proof.Machine.execBarArrive sc imm b c s
  | .barWait sc imm b c => Sys2Proof.Machine.execBarWait sc imm b c s
  | .barSync sc imm b c => Sys2Proof.Machine.execBarSync sc imm b c s
  | .barInit sc imm b c => Sys2Proof.Machine.execBarInit sc imm b c s
  | .barrierArrivalMessage m => Sys2Proof.Machine.execBarrierArrivalMessage m s
  | .fence sc t m => Sys2Proof.Machine.execFence sc t m s
  | .ljoin a b t => Sys2Proof.Machine.execLjoin a b t s
  | .ljoinr d a b t => Sys2Proof.Machine.execLjoinr d a b t s
  | .lld d a o t => Sys2Proof.Machine.execLld d a o t s
  | .lldw d a b t => Sys2Proof.Machine.execLldw d a b t s
  | .lstx d a o t => Sys2Proof.Machine.execLstx d a o t s
  | .lflush a t => Sys2Proof.Machine.execLflush a t s
  | .lepoch d a t => Sys2Proof.Machine.execLepoch d a t s
  | .rcall h r l a p e => Sys2Proof.Machine.execRcall h r l a p e s
  | .rcallRetry h r l a p e => Sys2Proof.Machine.execRcallRetry h r l a p e s
  | .rret a => Sys2Proof.Machine.execRret a s
  | .rstat d f => Sys2Proof.Machine.execRstat d f s
  | .tmove d a f => Sys2Proof.Machine.execTmove d a f s
  | .tstat d f => Sys2Proof.Machine.execTstat d f s
  | .tstatProm d f => Sys2Proof.Machine.execTstatProm d f s
  | .mldw a b f => Sys2Proof.Machine.execMldw a b f s
  | .mswap => Sys2Proof.Machine.execMswap s
  | .mstream a b f => Sys2Proof.Machine.execMstream a b f s
  | .mdrain d a b f => Sys2Proof.Machine.execMdrain d a b f s
  | .mlicAcq => Sys2Proof.Machine.execMlicAcq s
  | .mlicTry p => Sys2Proof.Machine.execMlicTry p s
  | .mlicRel => Sys2Proof.Machine.execMlicRel s
  | .mlicQry d => Sys2Proof.Machine.execMlicQry d s
  | .xsigSig sc => Sys2Proof.Machine.execXsigSig sc s
  | .xsigWait sc => Sys2Proof.Machine.execXsigWait sc s
  | .xsigSync sc => Sys2Proof.Machine.execXsigSync sc s
  | .csrr d n => Sys2Proof.Machine.execCsrr d n s
  | .csrw a n => Sys2Proof.Machine.execCsrw a n s
  | .hbeat v => Sys2Proof.Machine.execHbeat v s
  | .pgreq addr => Sys2Proof.Machine.execPgreq addr s
  | .spadDescriptorWrite n v => Sys2Proof.Machine.execSpadDescriptorWrite n v s
  | .trapvec reply v => Sys2Proof.Machine.execTrapvec reply v s
  | .eret => Sys2Proof.Machine.execEret s
  | .cycle d f => Sys2Proof.Machine.execCycle d f s
  | .tracem a n => Sys2Proof.Machine.execTracem a n s
  | .chainWaitCut u => Sys2Proof.Machine.execChainWaitCut u s
  | .trapDelivery u => Sys2Proof.Machine.execTrapDelivery u s
  | .faultEntryRetry k => Sys2Proof.Machine.execFaultEntryRetry k s
  | .pauseEnd u => Sys2Proof.Machine.execPauseEnd u s
  | .sleepWake u => Sys2Proof.Machine.execSleepWake u s
  | .replyOverdue c => Sys2Proof.Machine.execReplyOverdue c s
  | .promiseMissed c => Sys2Proof.Machine.execPromiseMissed c s
  | .barrierTimeout t b => Sys2Proof.Machine.execBarrierTimeout t b s
  | .heartbeatMissed region => Sys2Proof.Machine.execHeartbeatMissed region s
  | .xsigTimeout u => Sys2Proof.Machine.execXsigTimeout u s
  | .latticeWaitLimit u => Sys2Proof.Machine.execLatticeWaitLimit u s
  | .remoteBudgetExceeded u => Sys2Proof.Machine.execRemoteBudgetExceeded u s
  | .postedAckTimeout p => Sys2Proof.Machine.execPostedAckTimeout p s
  | .ingotArrival m => Sys2Proof.Machine.execIngotArrival m s
  | .ingotAdmission core => Sys2Proof.Machine.execIngotAdmission core s
  | .distributorPlaceTeam cores => Sys2Proof.Machine.execDistributorPlaceTeam cores s
  | .postedOpArrival m => Sys2Proof.Machine.execPostedOpArrival m s
  | .postedAck m => Sys2Proof.Machine.execPostedAck m s
  | .heldReleaseSend p => Sys2Proof.Machine.execHeldReleaseSend p s
  | .flaggedLoadCompletion l => Sys2Proof.Machine.execFlaggedLoadCompletion l s
  | .forwardedCompletion m => Sys2Proof.Machine.execForwardedCompletion m s
  | .exitRemovalMessage m => Sys2Proof.Machine.execExitRemovalMessage m s
  | .callArrival m => Sys2Proof.Machine.execCallArrival m s
  | .replyArrival m => Sys2Proof.Machine.execReplyArrival m s
  | .retryArrival m => Sys2Proof.Machine.execRetryArrival m s
  | .replyCacheExpiry e => Sys2Proof.Machine.execReplyCacheExpiry e s
  | .watermarkExpiry stack dev core => Sys2Proof.Machine.execWatermarkExpiry stack dev core s
  | .tileMoveAccept m => Sys2Proof.Machine.execTileMoveAccept m s
  | .tileMoveCompletion t => Sys2Proof.Machine.execTileMoveCompletion t s
  | .tileMoveFault t => Sys2Proof.Machine.execTileMoveFault t s
  | .matrixCompletion core => Sys2Proof.Machine.execMatrixCompletion core s
  | .licenceGrant pair => Sys2Proof.Machine.execLicenceGrant pair s
  | .licenceReacquire u => Sys2Proof.Machine.execLicenceReacquire u s
  | .licenceFreeAfterKill pair => Sys2Proof.Machine.execLicenceFreeAfterKill pair s
  | .burnishRoundStart base => Sys2Proof.Machine.execBurnishRoundStart base s
  | .roundDelivery m => Sys2Proof.Machine.execRoundDelivery m s
  | .roundCompletion base => Sys2Proof.Machine.execRoundCompletion base s
  | .lflushDelivery m => Sys2Proof.Machine.execLflushDelivery m s
  | .joinListDelivery m => Sys2Proof.Machine.execJoinListDelivery m s
  | .replicaReturnCopy die => Sys2Proof.Machine.execReplicaReturnCopy die s
  | .pageCopyComplete g => Sys2Proof.Machine.execPageCopyComplete g s
  | .pageMoveMarker m => Sys2Proof.Machine.execPageMoveMarker m s
  | .invalidationAck v buffer => Sys2Proof.Machine.execInvalidationAck v buffer s
  | .checkpointSave u => Sys2Proof.Machine.execCheckpointSave u s
  | .launchCompletion l => Sys2Proof.Machine.execLaunchCompletion l s
  | .windowOverrunMark region => Sys2Proof.Machine.execWindowOverrunMark region s
  | .launch qp => Sys2Proof.Machine.execLaunch qp s
  | .preempt qp => Sys2Proof.Machine.execPreempt qp s
  | .resume qp => Sys2Proof.Machine.execResume qp s
  | .resumeentry qp => Sys2Proof.Machine.execResumeentry qp s
  | .killentry qp => Sys2Proof.Machine.execKillentry qp s
  | .inval qp => Sys2Proof.Machine.execInval qp s
  | .pgmove qp => Sys2Proof.Machine.execPgmove qp s
  | .clrovr qp => Sys2Proof.Machine.execClrovr qp s
  | .latret qp => Sys2Proof.Machine.execLatret qp s
  | .setwin qp => Sys2Proof.Machine.execSetwin qp s
  | .setspill qp => Sys2Proof.Machine.execSetspill qp s
  | .peer qp => Sys2Proof.Machine.execPeer qp s
  | .inventory qp => Sys2Proof.Machine.execInventory qp s
  | .power qp => Sys2Proof.Machine.execPower qp s
  | .service qp => Sys2Proof.Machine.execService qp s
  | .session qp => Sys2Proof.Machine.execSession qp s
  | .unknownCommand qp => Sys2Proof.Machine.execUnknownCommand qp s
  | .cmdTail qp tail => Sys2Proof.Machine.execCmdTail qp tail s
  | .cqHead qp head => Sys2Proof.Machine.execCqHead qp head s
  | .queuePairSetup qp bytes => Sys2Proof.Machine.execQueuePairSetup qp bytes s
  | .rdmaWrite qp addr bytes => Sys2Proof.Machine.execRdmaWrite qp addr bytes s
  | .rdmaRead qp addr len => Sys2Proof.Machine.execRdmaRead qp addr len s
  | .roceAtomic qp => Sys2Proof.Machine.execRoceAtomic qp s
  | .griernDataFrame k => Sys2Proof.Machine.execGriernDataFrame k s
  | .griernAckFrame k => Sys2Proof.Machine.execGriernAckFrame k s
  | .griernResendTimer dev cls => Sys2Proof.Machine.execGriernResendTimer dev cls s
  | .flitCrcError link lane m => Sys2Proof.Machine.execFlitCrcError link lane m s
  | .laneSampleWindow link badEye => Sys2Proof.Machine.execLaneSampleWindow link badEye s
  | .laneSpareSwap link lane => Sys2Proof.Machine.execLaneSpareSwap link lane s
  | .timeLocked offset => Sys2Proof.Machine.execTimeLocked offset s
  | .timeLockLost offset => Sys2Proof.Machine.execTimeLockLost offset s
  | .coolingLoopLost bottom => Sys2Proof.Machine.execCoolingLoopLost bottom s
  | .coolingLoopRestored bottom => Sys2Proof.Machine.execCoolingLoopRestored bottom s
  | .dramOverLimit => Sys2Proof.Machine.execDramOverLimit s
  | .stackWake stack => Sys2Proof.Machine.execStackWake stack s
  | .deviceReset => Sys2Proof.Machine.execDeviceReset s
  | .dramCorrectedError stack bank row => Sys2Proof.Machine.execDramCorrectedError stack bank row s
  | .uncorrectableError kind place => Sys2Proof.Machine.execUncorrectableError kind place s
  | .patrolScrub stack bank row => Sys2Proof.Machine.execPatrolScrub stack bank row s
  | .registerSpill u => Sys2Proof.Machine.execRegisterSpill u s
  | .selfTestComplete die pass => Sys2Proof.Machine.execSelfTestComplete die pass s
  | .systemReleaseWindowPassed u => Sys2Proof.Machine.execSystemReleaseWindowPassed u s
  | .callSequenceReuseWait u => Sys2Proof.Machine.execCallSequenceReuseWait u s
  | .shippedScratchpadAccess m => Sys2Proof.Machine.execShippedScratchpadAccess m s
  | .inlineAccessCompletion u => Sys2Proof.Machine.execInlineAccessCompletion u s
  | .issuingCoreRequest m => Sys2Proof.Machine.execIssuingCoreRequest m s
  | .licenceReleaseMessage m => Sys2Proof.Machine.execLicenceReleaseMessage m s
  | .barrierReleaseMessage m => Sys2Proof.Machine.execBarrierReleaseMessage m s
  | .ieee1588Message port slew offset => Sys2Proof.Machine.execIeee1588Message port slew offset s

end Sys2Proof.Machine
end

