-- ==== Sys2Proof/Machine/Sched.lean ====
section
/-! DEFINITION. What one step of the machine does around an instruction (R25, R77 to R85, R103, R263, R309, R317 to R323): time, the choice of
the unit that issues, its fetch, and the choice of the next event. Which partition is served and which event comes next is the environment's choice, or goes
round (log 3). -/

namespace Sys2Proof.Machine

/-! ## Time (R25, R263, R346, R351) -/

/-- ac per 1,000 rc on a die: the clock of R26, of S1 (R28, R348) and of a lost cooling loop (R351). An upper clock changes when the holders of
licences have halted. DESIGN CHOICE (log 60): at S1 every die keeps 1.0 GHz while a cooling loop is lost, where R351 names 1.2 GHz. -/
def acRate (s : State) (die : Nat) : Nat :=
  if s.service ≤ 1 then 1000
  else if die < 8 ∧ die % 2 = 1 then (if s.topLost = true ∧ upperHalting s = false then 1200 else 1850)
  else if s.bottomLost then 1200 else 1850

/-- ac that pass on a die in some rc. -/
def acPassed (s : State) (die dt : Nat) : Nat :=
  let a := s.acMilli.getD die 0
  (a + dt * acRate s die) / 1000 - a / 1000

/-- Time of a step goes by: the reference counter, ac, `PTIME` with its slew. -/
def advance (s : State) (dt : Nat) : State :=
  let f := (s.ptimeFrac : Int) + dt * (1000000 + s.slew)
  { s with
    now := s.now + dt
    acMilli := s.acMilli.mapIdx fun d a => a + dt * acRate s d
    ptime := s.ptime + (f / 1000000).toNat
    ptimeFrac := (f % 1000000).toNat }

/-! ## Eligible units (R317 to R320, R322, R323) -/

/-- The partition of a unit on the module (R317). -/
def partOf (g : Group) : Nat := g.core * 4 + (pipeOf g.core g.slot).1

/-- The pipe of a unit on the module (R317). -/
def seatOf (g : Group) : Nat := partOf g * 8 + (pipeOf g.core g.slot).2

/-- The first ac at which a pipe is not occupied (R317). -/
def pipeFrom (s : State) (seat : Nat) : Nat := ((s.pipes.find? fun p => p.1 == seat).map (·.2.2)).getD 0

/-- The pipe of a unit is occupied by an issue: 1 ac in uniform form, else 4 (R30, R31, R317). -/
def usePipe (s : State) (g : Group) (iss : Issue) (i : Instr) : List (Nat × Nat × Nat) :=
  let a := s.acOf g.core
  (s.pipes.filter fun p => p.1 != seatOf g) ++ [(seatOf g, a, a + if iss.uni ∧ i.uniForm = 2 then 1 else 4)]

/-- An issue port of the unit's partition is left in this ac (R317). -/
def portLeft (s : State) (g : Group) : Bool :=
  decide ((s.pipes.filter fun p => p.1 / 8 == partOf g && p.2.1 == s.acOf g.core).length < if isStackCore g.core then 1 else 2)

/-- The hallmark wait or the flag wait of the instruction at pc names a set flag, or a flagged acquire load holds it (R65, R85, R186). -/
def blocked (g : Group) : Bool :=
  match slotIssue g with
  | none => false
  | some (w, iss) =>
    anySet g iss.waitMask ||
      (match decodeWord w with
        | .ok i => anySet g i.asyncFlag.toList || (i.heldByAcquire && anySet g g.acqFlags)
        | .error _ => false)

/-- A unit in a chain waits before its next instruction issues (R319). -/
def waitsInChain (g : Group) : Bool :=
  decide (0 < g.chainLen) &&
    (match g.wait with
      | .none => g.holding || blocked g
      | .window _ | .callSeq => true
      | _ => false)

/-- A unit stands on its core and no halt keeps it from issuing. -/
def standing (g : Group) : Bool := g.loc == .resident && !g.halted && !(g.halting && g.chainLen == 0)

/-- The distance of the instruction at pc, where its bundle has been read (R82, R318). -/
def distanceOf (g : Group) : Nat := ((slotIssue g).map (·.2.dist)).getD 0

/-- A unit is ready, its distance and its pipe apart (R318). -/
def able (g : Group) : Bool := standing g && g.wait == .none && !blocked g

/-- A unit is ready: eligible except for its pipe (R318). -/
def ready (g : Group) : Bool := able g && decide (distanceOf g < g.opps)

/-- An `LLDW` that waits looks at its cells when its partition is served (R228). -/
def looks (g : Group) : Bool := standing g && !blocked g && (match g.wait with | .lldw _ => true | _ => false)

/-- A unit has a trap to take before it issues anything (R323). -/
def trapDue (s : State) (g : Group) : Bool := atBoundary g && !g.handler && (nextCause s g).isSome

/-- A unit that reserves its pipe: its chain goes on (R319). -/
def reserves (g : Group) : Bool :=
  g.loc == .resident && decide (0 < g.chainLen) && (match g.wait with | .none | .window _ | .callSeq => true | _ => false)

/-- A unit is in the pause class (R139, R322). -/
def paused (s : State) (g : Group) : Bool := decide (s.now < g.pauseEnd)

/-- A unit can be served: its trap is due, or it is eligible, its pipe neither occupied nor reserved and a port left (R317 to R319). -/
def canServe (s : State) (g : Group) : Bool :=
  trapDue s g || looks g ||
    (ready g && decide (pipeFrom s (seatOf g) ≤ s.acOf g.core) && portLeft s g &&
      !(s.units.any fun h => h.uid != g.uid && reserves h && seatOf h == seatOf g))

/-- Units of a partition that can be served. -/
def candidates (s : State) (part : Nat) : List Group := s.units.filter fun g => partOf g == part && canServe s g

/-- Sort key of a candidate: the holder of a reserved pipe, the class, the pause class last, age, slot, strand (R139, R320, R322). -/
def issueKey (s : State) (g : Group) : List Nat :=
  [1 - bitNat (reserves g), if paused s g then 8 else 7 - (launchOf s g).node.priority, 65535 - g.age, g.slot, lowest g.mask]

/-- A list in the order of a relation. -/
def orderBy {α : Type} (lt : α → α → Bool) : List α → List α
  | [] => []
  | a :: t => ins a (orderBy lt t)
where
  /-- An element put in its place. -/
  ins (a : α) : List α → List α
    | [] => [a]
    | b :: t => if lt b a then b :: ins a t else a :: b :: t

/-- Units of a partition that can be served, in the order of R320. -/
def inOrder (s : State) (part : Nat) : List Nat :=
  (orderBy (fun a b => lexLt (issueKey s a) (issueKey s b)) (candidates s part)).map (·.uid)

/-- The partition served in this step: the environment's choice when a unit can be served there, else the next one round. -/
def nextPart (s : State) : Option Nat :=
  let parts := (s.units.filter (canServe s)).map partOf
  match s.env.seats.head? with
  | some x => if parts.contains x then some x else around parts
  | none => around parts
where
  /-- The next partition after the one served last, going round. -/
  around (parts : List Nat) : Option Nat := leastBy (fun a b => decide ((a + 2 ^ 16 - s.lastSeat - 1) % 2 ^ 16 < (b + 2 ^ 16 - s.lastSeat - 1) % 2 ^ 16)) parts

/-! ## Fetch and issue (R77 to R85, R91, R103) -/

/-- A fault of the instruction at pc that stands before its own (R91): a fetch fault, an illegal word, a bad landing (R103). -/
def faultAtPc (s : State) (g : Group) (e : ReadFault) : State :=
  match s.slot? g.core g.slot with
  | none => s
  | some sl =>
    let s := match e.2 with | some w => walkRecord s g e.1 g.pc w | none => s
    raise s g sl (false, []) (Ctx.faultReq e.1 (if e.1 = 0x01 then 0 else g.pc))

/-- A word is a landing pad of remote calls (R103). -/
def landing (w : Word) : Bool := match decodeWord w with | .ok (.pad r _) => r == 1#1 | _ => false

/-- The instruction at a unit's pc executed (R77 to R85): its trap first, its bundle read, its word decoded. -/
def runUnit (s : State) (g : Group) : Host.Outcome State Fault Refusal :=
  if trapDue s g then execTrapDelivery g.uid s
  else match loadBundle s g with
  | .error e => .next (faultAtPc s g e)
  | .ok (s, g) =>
    match slotIssue g with
    | none => .next (faultAtPc s g (0x03, none))
    | some (w, iss) =>
      if g.visitor.any (fun v => v.issued == 0) && !landing w then .next (faultAtPc s g (0x04, none))
      else match decodeWord w with
      | .error _ => if anySet g iss.waitMask then .next (hold { s with cur := iss }) else .next (faultAtPc s g (0x01, none))
      | .ok i => exec i { s with cur := iss, pipes := if g.wait = .none then usePipe s g iss i else s.pipes }

/-- The units of a partition served in order: one whose instruction does not issue yet leaves its port to the next. -/
def serve : List Nat → State → Host.Outcome State Fault Refusal
  | [], s => .next s
  | uid :: rest, s =>
    match s.unit? uid with
    | none => serve rest s
    | some g =>
      match runUnit s g with
      | .next t =>
        if t.cur.held then serve rest { t.modUnit uid (fun h => { h with holding := true }) with cur := Issue.void, pipes := s.pipes }
        else .next { t with cur := Issue.void }
      | o => o

/-- A step that issues, on the partition given. -/
def issueStep (part : Nat) (s : State) : Host.Outcome State Fault Refusal :=
  serve (inOrder s part)
    { s with
      lastSeat := part
      env := { s.env with seats := if s.env.seats.head? = some part then s.env.seats.drop 1 else s.env.seats } }

/-! ## Events -/

/-- The event by which a message arrives. -/
def arrival (m : Msg) : Option Instr :=
  match m.body with
  | .ingot _ _ _ _ => some (.ingotArrival m.id)
  | .posted _ _ _ _ => some (.postedOpArrival m.id)
  | .ack _ _ => some (.postedAck m.id)
  | .call _ => some (.callArrival m.id)
  | .retry _ => some (.retryArrival m.id)
  | .reply _ => some (.replyArrival m.id)
  | .spad _ _ _ _ | .spadLoad _ _ _ => some (.shippedScratchpadAccess m.id)
  | .barArrive _ _ _ _ _ _ => some (.barrierArrivalMessage m.id)
  | .barRelease _ _ _ => some (.barrierReleaseMessage m.id)
  | .exitRemove _ _ _ _ _ => some (.exitRemovalMessage m.id)
  | .askCall _ _ _ _ | .askMove _ _ _ _ _ | .askRetry _ _ _ _ _ => some (.issuingCoreRequest m.id)
  | .cause _ _ _ _ _ | .completion _ _ _ _ _ => some (.forwardedCompletion m.id)
  | .licRelease _ _ => some (.licenceReleaseMessage m.id)
  | .joinCells _ _ _ => some (.joinListDelivery m.id)
  | .round _ _ _ _ _ => some (.roundDelivery m.id)
  | .flush _ _ _ _ _ => some (.lflushDelivery m.id)
  | .move _ => some (.tileMoveAccept m.id)
  | .marker _ _ => some (.pageMoveMarker m.id)
  | .overrun r _ _ => some (.windowOverrunMark r)
  | .refuse _ _ _ _ _ => none

/-- The event by which a command of an opcode is taken up. -/
def commandEvent (qp op : Nat) : Instr :=
  match op with
  | 0x01 => .launch qp
  | 0x02 => .preempt qp
  | 0x03 => .resume qp
  | 0x04 => .resumeentry qp
  | 0x05 => .killentry qp
  | 0x06 => .inval qp
  | 0x07 => .pgmove qp
  | 0x08 => .clrovr qp
  | 0x09 => .latret qp
  | 0x0A => .setwin qp
  | 0x0B => .setspill qp
  | 0x0C => .peer qp
  | 0x0D => .inventory qp
  | 0x0E => .power qp
  | 0x0F => .service qp
  | _ => .session qp

/-- Events of a unit: the ends of its waits and its limits. -/
def unitEvents (s : State) (g : Group) : List Instr :=
  (match g.wait with
    | .sleep t => if t ≤ s.now then [.sleepWake g.uid] else []
    | .inlineAccess _ left _ _ => if left = 0 then [.inlineAccessCompletion g.uid] else []
    | .lldw _ => [.latticeWaitLimit g.uid]
    | .callSeq => [.callSequenceReuseWait g.uid]
    | .window t => if t ≤ s.ptime then [.systemReleaseWindowPassed g.uid] else []
    | _ => []) ++
    (if g.pauseEnd ≠ 0 ∧ g.pauseEnd ≤ s.now then [.pauseEnd g.uid] else []) ++
    (if g.visitor.any fun v => decide (4096 ≤ v.issued) then [.remoteBudgetExceeded g.uid] else []) ++
    (if canSave s g || coolHalted s g then [.checkpointSave g.uid] else [])

/-- Limits that have been reached, those that pass in the tick apart. -/
def timerEvents (s : State) : List Instr :=
  (s.posted.filter fun p => p.held.isNone && decide (p.sentAt + 1000000 ≤ s.now)).map (fun p => .postedAckTimeout p.id) ++
    (s.watermarks.filter fun w => decide (w.lastFree + 1000000 ≤ s.now)).map (fun w => .watermarkExpiry w.stack w.dev w.core) ++
    (s.paths.filter fun p => p.unacked.any fun f => decide (f.2.1 + State.us 20 ≤ s.now)).map (fun p => .griernResendTimer p.dev p.cls)

/-- Work that goes on inside the module. -/
def workEvents (s : State) : List Instr :=
  (s.net.filter fun m => (s.ready? m.id).isSome).filterMap arrival ++
    (s.floads.map fun f => .flaggedLoadCompletion f.id) ++
    (s.posted.filter (heldReady s)).map (fun p => .heldReleaseSend p.id) ++
    ((s.queue.map (·.core)).eraseDups.map .ingotAdmission) ++
    ((s.moves.filter fun m => m.stage != 0).flatMap fun m => [.tileMoveCompletion m.id, .tileMoveFault m.id]) ++
    (s.arrays.filter fun a => !a.ops.isEmpty).map (fun a => .matrixCompletion a.core) ++
    (s.pairs.flatMap fun p => if p.dying then [.licenceFreeAfterKill p.lower] else if p.holder.isNone && !p.waiters.isEmpty then [.licenceGrant p.lower] else []) ++
    (s.latRegions.flatMap fun r => if r.started.isSome then [.roundCompletion r.base] else if r.nextAt ≤ s.now then [.burnishRoundStart r.base] else []) ++
    ((List.range 16).filter fun d => s.dies.getD d 2 == 0 && !s.replicas.getD d true).map .replicaReturnCopy ++
    ((List.range 8).filter fun h => s.dies.getD (8 + h) 0 == 1 && s.net.any fun m => m.dst == 8 + h).map .stackWake ++
    (s.pageMoves.filter fun p => !p.copied).map (fun p => .pageCopyComplete p.id) ++
    (s.invals.filterMap fun v => (v.left.find? (canAck s v)).map fun b => .invalidationAck v.id b) ++
    (s.slots.filter (anchoredReady s)).map (fun x => .checkpointSave (anchoredId x.core x.slot)) ++
    ((List.range s.heldEntries.length).map .faultEntryRetry)

/-- Launches and commands, and what stands on the ports. -/
def hostEvents (s : State) : List Instr :=
  (if (nextToPlace s).isSome then [.distributorPlaceTeam []] else []) ++
    (s.launches.filter (launchQuiet s)).map (fun l => .launchCompletion l.idx) ++
    (s.qps.filterMap fun q => match nextRecord s q.id with
      | some (_, some bs) => some (match cmdOp bs with | some op => commandEvent q.id op | none => .unknownCommand q.id)
      | some (_, none) => some (.unknownCommand q.id)
      | none => none) ++
    (if s.env.wire.isEmpty then [] else if (s.env.wire.headD default).frame.ftype = 2 then [.griernAckFrame 0] else [.griernDataFrame 0])

/-- The events that can happen now by themselves. -/
def dueEvents (s : State) : List Instr := s.units.flatMap (unitEvents s) ++ timerEvents s ++ workEvents s ++ hostEvents s

/-- A place for the next team, where the event names none. -/
def withPlace (s : State) (e : Instr) : Instr :=
  match e with
  | .distributorPlaceTeam [] => .distributorPlaceTeam (((nextToPlace s).bind (findPlace s)).getD [])
  | _ => e

/-- A step that takes one of the due events, going round. -/
def eventStep (s : State) : Host.Outcome State Fault Refusal :=
  match (dueEvents s)[s.turn / 2 % (dueEvents s).length]? with
  | some e => exec (withPlace s e) s
  | none => .next s

/-! ## One step -/

/-- Ages, wait holds and issue opportunities of a unit after some rc: its age counts each ac at which it is ready (R317, R319, R320). -/
def ageUnit (s : State) (dt : Nat) (g : Group) : Group :=
  if g.loc ≠ .resident then g
  else
    let n := acPassed s (dieOf g.core) dt
    let next := s.acOf g.core + 1
    let first := max next (pipeFrom s (seatOf g))
    let met := if distanceOf g < g.opps then next else first + (distanceOf g - g.opps)
    { g with
      age := if able g then min 65535 (g.age + (next + n - met)) else g.age
      opps := min 64 (g.opps + (next + n - first))
      chainHold := if waitsInChain g then g.chainHold + n else g.chainHold }

/-- The events that end a chain before its last instruction: its holds have reached 64 ac, or a pre-emption reaches its unit in a wait hold
(R319). -/
def settleChains (s : State) : State :=
  s.units.foldl (fun t g =>
    if g.loc == .resident && decide (0 < g.chainLen) &&
        (decide (64 ≤ g.chainHold) || (g.halting && !g.halted && (waitsInChain g || g.wait != .none))) then
      match t.unit? g.uid, t.slot? g.core g.slot with
      | some h, some sl => endChain t h sl
      | _, _ => t
    else t) s

/-- Deadlines of calls and promises of moves that the reference counter has reached: OVERDUE and MISSED stand from that moment (R218,
R241). -/
def settleDeadlines (s : State) : State :=
  let s := (s.calls.filter fun k => !k.overdue && decide (k.deadline ≤ s.now)).foldl (fun t k => passing (execReplyOverdue k.id t) t) s
  (s.moves.filter fun m => !m.missed && decide (m.promise ≤ s.now)).foldl (fun t m => passing (execPromiseMissed m.id t) t) s

/-- What follows by itself from the state reached: limits that have passed, halts, saves, slots and queue entries that are free again,
commands whose waits are over, requests of admitted units. -/
def settle (s : State) : State :=
  let s := settleChains (settleCache (settleWatch (settleDeadlines s)))
  settleRequests (offerAll (sweepCrucibles (settleCooling (settleCommands (settleAnchors (settleSaved (settlePreempts (settleHalts s))))))))

/-- What every step does first: time goes by, and what follows from the last step is settled. It is unfolded only by name, so that
comparing two steps does not evaluate it. -/
@[irreducible] def tick (s : State) : State :=
  let dt := s.env.elapsed.headD 1
  let u := { s with units := s.units.map (ageUnit s dt) }
  settle { advance u dt with turn := s.turn + 1, env := { s.env with elapsed := s.env.elapsed.drop 1 } }

/-- An event the environment brings: never an instruction word. -/
def runAgenda (e : Instr) (s : State) : Host.Outcome State Fault Refusal :=
  if (encode e).isSome then .next s else exec e s

/-- The body of a step, after time has gone by: an event that the environment brings; else, in turn, an issue or an event. -/
def act (s : State) : Host.Outcome State Fault Refusal :=
  match s.env.agenda with
  | e :: rest => runAgenda e { s with env := { s.env with agenda := rest } }
  | [] =>
    match (if s.turn % 2 = 1 then nextPart s else none) with
    | some part => issueStep part s
    | none => eventStep s

/-! ## A word placed where the next step fetches it -/

/-- The first core that holds no slot. -/
def emptyCore (s : State) : Nat := ((List.range 512).find? fun c => !(s.slots.any fun x => x.core == c)).getD 0

/-- Effective values of the node of a word's launch: supervisor, no limit, no queue. -/
def wordNode : Node :=
  { (default : Node) with
    regionId := 1, supervisor := true, budgetCores := 1024, budgetGroups := 1024, quotaV := 2 ^ 20, quotaS := 2 ^ 20, quotaSpad := 2 ^ 20, quotaLat := 2 ^ 20 }

/-- The launch of a single group that runs a word: root entry of the tables at 0x10_0000 of stack 0, ENTRY at 0x1004. -/
def wordLaunch (idx : Nat) : Launch :=
  { (default : Launch) with
    idx
    chain := [wordNode]
    ptRoot := 0x1000001#64
    kernel := 0xF00
    entry := 0x1004
    valloc := 112
    salloc := 112
    teamGroups := 1
    teams := 1
    cores := 1
    rTimeout := 1000 }

/-- A word stands at slot 1 of the bundle at 0x1000, the other words of the bundle zero; two tables map the first GiB of stack 0 onto itself; a
single group of a new launch, on a core of its own, stands at that slot, and its pipe is served next. -/
def placeWord (s : State) (w : Word) : State :=
  let idx := s.nextId
  let core := emptyCore s
  let l := wordLaunch idx
  let t : State := { s with
    nextId := idx + 2
    launches := s.launches ++ [l]
    units := s.units ++ [newGroup l (idx + 1) 0 0 core 0]
    slots := s.slots ++ [newSlot l core 0 (idx + 1)]
    teams := s.teams ++ [{ launch := idx, idx := 0, cores := [core], anchor := core, members := [0], bars := List.replicate 32 Bar.blank }]
    service := 2
    topLost := false
    bottomLost := false
    dies := (modAt s.dies (dieOf core) fun _ => 0).set 8 0
    turn := 0
    pipes := s.pipes.filter fun p => p.1 / 32 != core
    env := { s.env with agenda := [], seats := [core * 4] } }
  (((t.dramWrite 0x100000 (bytesLE 8 0x2000001)).dramWrite 0x200000 (bytesLE 8 0xBF)).dramWrite 0x1000 (bytesLE 4 0 ++ bytesLE 4 w.toNat ++ bytesLE 8 0))

end Sys2Proof.Machine
end

