-- ==== Sys2Proof/Machine/Step.lean ====
section
/-! DEFINITION. The step function of the machine, and the state in which a given word is the next to be fetched. -/

namespace Sys2Proof.Machine

/-- One step: time goes by, then the machine takes an event or issues an instruction (R25, R318). -/
def step (s : State) : Host.Outcome State Fault Refusal := act (tick s)

/-- The state s with an instruction word placed where `step` fetches its next instruction (log 2). -/
def State.withFetchWord (s : State) (_nbits w : Nat) : State := placeWord s (BitVec.ofNat 32 w)

end Sys2Proof.Machine
end

