-- ==== Sys2Proof/Safety.lean ====
section
/-! DEFINITION. What a sound state of the module is: the invariant that every step keeps, whatever the state it starts from. -/

namespace Sys2Proof.Machine

/-- A `SERVICE` in progress stands at a level that exists and that its command asked for (R348, R350). -/
def PendCmd.sound (p : PendCmd) : Prop := p.opcode = 0x0F → p.arg ≤ p.target ∧ p.target ≤ 2

/-- What `State.Inv` says, of the fields it concerns. -/
structure Sound (dram spad : List Host.Cell) (service : Nat) (slew : Int) (dies : List Nat) (links : List Link)
    (replicas : List Bool) (acMilli : List Nat) (window : Nat) (pending : List PendCmd) : Prop where
  /-- Both memories stand in the canonical form: addresses strictly rising, no entry equal to what an unlisted address reads as. -/
  dramForm : Memory.wf dram = true
  spadForm : Memory.wf spad = true
  /-- The service level is S0, S1 or S2 (R348). -/
  level : service ≤ 2
  /-- The servo's slew stays within 200 ppm (R346). -/
  slewLow : -200 ≤ slew
  slewHigh : slew ≤ 200
  /-- Sixteen dies, each on, parked, off or failed (R12, R352), with a replica and a clock each (R263, R287). -/
  dieCount : dies.length = 16
  dieState : ∀ d ∈ dies, d ≤ 3
  replicaCount : replicas.length = 16
  clockCount : acMilli.length = 16
  /-- The 46 links of R21. -/
  linkCount : links.length = 46
  /-- The window length of R347. -/
  windowLow : 1 ≤ window
  windowHigh : window ≤ 16
  commands : ∀ p ∈ pending, p.sound

/-- THE INVARIANT of the module. -/
def State.Inv (s : State) : Prop :=
  Sound s.dram s.spad s.service s.slew s.dies s.links s.replicas s.acMilli s.window s.pending

/-! ## What a claim about an instruction says -/

/-- Nothing stands before the own effect of instruction i with these operands: no flag it waits for is set and none has a fault pending
(R65, R85, R186), no fault is left to it (R47, R188), a visitor may execute it (R213, R214), and no check of R91 fails. -/
structure Clear (c : Ctx) (i : Instr) (ops : List Opnd) : Prop where
  flags : ∀ k ∈ c.s.cur.waitMask ++ i.asyncFlag.toList, (c.g.flag k).set = false
  acquires : i.heldByAcquire = true → ∀ k ∈ c.g.acqFlags, (c.g.flag k).set = false
  pending : ∀ k ∈ c.s.cur.waitMask ++ i.raisesFlag.toList ++ (if i.heldByAcquire then c.g.acqFlags else []),
    (c.g.flag k).pending = none
  home : c.g.homeFault = none
  released : c.g.deferred = none
  body : ∀ v, c.g.visitor = some v → v.issued < 4096 ∧ remoteOk i = true
  operands : c.checks i ops = none

/-- In state s the unit of `cur` issues i, and sees c. -/
def Issues (s : State) (i : Instr) (c : Ctx) : Prop := ctx? s = some c ∧ Clear c i (i.opnds c.uni)

/-- The unit of a number and its slot with every pending write of its stay chain made: what they hold once the chain is over (R60, R83). -/
def settled (t : State) (uid : Nat) : Option (Group × Slot) :=
  match t.unit? uid with
  | none => none
  | some g => (t.slot? g.core g.slot).map (commitChain g)

/-- What an instruction writes into registers and predicates, and where the pc goes: new values by allocation index and strand (R57, R59), by
number for x registers and predicates (R63, R64); none is no change. -/
structure Effect where
  vec : Nat → Nat → Option Word
  scal : Nat → Option Word
  twin : Nat → Nat → Option Word
  pred : Nat → Nat → Option Bool
  pc : Nat

/-- No register written. -/
def Effect.only (pc : Nat) : Effect :=
  { vec := fun _ _ => none, scal := fun _ => none, twin := fun _ _ => none, pred := fun _ _ => none, pc }

/-- The strands of the mask get f in the register that D names in the sense of `Dst` (R76, R87); a register below 112 is a vector register, or the
scalar in uniform form, where every source has one value and f is the same for each strand; D = 112 discards. -/
def Effect.dst (c : Ctx) (d : Nat) (f : Nat → Word) : Effect :=
  { Effect.only (nextPc c.g.pc) with
    vec := fun k j => if d < 112 ∧ c.uni = false ∧ k = c.g.vwb + d ∧ inMask c.g.mask j = true then some (f j) else none
    scal := fun k => if d < 112 ∧ c.uni = true ∧ k = c.g.swb + d then some (f 0) else none
    twin := fun k j => if 120 ≤ d ∧ k = d - 120 ∧ inMask c.g.mask j = true then some (f j) else none }

/-- The strands of the mask get f in predicate p; p0 ignores it (R64). -/
def Effect.pdst (c : Ctx) (p : Nat) (f : Nat → Bool) : Effect :=
  { Effect.only (nextPc c.g.pc) with
    pred := fun k j => if p ≠ 0 ∧ k = p ∧ inMask c.g.mask j = true then some (f j) else none }

/-- The scalars of a list of window numbers get values. -/
def Effect.scals (c : Ctx) (l : List (Nat × Word)) (pc : Nat) : Effect :=
  { Effect.only pc with scal := fun k => (l.find? fun e => k == c.g.swb + e.1).map (·.2) }

/-- A group of a pair has written a strand of an x register in the ac t (R63). -/
def TwinWindow.wrote (w : TwinWindow) (t : Nat) (upper : Bool) (k j : Nat) : Bool :=
  (w.settle t).late.any fun e => e.upper == upper && e.reg == k && inMask e.mask j

/-- A group of a pair, in the ac t, has written new values to strands of the x registers (R63): it sees them at once, its twin from the next ac; of a
strand that both have written in this ac the lower group's value is seen by both, and stands. -/
structure TwinDone (t : Nat) (upper : Bool) (f : Nat → Nat → Option Word) (w w' : TwinWindow) : Prop where
  rest : { w' with x := w.x, late := w.late, lateAt := w.lateAt } = w
  own : ∀ k j, j < 32 → laneAt ((w'.seen t upper).getD k []) j =
    match f k j with
    | some v => if upper && w.wrote t false k j then laneAt ((w.seen t false).getD k []) j else v
    | none => laneAt ((w.seen t upper).getD k []) j
  twin : ∀ k j, j < 32 → laneAt ((w'.seen t (!upper)).getD k []) j =
    match f k j with
    | some v => if !upper && w.wrote t true k j then v else laneAt ((w.seen t (!upper)).getD k []) j
    | none => laneAt ((w.seen t (!upper)).getD k []) j
  next : ∀ k j, j < 32 → ∀ t', t' ≠ w'.lateAt → ∀ side, laneAt ((w'.seen t' side).getD k []) j =
    match f k j with
    | some v => if upper && w.wrote t false k j then laneAt ((w.seen t false).getD k []) j else v
    | none => laneAt (w.all.getD k []) j

/-- Unit g and slot sl, settled, are those of c with the effect e, and nothing else of them has changed but what issuing an instruction changes:
the pc, the age, the opportunities counted for a distance (R318), the count of a body's instructions (R214), the bundle, the flags awaited. -/
structure UnitDone (c : Ctx) (e : Effect) (g : Group) (sl : Slot) : Prop where
  unit : { g with
      pc := (commitChain c.g c.sl).1.pc
      preds := (commitChain c.g c.sl).1.preds
      age := (commitChain c.g c.sl).1.age
      opps := (commitChain c.g c.sl).1.opps
      holding := (commitChain c.g c.sl).1.holding
      awaited := (commitChain c.g c.sl).1.awaited
      visitor := (commitChain c.g c.sl).1.visitor
      bundle := (commitChain c.g c.sl).1.bundle } = (commitChain c.g c.sl).1
  pc : g.pc = e.pc
  visitor : g.visitor = c.g.visitor.map fun v => { v with issued := v.issued + 1 }
  pred : ∀ k j, 1 ≤ k → inMask (g.preds.getD (k - 1) 0) j = (e.pred k j).getD (inMask ((commitChain c.g c.sl).1.preds.getD (k - 1) 0) j)
  slot : { sl with
      v := (commitChain c.g c.sl).2.v
      s := (commitChain c.g c.sl).2.s
      vdirty := (commitChain c.g c.sl).2.vdirty
      sdirty := (commitChain c.g c.sl).2.sdirty } = (commitChain c.g c.sl).2
  vec : ∀ k j, j < 32 → sl.vec k j = (e.vec k j).getD ((commitChain c.g c.sl).2.vec k j)
  scal : ∀ k, sl.scal k = (e.scal k).getD ((commitChain c.g c.sl).2.scal k)

/-- State t is the state of c with the effect e of an instruction of its unit, and nothing else has changed: no byte of memory, no other unit or
slot, no other part of the state. -/
structure Done (c : Ctx) (t : State) (e : Effect) : Prop where
  own : ∃ g sl, settled t c.g.uid = some (g, sl) ∧ UnitDone c e g sl
  units : (t.units.filter fun g => g.uid != c.g.uid) = c.s.units.filter fun g => g.uid != c.g.uid
  slots : (t.slots.filter fun x => !(x.core == c.g.core && x.slot == c.g.slot)) =
    c.s.slots.filter fun x => !(x.core == c.g.core && x.slot == c.g.slot)
  noWindow : c.twin? = none → t.twins = c.s.twins
  window : ∀ w, c.twin? = some w → ∃ w', t.twinWindow? c.g.launch c.g.core c.g.slot = some w' ∧
    TwinDone (c.s.acOf w.lower) (isUpper c.g.core) e.twin w w'
  windows : (t.twins.filter fun w => !(w.launch == c.g.launch && w.lower == pairOf c.g.core && w.slot == c.g.slot)) =
    c.s.twins.filter fun w => !(w.launch == c.g.launch && w.lower == pairOf c.g.core && w.slot == c.g.slot)
  dram : ∀ a, Memory.read t.dram a = Memory.read c.s.dram a
  spad : ∀ a, Memory.read t.spad a = Memory.read c.s.spad a
  rest : { t with units := c.s.units, slots := c.s.slots, twins := c.s.twins } = c.s

/-- Instruction i issues, completes, and has the effect e and no other. -/
def Completes (s : State) (i : Instr) (c : Ctx) (e : Effect) : Prop := ∃ t, exec i s = .next t ∧ Done c t e

end Sys2Proof.Machine
end

