-- ==== Sys2Proof/Certificates/Slice0/Obligations.lean ====
section
/-! DEFINITION. The statements about this model, each with the rules of spec/ it formalises. `Sys2Proof.Claims` holds the tables they speak
through: what the rules give as the result of an instruction, written from the rules and not from the meanings. -/

namespace Sys2Proof.Claims
open Sys2Proof.Machine

/-! ## Results of the arithmetic instructions -/

/-- A signed and an unsigned integer clamped to 32 bits (R145). -/
def clampS (z : Int) : Word := BitVec.ofInt 32 (max (-2147483648) (min 2147483647 z))
def clampU (z : Int) : Word := BitVec.ofInt 32 (max 0 (min 4294967295 z))

/-- a rotated left by n mod 32 (R150). -/
def rotl (a : Word) (n : Nat) : Word := maskOf fun j => a.getLsbD ((j + 32 - n % 32) % 32)

/-- The shifts of R150 by an amount n: 0 shl, 1 shr, 2 sar, 3 ror, 4 rol. -/
def shifted (kind n : Nat) (a : Word) : Word :=
  match kind with
  | 0 => if 32 ≤ n then 0 else BitVec.ofNat 32 (a.toNat * 2 ^ n)
  | 1 => if 32 ≤ n then 0 else BitVec.ofNat 32 (a.toNat / 2 ^ n)
  | 2 => if 32 ≤ n then (if a.toInt < 0 then 0xFFFFFFFF#32 else 0) else BitVec.ofInt 32 (a.toInt / 2 ^ n)
  | 3 => maskOf fun j => a.getLsbD ((j + n) % 32)
  | _ => rotl a n

/-- The table of R145 and R150 for the listed values of F: the result of a and b. -/
def arith : Instr → Option (BitVec 7 × BitVec 7 × BitVec 7 × (Word → Word → Word))
  | .iadd d a b f => match f.toNat with
    | 0 => some (d, a, b, fun x y => BitVec.ofNat 32 (x.toNat + y.toNat))
    | 1 => some (d, a, b, fun x y => clampS (x.toInt + y.toInt))
    | 2 => some (d, a, b, fun x y => clampU (x.toNat + y.toNat))
    | _ => none
  | .isub d a b f => match f.toNat with
    | 0 => some (d, a, b, fun x y => BitVec.ofInt 32 ((x.toNat : Int) - y.toNat))
    | 1 => some (d, a, b, fun x y => clampS (x.toInt - y.toInt))
    | 2 => some (d, a, b, fun x y => clampU ((x.toNat : Int) - y.toNat))
    | _ => none
  | .imul d a b f => match f.toNat with
    | 0 => some (d, a, b, fun x y => BitVec.ofNat 32 (x.toNat * y.toNat))
    | 1 => some (d, a, b, fun x y => (x.signExtend 64 * y.signExtend 64).extractLsb' 32 32)
    | 2 => some (d, a, b, fun x y => (x.setWidth 64 * y.setWidth 64).extractLsb' 32 32)
    | _ => none
  | .imnx d a b f => match f.toNat with
    | 0 => some (d, a, b, fun x y => BitVec.ofInt 32 (min x.toInt y.toInt))
    | 1 => some (d, a, b, fun x y => BitVec.ofInt 32 (max x.toInt y.toInt))
    | 2 => some (d, a, b, fun x y => BitVec.ofNat 32 (min x.toNat y.toNat))
    | 3 => some (d, a, b, fun x y => BitVec.ofNat 32 (max x.toNat y.toNat))
    | _ => none
  | .land d a b => some (d, a, b, fun x y => maskOf fun j => x.getLsbD j && y.getLsbD j)
  | .lor d a b => some (d, a, b, fun x y => maskOf fun j => x.getLsbD j || y.getLsbD j)
  | .lxor d a b => some (d, a, b, fun x y => maskOf fun j => x.getLsbD j != y.getLsbD j)
  | .andn d a b => some (d, a, b, fun x y => maskOf fun j => x.getLsbD j && !y.getLsbD j)
  | .shl d a b f => match f.toNat with
    | 0 => some (d, a, b, fun x y => shifted 0 y.toNat x)
    | 1 => some (d, a, b, fun x y => shifted 4 y.toNat x)
    | _ => none
  | .shr d a b f => match f.toNat with
    | 0 => some (d, a, b, fun x y => shifted 1 y.toNat x)
    | 1 => some (d, a, b, fun x y => shifted 2 y.toNat x)
    | 2 => some (d, a, b, fun x y => shifted 3 y.toNat x)
    | _ => none
  | _ => none

/-- The rows of R145 and R150. -/
def arithRow : Instr → Bool
  | .iadd _ _ _ _ | .isub _ _ _ _ | .imul _ _ _ _ | .imnx _ _ _ _ | .land _ _ _ | .lor _ _ _ | .lxor _ _ _ | .andn _ _ _
  | .shl _ _ _ _ | .shr _ _ _ _ => true
  | _ => false

/-- A condition of R147. -/
def holdsB (code : Nat) (a b : Word) : Bool :=
  match code with
  | 0 => a.toNat == b.toNat
  | 1 => a.toNat != b.toNat
  | 2 => decide (a.toInt < b.toInt)
  | 3 => decide (a.toInt ≥ b.toInt)
  | 4 => decide (a.toNat < b.toNat)
  | 5 => decide (a.toNat ≥ b.toNat)
  | 6 => decide (a.toInt ≤ b.toInt)
  | _ => decide (a.toInt > b.toInt)

/-- The field of `BFX` (R151): position, effective length. -/
def fieldPos (b : Word) : Nat := b.toNat % 32
def fieldLen (b : Word) : Nat := min (min (b.toNat / 256 % 64) 32) (32 - fieldPos b)

/-- `BFX` by the bits of its result (R151). -/
def bitField (fv : Nat) (d a b : Word) : Word :=
  match fv with
  | 0 => maskOf fun j => decide (j < fieldLen b) && a.getLsbD (fieldPos b + j)
  | 1 => maskOf fun j => decide (0 < fieldLen b) && a.getLsbD (fieldPos b + min j (fieldLen b - 1))
  | _ => maskOf fun j => if fieldPos b ≤ j ∧ j < fieldPos b + fieldLen b then a.getLsbD (j - fieldPos b) else d.getLsbD j

/-- `BITOP` (R152). -/
def bitOperation (fv : Nat) (a : Word) : Word :=
  match fv with
  | 0 => BitVec.ofNat 32 ((List.range 32).filter fun j => a.getLsbD j).length
  | 1 => BitVec.ofNat 32 ((List.range 32).takeWhile fun j => !a.getLsbD (31 - j)).length
  | 2 => BitVec.ofNat 32 ((List.range 32).takeWhile fun j => !a.getLsbD j).length
  | 3 => maskOf fun j => a.getLsbD (31 - j)
  | _ => maskOf fun j => a.getLsbD (8 * (3 - j / 8) + j % 8)

/-- The other integer results: R146, R149 and R151 to R155. `IADDC` and the compares write predicates too. -/
def integer (c : Ctx) : Instr → Option Effect
  | .imad d a b f => some (Effect.dst c d.toNat fun j =>
      let x := c.src a.toNat j; let y := c.src b.toNat j; let z := c.src d.toNat j
      match f.toNat with
      | 0 => BitVec.ofNat 32 (x.toNat * y.toNat + z.toNat)
      | 1 => clampS (x.toInt * y.toInt + z.toInt)
      | _ => clampU (x.toNat * y.toNat + z.toNat))
  | .iaddc d a b s p =>
    let y (j : Nat) : Int := if s = 0#1 then ((c.src a.toNat j).toNat : Int) + (c.src b.toNat j).toNat + bitNat (c.predBit p.toNat j)
      else ((c.src a.toNat j).toNat : Int) - (c.src b.toNat j).toNat - bitNat (c.predBit p.toNat j)
    some { Effect.dst c d.toNat (fun j => BitVec.ofInt 32 (y j)) with
      pred := (Effect.pdst c p.toNat fun j => if s = 0#1 then decide (y j ≥ 4294967296) else decide (y j < 0)).pred }
  | .bfx d a b f => some (Effect.dst c d.toNat fun j => bitField f.toNat (c.src d.toNat j) (c.src a.toNat j) (c.src b.toNat j))
  | .bitop d a f => some (Effect.dst c d.toNat fun j => bitOperation f.toNat (c.src a.toNat j))
  | .iaddi d a i => some (Effect.dst c d.toNat fun j => c.src a.toNat j + i.signExtend 32)
  | .andi d a i => some (Effect.dst c d.toNat fun j => c.src a.toNat j &&& i.signExtend 32)
  | .ori d a i => some (Effect.dst c d.toNat fun j => c.src a.toNat j ||| i.signExtend 32)
  | .xori d a i => some (Effect.dst c d.toNat fun j => c.src a.toNat j ^^^ i.signExtend 32)
  | .shi d a k n => some (Effect.dst c d.toNat fun j => shifted k.toNat n.toNat (c.src a.toNat j))
  | .movi d i => some (Effect.dst c d.toNat fun _ => i.signExtend 32)
  | .movhi d i => some (Effect.dst c d.toNat fun j => i ++ (if d.toNat = 112 then 0#14 else (c.src d.toNat j).extractLsb' 0 14))
  | .isetp p a b f => some (Effect.pdst c p.toNat fun j =>
      holdsB (f.toNat % 8) (c.src a.toNat j) (c.src b.toNat j) && (!f.getLsbD 3 || c.predBit p.toNat j))
  | .isetpi p a cc i => some (Effect.pdst c p.toNat fun j =>
      holdsB cc.toNat (c.src a.toNat j) (if cc.toNat = 4 ∨ cc.toNat = 5 then i.setWidth 32 else i.signExtend 32))
  | _ => none

/-- The results of FP32, packed and converting instructions (R159 to R168): one rounding of the exact value. -/
def floating (c : Ctx) : Instr → Option Effect
  | .fadd d a b f => some (Effect.dst c d.toNat fun j =>
      round32 f.toNat (FVal.add (isRd f.toNat) (Fmt.fp32.operand f.toNat (c.src a.toNat j).toNat) (Fmt.fp32.operand f.toNat (c.src b.toNat j).toNat)))
  | .fmul d a b f => some (Effect.dst c d.toNat fun j =>
      round32 f.toNat (FVal.mul (Fmt.fp32.operand f.toNat (c.src a.toNat j).toNat) (Fmt.fp32.operand f.toNat (c.src b.toNat j).toNat)))
  | .ffma d a b f => some (Effect.dst c d.toNat fun j =>
      round32 f.toNat (FVal.add (isRd f.toNat)
        (FVal.mul (Fmt.fp32.operand f.toNat (c.src a.toNat j).toNat) (Fmt.fp32.operand f.toNat (c.src b.toNat j).toNat))
        (Fmt.fp32.operand f.toNat (c.src d.toNat j).toNat)))
  | .fmnx d a b f => some (Effect.dst c d.toNat fun j =>
      match f.toNat with
      | 0 => fminmax false (c.src a.toNat j) (c.src b.toNat j)
      | 1 => fminmax true (c.src a.toNat j) (c.src b.toNat j)
      | 2 => if isNan32 (c.src a.toNat j) then nan32 else c.src a.toNat j ^^^ 0x80000000#32
      | 3 => if isNan32 (c.src a.toNat j) then nan32 else 0#1 ++ (c.src a.toNat j).extractLsb' 0 31
      | _ => if isNan32 (c.src a.toNat j) then nan32 else (c.src b.toNat j).extractLsb' 31 1 ++ (c.src a.toNat j).extractLsb' 0 31)
  | .fsetp p a b f => some (Effect.pdst c p.toNat fun j =>
      fcond (f.toNat % 8) (c.src a.toNat j) (c.src b.toNat j) && (!f.getLsbD 3 || c.predBit p.toNat j))
  | .fsfu d a f => some (Effect.dst c d.toNat fun j => fsfuOf f.toNat (c.src a.toNat j))
  | .fcvt d a g r v f => some (Effect.dst c d.toNat fun j => fcvtOf g.toNat (r == 1#1) (v == 1#1) f.toNat (c.src a.toNat j))
  | .fclass d a f => some (Effect.dst c d.toNat fun j =>
      BitVec.ofNat 32 (fclassOf (fclassFmt f.toNat) ((c.src a.toNat j).toNat % 2 ^ (fclassFmt f.toNat).width)))
  | .hadd2 d a b f => some (Effect.dst c d.toNat fun j => packed2 fun k =>
      Fmt.fp16.round f.toNat (FVal.add (isRd f.toNat) (Fmt.fp16.operand f.toNat (half (c.src a.toNat j) k)) (Fmt.fp16.operand f.toNat (half (c.src b.toNat j) k))))
  | .hmul2 d a b f => some (Effect.dst c d.toNat fun j => packed2 fun k =>
      Fmt.fp16.round f.toNat (FVal.mul (Fmt.fp16.operand f.toNat (half (c.src a.toNat j) k)) (Fmt.fp16.operand f.toNat (half (c.src b.toNat j) k))))
  | .hfma2 d a b f => some (Effect.dst c d.toNat fun j => packed2 fun k =>
      Fmt.fp16.round f.toNat (FVal.add (isRd f.toNat)
        (FVal.mul (Fmt.fp16.operand f.toNat (half (c.src a.toNat j) k)) (Fmt.fp16.operand f.toNat (half (c.src b.toNat j) k)))
        (Fmt.fp16.operand f.toNat (half (c.src d.toNat j) k))))
  | .bfma2 d a b f => some (Effect.dst c d.toNat fun j => packed2 fun k =>
      Fmt.bf16.round f.toNat (FVal.add (isRd f.toNat)
        (FVal.mul (Fmt.bf16.operand f.toNat (half (c.src a.toNat j) k)) (Fmt.bf16.operand f.toNat (half (c.src b.toNat j) k)))
        (Fmt.bf16.operand f.toNat (half (c.src d.toNat j) k))))
  | .dot4 d a b f => some (Effect.dst c d.toNat fun j => dot4Of f.toNat (c.src a.toNat j) (c.src b.toNat j) (c.src d.toNat j))
  | .pcvt d a b f => some (Effect.dst c d.toNat fun j => pcvtOf f.toNat (c.src b.toNat j) (c.src a.toNat j) (c.src d.toNat j))
  | _ => none

/-! ## Moves, predicates and cross-lane instructions -/

/-- The strands of the mask get f in the vector or twin register D, in uniform form too (R169). -/
def vectorDst (c : Ctx) (d : Nat) (f : Nat → Word) : Effect := Effect.dst { c with uni := false } d f

/-- A reduction of R177 over the values of the participating strands in ascending order. -/
def reduced (op : Nat) (l : List Word) : Word :=
  match l with
  | [] => 0
  | x :: t =>
    match op with
    | 0 => BitVec.ofNat 32 ((x :: t).map (·.toNat)).sum
    | 1 => BitVec.ofInt 32 (t.foldl (fun m w => min m w.toInt) x.toInt)
    | 2 => BitVec.ofInt 32 (t.foldl (fun m w => max m w.toInt) x.toInt)
    | 3 => BitVec.ofNat 32 (t.foldl (fun m w => min m w.toNat) x.toNat)
    | 4 => BitVec.ofNat 32 (t.foldl (fun m w => max m w.toNat) x.toNat)
    | 5 => maskOf fun j => (x :: t).all fun w => w.getLsbD j
    | 6 => maskOf fun j => (x :: t).any fun w => w.getLsbD j
    | 7 => maskOf fun j => ((x :: t).filter fun w => w.getLsbD j).length % 2 == 1
    | _ => reduxOf op (x :: t)

/-- The strand from which strand i of `SHFL` takes its value (R176). -/
def shuffleFrom (fv i n : Nat) : Int :=
  match fv with
  | 0 => (n % 32 : Nat)
  | 1 => (i : Int) - n
  | 2 => (i : Int) + n
  | _ => (i ^^^ (n % 32) : Nat)

/-- Results of R169 to R177; for `IDX` and `IDX.w` of strands whose indices lie in the window and the allocation. -/
def lanes (c : Ctx) : Instr → Option Effect
  | .mov d a f =>
    match f.toNat with
    | 0 => some (Effect.dst c d.toNat fun j => c.src a.toNat j)
    | 1 => some (vectorDst c d.toNat fun _ => c.sreg a.toNat)
    | _ => some (if d.toNat = 112 then Effect.only (nextPc c.g.pc) else Effect.scals c [(d.toNat, c.vsrc a.toNat c.low)] (nextPc c.g.pc))
  | .idx d a b f =>
    match f.toNat with
    | 0 => some (Effect.dst c d.toNat fun j => if c.uni then c.sreg (c.src a.toNat j).toNat else c.v (c.src a.toNat j).toNat j)
    | 1 => some { Effect.only (nextPc c.g.pc) with
        vec := fun k j => if c.uni = false ∧ inMask c.g.mask j = true ∧ k = c.g.vwb + (c.src a.toNat j).toNat then some (c.src b.toNat j) else none
        scal := fun k => if c.uni = true ∧ k = c.g.swb + (c.src a.toNat c.low).toNat then some (c.src b.toNat c.low) else none }
    | _ => some (Effect.dst c d.toNat fun j => BitVec.ofNat 32 (if c.uni then c.low else j))
  | .plop d a b f => some (Effect.pdst c d.toNat fun j => f.getLsbD (2 * bitNat (c.predBit a.toNat j) + bitNat (c.predBit b.toNat j)))
  | .pset p f => some (Effect.pdst c p.toNat fun j => decide (f = 1#4) || (decide (f = 2#4) && decide (j = c.low)))
  | .pmov d a f =>
    match f.toNat with
    | 0 => some (Effect.dst c d.toNat fun _ => c.pred a.toNat)
    | 1 => some (Effect.pdst c d.toNat fun j => decide (c.src a.toNat j ≠ 0))
    | _ => some (Effect.pdst c d.toNat fun j => (c.src a.toNat c.low).getLsbD j)
  | .vote d a f =>
    match f.toNat with
    | 0 => some (Effect.pdst c d.toNat fun _ => (strands c.g.mask).any fun k => inMask (c.pred a.toNat) k)
    | 1 => some (Effect.pdst c d.toNat fun _ => (strands c.g.mask).all fun k => inMask (c.pred a.toNat) k)
    | 2 => some (Effect.pdst c d.toNat fun _ => (strands c.g.mask).all fun k => (strands c.g.mask).all fun l => c.src a.toNat k == c.src a.toNat l)
    | 3 => some (Effect.dst c d.toNat fun _ => c.pred a.toNat &&& c.g.mask)
    | _ => some (Effect.dst c d.toNat fun _ => BitVec.ofNat 32 ((strands c.g.mask).filter fun k => inMask (c.pred a.toNat) k).length)
  | .shfl d a b f => some (Effect.dst c d.toNat fun j =>
      let k := shuffleFrom f.toNat j (c.src b.toNat j).toNat
      if 0 ≤ k ∧ k < 32 ∧ inMask c.g.mask k.toNat = true then c.src a.toNat k.toNat else c.src a.toNat j)
  | .redux d a f =>
    if f.toNat = 12 then some (Effect.dst c d.toNat fun j => BitVec.ofNat 32 ((strands c.g.mask).filter (· ≤ j) |>.map fun k => (c.vsrc a.toNat k).toNat).sum)
    else some (Effect.dst c d.toNat fun _ => reduced f.toNat ((strands c.g.mask).map (c.vsrc a.toNat)))
  | _ => none

/-- No strand of an `IDX` or `IDX.w` names a register outside the window or the allocation (R170). -/
def indicesOk (c : Ctx) : Instr → Prop
  | .idx _ a _ f => f.toNat ≤ 1 → ∀ j ∈ c.active, (c.src a.toNat j).toNat < 112 ∧
      (if c.uni then c.g.swb + (c.src a.toNat j).toNat < c.sl.salloc else c.g.vwb + (c.src a.toNat j).toNat < c.sl.valloc)
  | _ => True

end Sys2Proof.Claims

section Registers
open Sys2Proof Sys2Proof.Machine Sys2Proof.Claims

/-- R145, R150: the arithmetic and logic rows. In every form, with every register, in both the vector and the uniform form, the instruction completes,
its destination takes the table's value on the strands of the mask, and nothing else changes; a value of F that the tables do not list is
reserved: it raises fault 0x01. -/
def Obligations.ArithmeticTables : Prop :=
  ∀ (s : State) (c : Ctx) (i : Instr), arithRow i = true →
    (∀ d a b f, arith i = some (d, a, b, f) → Issues s i c →
      Completes s i c (Effect.dst c d.toNat fun j => f (c.src a.toNat j) (c.src b.toNat j))) ∧
    (arith i = none → ∀ u, i.legal u = false)

/-- R148: `SEL` gives each strand a if its bit of p XOR sense is 1, and b otherwise. -/
def Obligations.SelectByPredicate : Prop :=
  ∀ (s : State) (c : Ctx) (d a b : BitVec 7) (n : BitVec 1) (p : BitVec 3), Issues s (.sel d a b n p) c →
    Completes s (.sel d a b n p) c
      (Effect.dst c d.toNat fun j => if (c.predBit p.toNat j ^^ decide (n = 1#1)) = true then c.src a.toNat j else c.src b.toNat j)

/-- R146, R147, R149, R151 to R155: the other integer instructions: their registers and predicates take the values of the rules on the strands
of the mask, and nothing else changes. -/
def Obligations.IntegerResults : Prop :=
  ∀ (s : State) (c : Ctx) (i : Instr) (e : Effect), Issues s i c → integer c i = some e → Completes s i c e

/-- R159 to R168: the FP32, packed and converting instructions write one rounding of the exact value (and the results of R160 to R165),
and nothing else changes. -/
def Obligations.FloatingResults : Prop :=
  ∀ (s : State) (c : Ctx) (i : Instr) (e : Effect), Issues s i c → floating c i = some e → Completes s i c e

/-- R169 to R177: moves, indexed registers, predicates, votes, shuffles and reductions over the strand mask. -/
def Sys2Proof.Claims.LaneResults : Prop :=
  ∀ (s : State) (c : Ctx) (i : Instr) (e : Effect), Issues s i c → indicesOk c i → lanes c i = some e → Completes s i c e

/-- R129: `NOP` and `PAD` change no register, predicate, flag or byte of memory; the pc goes on. -/
def Sys2Proof.Claims.NopAndPadDoNothing : Prop :=
  ∀ (s : State) (c : Ctx), (Issues s .nop c → Completes s .nop c (Effect.only (nextPc c.g.pc))) ∧
    ∀ r l, Issues s (.pad r l) c → Completes s (.pad r l) c (Effect.only (nextPc c.g.pc))

/-- R170: an `IDX` or `IDX.w` with an index outside the window or the allocation takes fault 0x06 of the lowest such strand's index, and has no other effect. -/
def Sys2Proof.Claims.IndexOutsideFaults : Prop :=
  ∀ (s : State) (c : Ctx) (d a b : BitVec 7) (f : BitVec 4) (j : Nat), Issues s (.idx d a b f) c → f.toNat ≤ 1 →
    (c.active.find? fun k => !c.idxOk (c.src a.toNat k).toNat) = some j →
    exec (.idx d a b f) s = .next (c.fail (.idx d a b f) 0x06 (c.src a.toNat j).toNat)

end Registers

namespace Sys2Proof.Claims
open Sys2Proof.Machine

/-- Two effects together; their registers differ. -/
def both (e f : Effect) : Effect :=
  { vec := fun k j => (f.vec k j).or (e.vec k j)
    scal := fun k => (f.scal k).or (e.scal k)
    twin := fun k j => (f.twin k j).or (e.twin k j)
    pred := fun k j => (f.pred k j).or (e.pred k j)
    pc := f.pc }

/-- A 64-bit value for a register pair (R3). -/
def wide (c : Ctx) (d : Nat) (x : Nat) : Effect :=
  both (Effect.dst c d fun _ => BitVec.ofNat 32 x) (Effect.dst c (d + 1) fun _ => BitVec.ofNat 32 (x / 4294967296))

/-- The target of a B-format transfer: the address of the word plus 4 × Sext(offset, 16) (R79). -/
def target (c : Ctx) (o : BitVec 16) : Nat := (BitVec.ofNat 64 c.g.pc + 4#64 * o.signExtend 64).toNat

/-- The target of the unconditional transfers, and the registers that they write. -/
def jumps (c : Ctx) : Instr → Option (Nat × List (Nat × Word))
  | .bra o => some (target c o, [])
  | .call l o => some (target c o,
      [(2 * l.toNat, BitVec.ofNat 32 (nextPc c.g.pc)), (2 * l.toNat + 1, BitVec.ofNat 32 (nextPc c.g.pc / 4294967296))])
  | .ret a => some ((c.sreg a.toNat).toNat + 4294967296 * (c.sreg (a.toNat + 1)).toNat, [])
  | _ => none

/-- The strands that a `BRC` takes (R131). -/
def taken (c : Ctx) (p : BitVec 3) (sense : BitVec 1) : Word :=
  if c.uni then (if (inMask (c.pred p.toNat) c.low ^^ decide (sense = 1#1)) = true then c.g.mask else 0)
  else maskOf fun j => inMask c.g.mask j && (inMask (c.pred p.toNat) j ^^ decide (sense = 1#1))

/-- The strands that an `EXIT` ends (R136). -/
def exits (c : Ctx) (sense : BitVec 1) (p : BitVec 3) : Word :=
  maskOf fun j => inMask c.g.mask j && (inMask (c.pred p.toNat) j ^^ decide (sense = 1#1))

/-- The base that `WINB` or `SWINB` asks for (R141). -/
def window (m : BitVec 1) (k : BitVec 11) (old : Nat) : Int := (if m = 1#1 then (old : Int) else 0) + 8 * k.toInt

/-- The control registers of R66 that have a value of their own here: number, value. -/
def csrTable (c : Ctx) : List (Nat × Nat) :=
  [(0x000, c.s.now), (0x001, c.s.ptime), (0x010, c.g.grp % 512), (0x011, c.g.team % 65536), (0x012, c.g.core % 1024),
    (0x013, c.g.core / 64 % 16), (0x014, c.g.slot % 512), (0x015, c.g.mask.toNat), (0x030, (launchOf c.s c.g).trapVec),
    (0x031, c.g.trapCause.toNat), (0x032, c.g.trapAddr), (0x033, c.g.trapPc), (0x040, 0), (0x041, (launchOf c.s c.g).rTimeout), (0x042, 0),
    (0x060, licstat c.s c.g)] ++
  ((List.range 16).map fun n => (0x050 + n, ((launchOf c.s c.g).spads.getD n 0).toNat))

/-- Nothing but the unit of a number has changed, which is now g. -/
def OnlyUnit (s t : State) (u : Nat) (g : Group) : Prop :=
  t.unit? u = some g ∧ (t.units.filter fun h => h.uid != u) = (s.units.filter fun h => h.uid != u) ∧ { t with units := s.units } = s

end Sys2Proof.Claims

section Control
open Sys2Proof Sys2Proof.Machine Sys2Proof.Claims

/-- R79: what the check of a transfer target finds before the page tables are asked. -/
def Sys2Proof.Claims.TargetChecks : Prop :=
  ∀ (s : State) (g : Group) (t : Nat),
    (t % 4 ≠ 0 ∨ t / 4 % 4 = 0 → checkTarget s g t = some (0x03, none)) ∧
    (t % 4 = 0 → t / 4 % 4 ≠ 0 → 0xFB ≤ t / 2 ^ 56 → checkTarget s g t = some (0x12, none)) ∧
    (t % 4 = 0 → t / 4 % 4 ≠ 0 → 0 < t / 2 ^ 56 → t / 2 ^ 56 < 0xFB → checkTarget s g t = some (0x15, none)) ∧
    (t % 4 = 0 → t / 4 % 4 ≠ 0 → t / 2 ^ 56 = 0 → ∀ p, translate s g.core (rootOf s g) (supervisor s g) .exec t = .ok p → p.res = true →
      checkTarget s g t = none)

/-- R130, R134: `BRA`, `CALL` and `RET` go to a target that passes its checks, `CALL` leaving the return address in its pair; a target fault
leaves the pair unwritten. -/
def Sys2Proof.Claims.JumpsGoToTheirTarget : Prop :=
  ∀ (s : State) (c : Ctx) (i : Instr) (t : Nat) (ws : List (Nat × Word)), Issues s i c → jumps c i = some (t, ws) →
    (checkTarget s c.g t = none → Completes s i c (Effect.scals c ws t)) ∧
    (∀ e, checkTarget s c.g t = some e → exec i s = .next (c.failTarget i t e))

/-- R133: `LOOP` counts its scalar down, modulo 2^32, and goes to its target unless the scalar is then 0; the decrement is written even when the
target check faults. -/
def Sys2Proof.Claims.LoopCountsDown : Prop :=
  ∀ (s : State) (c : Ctx) (k : BitVec 4) (o : BitVec 16), Issues s (.loop k o) c →
    (c.sreg k.toNat = 1 → Completes s (.loop k o) c (Effect.scals c [(k.toNat, 0)] (nextPc c.g.pc))) ∧
    (c.sreg k.toNat ≠ 1 → checkTarget s c.g (target c o) = none →
      Completes s (.loop k o) c (Effect.scals c [(k.toNat, c.sreg k.toNat - 1)] (target c o))) ∧
    (c.sreg k.toNat ≠ 1 → ∀ e, checkTarget s c.g (target c o) = some e →
      exec (.loop k o) s = .next ({ c with g := { c.g with pend := c.g.pend ++ c.sdst k.toNat 0 (c.sreg k.toNat - 1) } }.failTarget (.loop k o) (target c o) e))

/-- R131: a `BRC` that every strand takes goes to its target; one that none takes goes on without a target check; a divergent one with rejoin
barrier 0 takes fault 0x01 with the taken mask as its address; the uniform form never diverges. -/
def Sys2Proof.Claims.ConditionalBranch : Prop :=
  ∀ (s : State) (c : Ctx) (p : BitVec 3) (n : BitVec 1) (b : BitVec 5) (o : BitVec 16), Issues s (.brc p n b o) c →
    (taken c p n = c.g.mask → checkTarget s c.g (target c o) = none → Completes s (.brc p n b o) c (Effect.only (target c o))) ∧
    (taken c p n = c.g.mask → ∀ e, checkTarget s c.g (target c o) = some e → exec (.brc p n b o) s = .next (c.failTarget (.brc p n b o) (target c o) e)) ∧
    (taken c p n = 0 → c.g.mask ≠ 0 → Completes s (.brc p n b o) c (Effect.only (nextPc c.g.pc))) ∧
    (taken c p n ≠ 0 → taken c p n ≠ c.g.mask → b = 0#5 → exec (.brc p n b o) s = .next (c.fail (.brc p n b o) 0x01 (taken c p n).toNat)) ∧
    (c.uni = true → taken c p n = 0 ∨ taken c p n = c.g.mask)

/-- R132, R34: a divergent `BRC` with a rejoin barrier splits its unit: of the strands taken a fragment at the target, of the others one after the branch,
both in the slot of the split and with this core as their anchor; every other unit, every register and every byte of memory is as before. -/
def Sys2Proof.Claims.DivergentBranchSplits : Prop :=
  ∀ (s : State) (c : Ctx) (p : BitVec 3) (n : BitVec 1) (b : BitVec 5) (o : BitVec 16), Issues s (.brc p n b o) c →
    taken c p n ≠ 0 → taken c p n ≠ c.g.mask → b ≠ 0#5 → c.g.visitor = none → checkTarget s c.g (target c o) = none →
    ∃ t x y, exec (.brc p n b o) s = .next t ∧ x ∈ t.units ∧ y ∈ t.units ∧
      x.mask = taken c p n ∧ x.pc = target c o ∧ y.mask = c.g.mask &&& ~~~(taken c p n) ∧ y.pc = nextPc c.g.pc ∧
      (x.uid = c.g.uid ∧ y.uid = s.nextId ∨ x.uid = s.nextId ∧ y.uid = c.g.uid) ∧
      (∀ f ∈ [x, y], f.gid = c.g.gid ∧ f.core = c.g.core ∧ f.slot = c.g.slot ∧ f.anchor = c.g.core ∧ f.rejoin = b.toNat ∧
        f.vwb = c.g.vwb ∧ f.swb = c.g.swb ∧ f.live = c.g.live ∧ f.flags = c.g.flags ∧ f.pend = [] ∧
        ∀ k j, inMask (f.preds.getD k 0) j = inMask ((commitChain c.g c.sl).1.preds.getD k 0) j) ∧
      (t.units.filter fun g => g.uid != c.g.uid && g.uid != s.nextId) = (s.units.filter fun g => g.uid != c.g.uid && g.uid != s.nextId) ∧
      (∃ sl, t.slot? c.g.core c.g.slot = some sl ∧ (∀ k j, j < 32 → sl.vec k j = (commitChain c.g c.sl).2.vec k j) ∧
        (∀ k, sl.scal k = (commitChain c.g c.sl).2.scal k) ∧ sl.records.any (fun r => r.bar == b.toNat) = true) ∧
      (∀ a, Memory.read t.dram a = Memory.read s.dram a) ∧ (∀ a, Memory.read t.spad a = Memory.read s.spad a)

/-- R135: `JTAB` whose table, entry and landing word pass their checks goes to the `PAD` that its entry names; a bad table or an index beyond it is fault
0x05, a landing word that is no `PAD` of the table's label fault 0x04. -/
def Sys2Proof.Claims.JumpTableGoesToItsEntry : Prop :=
  ∀ (s s₁ s₂ s₃ : State) (c : Ctx) (a b : BitVec 7) (t h off w tgt : Nat), Issues s (.jtab a b) c →
    t = (c.sreg b.toNat).toNat + 4294967296 * (c.sreg (b.toNat + 1)).toNat → t < 2 ^ 56 → t % 8 = 0 →
    readFor s c.g .read t 8 = .ok (h, s₁) →
    (h % 8192 = 0 ∨ 4096 < h % 8192 ∨ h % 8192 ≤ (c.sreg a.toNat).toNat →
      exec (.jtab a b) s = .next ({ c with s := s₁ }.fail (.jtab a b) 0x05 t)) ∧
    (h / 8192 % 524288 = 0 → h / 2 ^ 56 % 256 = 0 → (c.sreg a.toNat).toNat < h % 8192 → h % 8192 ≤ 4096 →
      readFor s₁ c.g .read (t + 8 + 4 * (c.sreg a.toNat).toNat) 4 = .ok (off, s₂) →
      tgt = (BitVec.ofNat 64 t + (BitVec.ofNat 32 off).signExtend 64).toNat →
      checkTarget s₂ c.g tgt = none → readFor s₂ c.g .read tgt 4 = .ok (w, s₃) →
      (w / 2 ^ 25 % 128 = 7 ∧ w % 16777216 = h / 2 ^ 32 % 16777216 →
        ∃ u, exec (.jtab a b) s = .next u ∧ Done { c with s := s₃ } u (Effect.only tgt)) ∧
      (¬(w / 2 ^ 25 % 128 = 7 ∧ w % 16777216 = h / 2 ^ 32 % 16777216) →
        exec (.jtab a b) s = .next ({ c with s := s₃ }.fail (.jtab a b) 0x04 tgt)))

/-- R136: an `EXIT` that ends no strand only ends its chain; one that ends some strands leaves the others in the fragment, waiting for nothing; one that
ends them all waits for the flags owed to the fragment, raises the fault that a flag so awaited has left pending, and else ends the fragment: its
unit is gone, and no byte of memory and no other unit's number has changed. -/
def Obligations.ExitEndsStrands : Prop :=
  ∀ (s : State) (c : Ctx) (n : BitVec 1) (p : BitVec 3), Issues s (.exit n p) c →
    (exits c n p = 0 → Completes s (.exit n p) c (Effect.only (nextPc c.g.pc))) ∧
    (exits c n p ≠ 0 → exits c n p = c.g.mask → owed s c.g ≠ [] →
      exec (.exit n p) s = .next (hold (s.modUnit c.g.uid fun g => g.awaits (owed s c.g)))) ∧
    (exits c n p ≠ 0 → exits c n p = c.g.mask → owed s c.g = [] → ∀ k f, pendingOf c.g c.g.awaited = some (k, f) →
      exec (.exit n p) s = .next (c.failFlag (.exit n p) k f)) ∧
    (exits c n p ≠ 0 → (exits c n p ≠ c.g.mask ∨ (owed s c.g = [] ∧ pendingOf c.g c.g.awaited = none)) →
      ∃ t g, Done c t (Effect.only (nextPc c.g.pc)) ∧ t.unit? c.g.uid = some g ∧ exec (.exit n p) s = .next (exitStrands t g (exits c n p)) ∧
        (exitStrands t g (exits c n p)).dram = s.dram ∧ (exitStrands t g (exits c n p)).spad = s.spad) ∧
    (exits c n p ≠ 0 → exits c n p = c.g.mask → owed s c.g = [] → pendingOf c.g c.g.awaited = none → c.g.rejoin = 0 → homeOf c.g.gid = none →
      ∃ t, exec (.exit n p) s = .next t ∧ t.units.map (·.uid) = ((s.units.map (·.uid)).filter fun u => u != c.g.uid) ∧ t.dram = s.dram ∧ t.spad = s.spad)

/-- R138: `TRAP` outside a handler, with `TRAPVEC` set, saves the next pc, clears `TRAPADDR`, writes the cause, sets HANDLER and goes to
`TRAPVEC`; within a handler, or with `TRAPVEC` 0, it takes fault 0x70; a target fault is taken at the `TRAP`. -/
def Obligations.TrapEntersTheHandler : Prop :=
  ∀ (s : State) (c : Ctx) (n : BitVec 11), Issues s (.trap n) c →
    (c.g.handler = true ∨ (launchOf s c.g).trapVec = 0 → exec (.trap n) s = .next (c.fail (.trap n) 0x70 n.toNat)) ∧
    (c.g.handler = false → (launchOf s c.g).trapVec ≠ 0 → ∀ e, checkTarget s c.g (launchOf s c.g).trapVec = some e →
      exec (.trap n) s = .next (c.failTarget (.trap n) (launchOf s c.g).trapVec e)) ∧
    (c.g.handler = false → (launchOf s c.g).trapVec ≠ 0 → checkTarget s c.g (launchOf s c.g).trapVec = none →
      ∃ t, Done c t (Effect.only (nextPc c.g.pc)) ∧ exec (.trap n) s = .next (t.modUnit c.g.uid fun g =>
        { g with trapPc := nextPc c.g.pc, trapAddr := 0, trapCause := BitVec.ofNat 32 (0x70 + 4096 * n.toNat), handler := true,
                 pc := (launchOf s c.g).trapVec, bundle := none }))

/-- R262: `ERET` in a handler goes to `TRAPPC` and clears HANDLER, the trap registers keeping their values; outside a handler it takes fault 0x01; a target fault
leaves HANDLER at 1. -/
def Obligations.EretLeavesTheHandler : Prop :=
  ∀ (s : State) (c : Ctx), Issues s .eret c →
    (c.g.handler = false → exec .eret s = .next (c.fail .eret 0x01 0)) ∧
    (c.g.handler = true → ∀ e, checkTarget s c.g c.g.trapPc = some e → exec .eret s = .next (c.failTarget .eret c.g.trapPc e)) ∧
    (c.g.handler = true → checkTarget s c.g c.g.trapPc = none →
      ∃ t, Done c t (Effect.only c.g.trapPc) ∧ exec .eret s = .next (t.modUnit c.g.uid fun g =>
        { g with pc := g.trapPc, handler := false, bundle := none }))

/-- R139, R140: `PAUSE` sets the pause end (`PAUSE #0` none), `SLEEP` suspends until its deadline unless that has passed; the events end the pause and the
sleep when the deadline is reached, and do nothing before. -/
def Sys2Proof.Claims.PauseAndSleep : Prop :=
  ∀ (s : State) (c : Ctx),
    (∀ n : BitVec 11, Issues s (.pause n) c → ∃ t, Done c t (Effect.only (nextPc c.g.pc)) ∧ exec (.pause n) s =
      .next (if n = 0#11 then t else t.modUnit c.g.uid fun g => { g with pauseEnd := s.now + n.toNat })) ∧
    (∀ a : BitVec 7, Issues s (.sleep a) c → ∃ t, Done c t (Effect.only (nextPc c.g.pc)) ∧ exec (.sleep a) s =
      .next (if (c.sreg a.toNat).toNat + 4294967296 * (c.sreg (a.toNat + 1)).toNat ≤ s.now then t
        else t.modUnit c.g.uid fun g => { g with wait := .sleep ((c.sreg a.toNat).toNat + 4294967296 * (c.sreg (a.toNat + 1)).toNat) })) ∧
    (∀ u g d, s.unit? u = some g → g.wait = .sleep d →
      ∃ t, exec (.sleepWake u) s = .next t ∧ OnlyUnit s t u (if d ≤ s.now then { g with wait := .none } else g)) ∧
    (∀ u g, s.unit? u = some g →
      ∃ t, exec (.pauseEnd u) s = .next t ∧ OnlyUnit s t u (if g.pauseEnd ≤ s.now then { g with pauseEnd := 0 } else g))

/-- R141: `WINB` and `SWINB` set a window base to 8k or by 8k; a base below 0 or beyond the allocation less 8 takes fault 0x06 and is not set. -/
def Sys2Proof.Claims.WindowBases : Prop :=
  ∀ (s : State) (c : Ctx) (m : BitVec 1) (k : BitVec 11),
    (Issues s (.winb m k) c → 0 ≤ window m k c.g.vwb → window m k c.g.vwb ≤ (c.sl.valloc : Int) - 8 →
      ∃ t, Done c t (Effect.only (nextPc c.g.pc)) ∧ exec (.winb m k) s = .next (t.modUnit c.g.uid fun g => { g with vwb := (window m k c.g.vwb).toNat })) ∧
    (Issues s (.winb m k) c → window m k c.g.vwb < 0 ∨ (c.sl.valloc : Int) - 8 < window m k c.g.vwb →
      exec (.winb m k) s = .next (c.fail (.winb m k) 0x06 ((window m k c.g.vwb) % 2 ^ 64).toNat)) ∧
    (Issues s (.swinb m k) c → 0 ≤ window m k c.g.swb → window m k c.g.swb ≤ (c.sl.salloc : Int) - 8 →
      ∃ t, Done c t (Effect.only (nextPc c.g.pc)) ∧ exec (.swinb m k) s = .next (t.modUnit c.g.uid fun g => { g with swb := (window m k c.g.swb).toNat })) ∧
    (Issues s (.swinb m k) c → window m k c.g.swb < 0 ∨ (c.sl.salloc : Int) - 8 < window m k c.g.swb →
      exec (.swinb m k) s = .next (c.fail (.swinb m k) 0x06 ((window m k c.g.swb) % 2 ^ 64).toNat))

/-- R143: `LIVE` records the live set by allocation index; a vector range beyond the window is fault 0x01, a range beyond an allocation 0x06. -/
def Sys2Proof.Claims.LiveDeclaration : Prop :=
  ∀ (s : State) (c : Ctx) (v : BitVec 7) (n k : BitVec 6) (b : BitVec 5), Issues s (.live v n k b) c →
    (112 < v.toNat + n.toNat → exec (.live v n k b) s = .next (c.fail (.live v n k b) 0x01 0)) ∧
    (v.toNat + n.toNat ≤ 112 →
      (0 < n.toNat ∧ c.sl.valloc < c.g.vwb + v.toNat + n.toNat) ∨ (0 < k.toNat ∧ c.sl.salloc < c.g.swb + k.toNat) →
      exec (.live v n k b) s = .next (c.fail (.live v n k b) 0x06 0)) ∧
    (v.toNat + n.toNat ≤ 112 → (0 < n.toNat → c.g.vwb + v.toNat + n.toNat ≤ c.sl.valloc) → (0 < k.toNat → c.g.swb + k.toNat ≤ c.sl.salloc) →
      ∃ t, Done c t (Effect.only (nextPc c.g.pc)) ∧ exec (.live v n k b) s = .next (t.modUnit c.g.uid fun g => { g with
        live := { vbase := g.vwb + v.toNat, vcount := n.toNat, sbase := g.swb, scount := k.toNat, bar := b.toNat, declared := true } }))

/-- R66, R261, R263: `CSRR` writes the value of its control register, 64-bit ones to a pair, and `CYCLE` its count; the listed registers read as R66
says, the write-only ones zero; a number that R66 does not list is fault 0x01. The cores of a die count their ac together (log 13). -/
def Sys2Proof.Claims.CountersAndControlReads : Prop :=
  ∀ (s : State) (c : Ctx) (d : BitVec 7),
    (∀ n : BitVec 11, Issues s (.csrr d n) c → csrListed n.toNat = false → exec (.csrr d n) s = .next (c.fail (.csrr d n) 0x01 0)) ∧
    (∀ n : BitVec 11, Issues s (.csrr d n) c → csrListed n.toNat = true → Completes s (.csrr d n) c
      (if csrWide n.toNat then wide c d.toNat (c.csr n.toNat) else Effect.dst c d.toNat fun _ => BitVec.ofNat 32 (c.csr n.toNat))) ∧
    (∀ e ∈ csrTable c, c.csr e.1 = e.2) ∧
    (Issues s (.cycle d 0#4) c → Completes s (.cycle d 0#4) c (wide c d.toNat s.now)) ∧
    (∀ f, f ≠ 0#4 → Issues s (.cycle d f) c → Completes s (.cycle d f) c
      (wide c d.toNat (s.acMilli.getD (c.g.core / 64) 0 / 1000)))

/-- R66, R67, R261, R279, R335: `CSRW` writes the launch's `TRAPVEC`, `RTIMEOUT` or descriptor, the unit's own trap registers, a heartbeat or a page
request, and nothing else; a read-only register ignores it. A number that R66 does not list is fault 0x01, and a supervisor's register in user mode fault
0x08, last of its checks (R91). -/
def Sys2Proof.Claims.ControlWrites : Prop :=
  ∀ (s : State) (c : Ctx) (a : BitVec 7) (n : BitVec 11) (x : Nat), Issues s (.csrw a n) c →
    x = (if csrWide n.toNat then c.src64 a.toNat c.low else (c.src a.toNat c.low).toNat) →
    (csrListed n.toNat = false → exec (.csrw a n) s = .next (c.fail (.csrw a n) 0x01 0)) ∧
    (csrListed n.toNat = true → (Instr.csrw a n).privileged = true → supervisor s c.g = false → exec (.csrw a n) s = .next (c.fail (.csrw a n) 0x08 0)) ∧
    (n = 0x042#11 → ∀ t, pageRequest s c.g c.low x = .ok t →
      ∃ u, exec (.csrw a n) s = .next u ∧ Done { c with s := t } u (Effect.only (nextPc c.g.pc))) ∧
    (n = 0x042#11 → ∀ e, pageRequest s c.g c.low x = .error e → exec (.csrw a n) s = .next (c.failTarget (.csrw a n) x e)) ∧
    (n ≠ 0x042#11 → csrListed n.toNat = true → ((Instr.csrw a n).privileged = true → supervisor s c.g = true) → ∃ t, Done c t (Effect.only (nextPc c.g.pc)) ∧ exec (.csrw a n) s = .next
      (if n = 0x030#11 then t.modLaunch c.g.launch fun l => { l with trapVec := x }
       else if n = 0x041#11 then t.modLaunch c.g.launch fun l => { l with rTimeout := max 1 (x % 65536) }
       else if n = 0x031#11 then t.modUnit c.g.uid fun g => { g with trapCause := BitVec.ofNat 32 (x % 16777216) }
       else if n = 0x032#11 then t.modUnit c.g.uid fun g => { g with trapAddr := x }
       else if n = 0x033#11 then t.modUnit c.g.uid fun g => { g with trapPc := x }
       else if n = 0x040#11 then setHeart t (launchOf s c.g).node true
       else if 0x050 ≤ n.toNat ∧ n.toNat ≤ 0x05F then writeSpad t c.g.launch (n.toNat - 0x050) (BitVec.ofNat 64 x) else t))

/-- R67, R279, R335: the rows `HBEAT`, `PGREQ`, `SPAD_DESCRIPTOR_WRITE` and `TRAPVEC` are the effects of those writes for the issuing unit: a heartbeat
of a persistent region with an interval sets its deadline; a request for a page of this module records it once; the other two need supervisor mode. -/
def Sys2Proof.Claims.ControlWriteRows : Prop :=
  ∀ (s : State) (c : Ctx), ctx? s = some c →
    (∀ v nd, nd = (launchOf s c.g).node → nd.persistent = true → nd.hbeatInt ≠ 0 → exec (.hbeat v) s = .next { s with
      hearts := { region := nd.regionId, deadline := s.now + 1000 * nd.hbeatInt, last := s.now } :: s.hearts.filter fun h => h.region != nd.regionId }) ∧
    (∀ a t, pageRequest s c.g c.low a.toNat = .ok t → exec (.pgreq a) s = .next t) ∧
    (∀ (a : DWord) p, a.toNat < 2 ^ 56 → translate s c.g.core (rootOf s c.g) (supervisor s c.g) .locate a.toNat = .ok p →
      s.pageReqs.contains (c.g.core, a.toNat / p.size * p.size) = false → ∀ t, pageRequest s c.g c.low a.toNat = .ok t →
      (c.g.core, a.toNat / p.size * p.size) ∈ t.pageReqs) ∧
    (∀ n v, supervisor s c.g = true → exec (.spadDescriptorWrite n v) s = .next (writeSpad s c.g.launch n.toNat v)) ∧
    (∀ b v, supervisor s c.g = true → exec (.trapvec b v) s = .next (s.modLaunch c.g.launch fun l =>
      if b then { l with rTimeout := max 1 (v.toNat % 65536) } else { l with trapVec := v.toNat }))

/-- R188, R264, R336: `TRACEM` only ends its chain when tracing is off; else its marker leaves as a posted operation to the tail of the launch's stream, whose tail
has moved on by one; when the buffer is full the marker is only counted as lost. -/
def Sys2Proof.Claims.TraceMarkers : Prop :=
  ∀ (s : State) (c : Ctx) (a : BitVec 7) (n : BitVec 11), Issues s (.tracem a n) c →
    ((launchOf s c.g).traceBase = 0 ∨ (launchOf s c.g).traceRecs = 0 → Completes s (.tracem a n) c (Effect.only (nextPc c.g.pc))) ∧
    (∀ l t₁ t₂, l = launchOf s c.g → l.traceBase ≠ 0 → l.traceTail < l.traceRecs →
      t₁ = postMarker s c.g (l.traceBase + 32 + 32 * l.traceTail)
        (bytesLE 8 s.now ++ bytesLE 8 c.g.pc ++ bytesLE 4 c.g.region ++ bytesLE 2 (c.g.core % 1024) ++ bytesLE 2 (c.g.grp % 512) ++
          bytesLE 2 c.g.team ++ bytesLE 2 n.toNat ++ bytesLE 4 (c.src a.toNat c.low).toNat) →
      devWrite t₁ l.ptRoot l.traceBase (bytesLE 4 (l.traceTail + 1) ++ bytesLE 4 l.traceLost) = some t₂ →
      ∃ t, exec (.tracem a n) s = .next t ∧
        Done { c with s := t₂.modLaunch c.g.launch fun l' => { l' with traceTail := l.traceTail + 1, traceLost := l.traceLost } } t (Effect.only (nextPc c.g.pc))) ∧
    (∀ l t₂, l = launchOf s c.g → l.traceBase ≠ 0 → l.traceRecs ≠ 0 → l.traceRecs ≤ l.traceTail →
      devWrite s l.ptRoot l.traceBase (bytesLE 4 l.traceTail ++ bytesLE 4 (min (l.traceLost + 1) 4294967295)) = some t₂ →
      ∃ t, exec (.tracem a n) s = .next t ∧
        Done { c with s := t₂.modLaunch c.g.launch fun l' => { l' with traceTail := l.traceTail, traceLost := min (l.traceLost + 1) 4294967295 } } t
          (Effect.only (nextPc c.g.pc))) ∧
    (∀ (x : Nat) (bs : List Byte) (p : Page) (g : Group), c.g = g → lookupPage s g.core (rootOf s g) x = .ok p → p.res = true → p.wr = true → p.dup = false →
      heldTo s g p.device (8 + p.pa x / 2 ^ 36) = [] → p.device = 0 → ∃ q acc, postMarker s g x bs =
        { s with
          nextId := s.nextId + 2
          posted := s.posted ++ [q]
          net := s.net ++ [{ id := s.nextId + 1, cls := .request, src := g.core, dst := 8 + p.pa x / 2 ^ 36, body := .posted s.nextId acc none g.region }] } ∧
        acc = { kind := .store, n := 8, strands := (List.range 4).map fun k =>
          { strand := k, va := x + 8 * k, loc := .dram 0 (p.pa x + 8 * k), data := field bs (8 * k) 8, aux := 0 } } ∧
        q.id = s.nextId ∧ q.owners = [g.uid] ∧ q.held = none)

end Control

namespace Sys2Proof.Claims
open Sys2Proof.Machine

/-- The memory instructions (R178, R184 to R194): kind, size, address and data operands, flag, scopes. -/
def request : Instr → Option MemOp
  | .ldb d a o f => some (loadOp 1 d a o f)
  | .ldh d a o f => some (loadOp 2 d a o f)
  | .ldw d a o f => some (loadOp 4 d a o f)
  | .ldd d a o f => some (loadOp 8 d a o f)
  | .ldba d a s o f => some { loadOp 1 d a o f with acq := s.toNat, acquire := true }
  | .ldha d a s o f => some { loadOp 2 d a o f with acq := s.toNat, acquire := true }
  | .ldwa d a s o f => some { loadOp 4 d a o f with acq := s.toNat, acquire := true }
  | .ldda d a s o f => some { loadOp 8 d a o f with acq := s.toNat, acquire := true }
  | .stb d a o p g => some (storeOp 1 d a o p g)
  | .sth d a o p g => some (storeOp 2 d a o p g)
  | .stw d a o p g => some (storeOp 4 d a o p g)
  | .std d a o p g => some (storeOp 8 d a o p g)
  | .stbl d a s o p g => some { storeOp 1 d a o p g with rel := s.toNat }
  | .sthl d a s o p g => some { storeOp 2 d a o p g with rel := s.toNat }
  | .stwl d a s o p g => some { storeOp 4 d a o p g with rel := s.toNat }
  | .stdl d a s o p g => some { storeOp 8 d a o p g with rel := s.toNat }
  | .stn d a o p g => some { storeOp 4 d a o p g with kind := .stn, aux := fun c k => (c.src (d.toNat + 1) k).toNat % 256 }
  | .stbm d a b p g => some { storeOp 4 d a 0 p g with kind := .stbm, aux := fun c k => (c.src b.toNat k).toNat }
  | .aadd d a b s o p => some (atomicOp 0 d a b s o p)
  | .asub d a b s o p => some (atomicOp 1 d a b s o p)
  | .amins d a b s o p => some (atomicOp 2 d a b s o p)
  | .amaxs d a b s o p => some (atomicOp 3 d a b s o p)
  | .aminu d a b s o p => some (atomicOp 4 d a b s o p)
  | .amaxu d a b s o p => some (atomicOp 5 d a b s o p)
  | .aand d a b s o p => some (atomicOp 6 d a b s o p)
  | .aor d a b s o p => some (atomicOp 7 d a b s o p)
  | .axor d a b s o p => some (atomicOp 8 d a b s o p)
  | .axch d a b s o p => some (atomicOp 9 d a b s o p)
  | .acas d a b s o p => some (atomicOp 10 d a b s o p)
  | .afadd d a b s o p => some (atomicOp 11 d a b s o p)
  | .afmin d a b s o p => some (atomicOp 12 d a b s o p)
  | .afmax d a b s o p => some (atomicOp 13 d a b s o p)
  | .aincw d a b s o p => some (atomicOp 14 d a b s o p)
  | .adecw d a b s o p => some (atomicOp 15 d a b s o p)
  | _ => none

/-- The new value of an atomic from the old one, b and c (R194). -/
def atomicValue (old b c : Word) : Instr → Option Word
  | .aadd .. => some (BitVec.ofNat 32 (old.toNat + b.toNat))
  | .asub .. => some (BitVec.ofInt 32 ((old.toNat : Int) - b.toNat))
  | .amins .. => some (BitVec.ofInt 32 (min old.toInt b.toInt))
  | .amaxs .. => some (BitVec.ofInt 32 (max old.toInt b.toInt))
  | .aminu .. => some (BitVec.ofNat 32 (min old.toNat b.toNat))
  | .amaxu .. => some (BitVec.ofNat 32 (max old.toNat b.toNat))
  | .aand .. => some (maskOf fun j => old.getLsbD j && b.getLsbD j)
  | .aor .. => some (maskOf fun j => old.getLsbD j || b.getLsbD j)
  | .axor .. => some (maskOf fun j => old.getLsbD j != b.getLsbD j)
  | .axch .. => some b
  | .acas .. => some (if old = c then b else old)
  | .afadd .. => some (round32 0 (FVal.add false (Fmt.fp32.value old.toNat) (Fmt.fp32.value b.toNat)))
  | .afmin .. => some (fminmax false old b)
  | .afmax .. => some (fminmax true old b)
  | .aincw .. => some (if b.toNat ≤ old.toNat then 0 else BitVec.ofNat 32 (old.toNat + 1))
  | .adecw .. => some (if old.toNat = 0 ∨ b.toNat < old.toNat then b else BitVec.ofNat 32 (old.toNat - 1))
  | _ => none

/-- A place at which a unit's access is performed on its own core (R17, R182). -/
def near (c : Ctx) : Place → Bool
  | .far _ _ _ => false
  | .spad _ b => b == c.g.core
  | _ => true

/-- The strands' accesses performed on the unit's core: copies, own stack, own banks. -/
def nearAccesses (c : Ctx) (op : MemOp) (ps : List (Nat × Place)) : List StrandAcc :=
  (ps.filterMap fun p => match p.2 with | .copy l => some (c.strandAcc op p.1 l) | _ => none) ++
    (ps.filterMap fun p => match p.2 with | .here l => some (c.strandAcc op p.1 l) | _ => none) ++
    (ps.filterMap fun p => match p.2 with | .spad l _ => some (c.strandAcc op p.1 l) | _ => none)

/-- The strands whose pages are not resident. -/
def absentMask (ps : List (Nat × Place)) : Word := maskOfList ((ps.filter fun p => p.2 == .absent).map (·.1))

/-- The p7 bit of a place: none for a scratchpad (R184). -/
def residency : Place → Option Bool
  | .spad _ _ => none
  | .absent => some false
  | _ => some true

/-- What a load writes to p7: the bit of each strand's own page, in uniform form that of the one strand for every strand of the mask (R64, R184). -/
def p7Of (c : Ctx) (ps : List (Nat × Place)) (j : Nat) : Option Bool :=
  if c.uni then (if inMask c.g.mask j then (ps.head?.map (·.2)).bind residency else none) else (ps.lookup j).bind residency

/-- A load's registers below its absent strands: zero (R184). -/
def absentZeros (c : Ctx) (op : MemOp) (ps : List (Nat × Place)) (pc : Nat) : Effect :=
  { vec := fun k j => if c.uni = false ∧ op.d < 112 ∧ (k = c.g.vwb + op.d ∨ op.n = 8 ∧ k = c.g.vwb + op.d + 1) ∧ (j, Place.absent) ∈ ps then some 0 else none
    scal := fun k => if c.uni = true ∧ op.d < 112 ∧ (k = c.g.swb + op.d ∨ op.n = 8 ∧ k = c.g.swb + op.d + 1) ∧ ps.any (·.2 == .absent) = true then some 0 else none
    twin := fun k j => if 120 ≤ op.d ∧ op.d < 128 ∧ (k = op.d - 120 ∨ op.n = 8 ∧ k = op.d - 119) ∧
        (if c.uni then inMask c.g.mask j = true ∧ ps.any (·.2 == .absent) = true else (j, Place.absent) ∈ ps) then some 0 else none
    pred := fun k j => if k = 7 then p7Of c ps j else none
    pc }

/-- What lets a memory instruction proceed: no visit outstanding, a strand active, every strand placed, no page's marker outstanding, no
window overrun for its acquire, its release conditions met (R183, R205, R284, R311). -/
structure Proceeds (c : Ctx) (op : MemOp) (ps : List (Nat × Place)) : Prop where
  visits : c.g.visits = []
  active : c.memActive op ≠ []
  placed : c.places op (c.memActive op) = .ok ps
  marker : ∀ p ∈ ps, ∀ d pa, (p.2 = .here (.dram d pa) ∨ (∃ h, p.2 = .far 0 h (.dram d pa))) → markerHeld c.s c.g.core pa = false
  overrun : overrunHit c.s c.g op.acq = false
  service : c.s.service = 1 → ∀ p ∈ ps, ∀ d h l, p.2 = .far d h l → d = 0
  release : op.rel = 0 ∨ releaseNow c.s c.g op.rel false = .go

/-- The state that has noted the pages of an access in its buffers (R280): only the buffers differ. -/
def Noted (s t : State) : Prop := ∃ l, t = { s with tlb := l }

/-- A strand's place: where the memory that it touches lies, before and after. -/
def outsidePlace (s : State) (x : StrandAcc) (n : Nat) (t : State) : Prop :=
  (∀ a, (∀ d pa, x.loc = .dram d pa → a < fwdPa s pa ∨ fwdPa s pa + n ≤ a) → Memory.read t.dram a = Memory.read s.dram a) ∧
  (∀ a, (∀ key, x.loc = .spad key → a < key ∨ key + n ≤ a) → Memory.read t.spad a = Memory.read s.spad a) ∧
  { t with dram := s.dram, spad := s.spad, dramPoison := s.dramPoison, spadPoison := s.spadPoison } = s

end Sys2Proof.Claims

section Memory
open Sys2Proof Sys2Proof.Machine Sys2Proof.Claims

/-- R182, R184, R187, R193: an inline load, a store or an atomic whose strands are all performed on this core, in whatever form: its access is
performed whole, its unit waits for the completion with the values read, p7 takes the bits of the resident strands, and nothing else changes. -/
def Sys2Proof.Claims.StrandsPerformedHere : Prop :=
  ∀ (s : State) (c : Ctx) (i : Instr) (op : MemOp) (ps : List (Nat × Place)) (acc : Access) (vals : List (Nat × Nat)) (v : State),
    request i = some op → Issues s i c → Proceeds c op ps →
    op.flag = 12 → (∀ p ∈ ps, near c p.2 = true) → (∃ p ∈ ps, p.2 ≠ .absent) → (op.posted = true → ∀ p ∈ ps, ∃ l b, p.2 = .spad l b) →
    acc = op.access (nearAccesses c op ps) → c.mustHold acc true = false → performFor c.s c.g.region acc = .ok (vals, v) →
    ∃ t u, Noted v u ∧
      Done { c with s := u } t { Effect.only c.g.pc with
        pred := fun k j => if k = 7 ∧ op.kind = .load ∧ p7Of c ps j = some true then some true else none } ∧
      exec i s = .next (t.modUnit c.g.uid fun g => { g with
        wait := .inlineAccess (if op.kind.returns then [{ dest := c.dest op.d (op.n == 8), vals := vals }] else []) 0 true 12
        visits := []
        lateAbsent := absentMask ps })

/-- R188, R270, R273, R293, R311, R345: an access is performed whole or not at all: an acquire at system scope meets its region's overrun mark first, poisoned data
that it does not write whole is error 0x19 of the first such strand; else every strand is performed, and what its store wrote whole has lost its poison. -/
def Sys2Proof.Claims.AccessesArePerformedWhole : Prop :=
  ∀ (s : State) (region : Nat) (a : Access), a.known = true →
    (a.acq = 4 → (s.overruns.any fun m => m.1 == region) = true → performFor s region a = .error (0x1C, (a.strands.head?.map (·.va)).getD 0)) ∧
    (a.acq ≠ 4 ∨ (s.overruns.any fun m => m.1 == region) = false → atomicWithdrawn s a = none →
      (∀ l x r, a.strands = l ++ x :: r → (∀ y ∈ l, strandBad s a y = false) → strandBad s a x = true → performFor s region a = .error (0x19, x.va)) ∧
      ((∀ x ∈ a.strands, strandBad s a x = false) → ∃ t, performFor s region a = .ok ((performStrands s a.kind a.n a.strands).1, t) ∧
        { t with dramPoison := s.dramPoison, spadPoison := s.spadPoison } = (performStrands s a.kind a.n a.strands).2 ∧
        (∀ g, g ∈ t.dramPoison ↔ g ∈ s.dramPoison ∧ g ∉ a.whole s true) ∧ (∀ g, g ∈ t.spadPoison ↔ g ∈ s.spadPoison ∧ g ∉ a.whole s false)))

/-- R184, R185: a flagged load whose strands are all served here sets its flag and goes on, p7 taking the bits of its strands, the parts in bank units of other cores on
their way; a load of which every strand is absent completes at once, its registers zero and p7 = 0, and no load moves for such strands. R186: the flag of an
acquire load holds back what follows. -/
def Sys2Proof.Claims.FlaggedAndAbsentLoads : Prop :=
  ∀ (s : State) (c : Ctx) (i : Instr) (op : MemOp) (ps : List (Nat × Place)), request i = some op → op.kind = .load → Issues s i c →
    Proceeds c op ps →
    (op.flag < 12 → (∀ p ∈ ps, ∀ d h l, p.2 ≠ .far d h l) → ∀ (banks : List (Nat × StrandAcc)) (acc : Access) (f : FLoad),
      banks = (ps.filterMap fun p => match p.2 with | .spad l b => some (b, c.strandAcc op p.1 l) | _ => none) →
      acc = op.access ((ps.filterMap fun p => match p.2 with | .copy l => some (c.strandAcc op p.1 l) | _ => none) ++
        (ps.filterMap fun p => match p.2 with | .here l => some (c.strandAcc op p.1 l) | _ => none) ++ c.ownBank banks) →
      f = { id := c.s.nextId, gid := c.g.gid, core := c.g.core, flag := op.flag, mask := c.g.mask, acc := acc, dest := c.dest op.d (op.n == 8),
            left := (c.otherBanks op banks).length, got := [], err := none, absent := absentMask ps, spad := !banks.isEmpty } →
      c.hereHeld acc (c.otherBanks op banks) = false →
      ∃ t u g, Noted c.s u ∧ Done { c with s := u } t { Effect.only (nextPc c.g.pc) with pred := fun k j => if k = 7 then p7Of c ps j else none } ∧
        t.unit? c.g.uid = some g ∧
        exec i s = .next ((c.otherBanks op banks).foldl (fun x b => x.send .request c.g.core (dieOf b.1) (.spadLoad c.s.nextId b.1 b.2))
          { t.putUnit { g with
              flags := setAt { set := false, pending := none } g.flags op.flag fun _ => { set := true, pending := none }
              acqFlags := if op.acquire then op.flag :: g.acqFlags.filter (· != op.flag) else g.acqFlags.filter (· != op.flag) } with
            nextId := c.s.nextId + 1
            floads := c.s.floads ++ [f] })) ∧
    (op.flag = 12 → (∀ p ∈ ps, p.2 = .absent) →
      ∃ t u, Noted c.s u ∧ exec i s = .next t ∧ Done { c with s := u } t (absentZeros c op ps (nextPc c.g.pc)))

/-- R31, R187: a guarded store with no active strand only ends its chain. -/
def Sys2Proof.Claims.GuardedStoreOfNoStrand : Prop :=
  ∀ (s : State) (c : Ctx) (i : Instr) (op : MemOp), request i = some op → Issues s i c → c.g.visits = [] →
    (if c.uni then inMask (c.pred op.guard) c.low = false else c.g.mask &&& c.pred op.guard = 0) →
    Completes s i c (Effect.only (nextPc c.g.pc))

/-- R194: the new value of every atomic; what it returns is the old one; no other byte changes. -/
def Sys2Proof.Claims.AtomicOperations : Prop :=
  ∀ (s : State) (i : Instr) (op : MemOp) (x : StrandAcc) (old v : Word), s.Inv → request i = some op →
    atomicValue old (BitVec.ofNat 32 x.data) (BitVec.ofNat 32 x.aux) i = some v → locRead s x.loc 4 = old.toNat →
    (performOne s op.kind op.n x).1 = old.toNat ∧ locRead (performOne s op.kind op.n x).2 x.loc 4 = v.toNat ∧
      outsidePlace s x 4 (performOne s op.kind op.n x).2

/-- R187, R190, R191: a store leaves its data, `STN` the enabled nibbles of its data, `STBM` the enabled bits, at its place; every other bit and byte
of memory is as before; a load reads and writes nothing. -/
def Sys2Proof.Claims.StoresWriteTheirBytes : Prop :=
  ∀ (s : State) (n : Nat) (x : StrandAcc), s.Inv → 0 < n → n ≤ 8 →
    performOne s .load n x = (locRead s x.loc n, s) ∧
    (locRead (performOne s .store n x).2 x.loc n = x.data % 256 ^ n ∧ outsidePlace s x n (performOne s .store n x).2) ∧
    ((∀ j, j < 32 → (locRead (performOne s .stn 4 x).2 x.loc 4).testBit j =
        if x.aux.testBit (j / 4) then x.data.testBit j else (locRead s x.loc 4).testBit j) ∧ outsidePlace s x 4 (performOne s .stn 4 x).2) ∧
    (x.aux < 4294967296 → (∀ j, j < 32 → (locRead (performOne s .stbm 4 x).2 x.loc 4).testBit j =
        if x.aux.testBit j then x.data.testBit j else (locRead s x.loc 4).testBit j) ∧ outsidePlace s x 4 (performOne s .stbm 4 x).2)

/-- R192: the strands of an access are performed in ascending order, each seeing what the lower ones left; a byte that no strand's place covers is as before. -/
def Sys2Proof.Claims.StrandsInOrder : Prop :=
  ∀ (s : State) (k : AKind) (n : Nat) (xs : List StrandAcc) (x : StrandAcc),
    performStrands s k n (xs ++ [x]) =
      ((performStrands s k n xs).1 ++ [(x.strand, (performOne (performStrands s k n xs).2 k n x).1)],
       (performOne (performStrands s k n xs).2 k n x).2) ∧
    (∀ a, (∀ y ∈ xs, ∀ d pa, y.loc = .dram d pa → a < fwdPa s pa ∨ fwdPa s pa + n ≤ a) →
      Memory.read (performStrands s k n xs).2.dram a = Memory.read s.dram a)

/-- R183: the first check that a strand fails, in the order of the rule; with R213, a body's strands meet 0x23 for the windows that are closed to it. -/
def Sys2Proof.Claims.StrandChecks : Prop :=
  ∀ (c : Ctx) (op : MemOp) (k a top : Nat), a = c.addr op.a op.off k → top = a / 2 ^ 56 →
    (0 < top → top < 0xFB → c.place op k = .error (0x15, a, none)) ∧
    (top = 0xFB → c.place op k = .error (0x32, a, none)) ∧
    (0xFB < top → c.g.visitor ≠ none → c.place op k = .error (0x23, a, none)) ∧
    (top = 0xFC → c.g.visitor = none → privateConv (launchOf c.s c.g) c.g k op.n a = none → c.place op k = .error (0x15, a, none)) ∧
    (top = 0 ∨ (c.g.visitor = none ∧ (0xFC < top ∨ (top = 0xFC ∧ privateConv (launchOf c.s c.g) c.g k op.n a ≠ none))) → a % op.n ≠ 0 →
      c.place op k = .error (0x16, a, none)) ∧
    (0xFC < top → c.g.visitor = none → a % op.n = 0 → spadOk c.s (launchOf c.s c.g) c.g.core (0xFF - top) (a % 2 ^ 56) op.n = false →
      c.place op k = .error (0x17, a, none)) ∧
    (top = 0 → a % op.n = 0 → ∀ e, translate c.s c.g.core (rootOf c.s c.g) (supervisor c.s c.g) op.kind.tkind a = .error e →
      c.place op k = .error (e.1, a, e.2)) ∧
    (top = 0 → a % op.n = 0 → op.kind ≠ .load → ∀ p, translate c.s c.g.core (rootOf c.s c.g) (supervisor c.s c.g) op.kind.tkind a = .ok p →
      (p.dup = true → c.place op k = .error (0x1A, a, none)) ∧ (p.dup = false → p.res = false → c.place op k = .error (0x1D, a, none)))

/-- R183: the lowest strand that fails a check decides: its fault is precise, no strand's access is performed, nothing moves, no flag is set and p7 is not
written: the instruction takes the fault and does nothing else. -/
def Sys2Proof.Claims.MemoryFaultsArePrecise : Prop :=
  ∀ (s : State) (c : Ctx) (i : Instr) (op : MemOp) (l r : List Nat) (k code a : Nat) (w : Option WalkErr), request i = some op → Issues s i c →
    c.g.visits = [] → c.memActive op = l ++ k :: r → (∀ j ∈ l, ∃ p, c.place op j = .ok p) → c.place op k = .error (code, a, w) →
    exec i s = .next ((match w with | some e => { c with s := walkRecord c.s c.g code a e } | none => c).fail i code a)

/-- R188, R189, R299: posted strands leave as one operation a home, on the request path of their core, and the unit goes on; a posted release whose
conditions do not hold yet is held on the core with what it waits for. -/
def Sys2Proof.Claims.PostedOperationsLeave : Prop :=
  ∀ (s : State) (c : Ctx) (i : Instr) (op : MemOp) (ps : List (Nat × Place)) (homes : List (Nat × Nat × Nat × Loc)) (accs : List Access),
    request i = some op → Issues s i c → op.posted = true → c.g.postErrs = [] → overrunHit c.s c.g op.acq = false →
    c.g.visits = [] → c.memActive op ≠ [] → c.places op (c.memActive op) = .ok ps →
    (∀ p ∈ ps, ∀ d pa, (p.2 = .here (.dram d pa) ∨ (∃ h, p.2 = .far 0 h (.dram d pa))) → markerHeld c.s c.g.core pa = false) →
    (c.s.service = 1 → ∀ p ∈ ps, ∀ d h l, p.2 = .far d h l → d = 0) → (∀ p ∈ ps, ∀ l b, p.2 ≠ .spad l b) →
    homes = (ps.filterMap fun p => match p.2 with
      | .here l => some (p.1, 0, stackOf c.g.core, l)
      | .far d h l => some (p.1, d, h, l)
      | _ => none) →
    accs = ((byHome homes).map fun h => { kind := op.kind, n := op.n, acq := op.acq
                                          strands := (homes.filter fun p => (p.2.1, p.2.2.1) == h).map fun p => c.strandAcc op p.1 p.2.2.2 }) →
    (∀ a ∈ accs, c.mustHold a false = false) →
    ∃ t u, Noted c.s u ∧ Done { c with s := u } t (Effect.only (nextPc c.g.pc)) ∧
      (op.rel = 0 ∨ releaseNow c.s c.g op.rel false = .go → exec i s = .next (accs.foldl (fun x a => postTo x c.g a) t)) ∧
      (op.rel ≠ 0 → releaseNow c.s c.g op.rel false ≠ .go →
        exec i s = .next (accs.foldl (fun x a => holdPosted x c.g a.home.1 a.home.2 op.rel a (earlierWork c.s c.g)) t))

/-- R188, R189, R299: what sending and holding an operation do to the module: one record, and for a home of this module one message to its die; an operation follows
those of its thread that are held for the same die. -/
def Sys2Proof.Claims.PostedRecords : Prop :=
  ∀ (s : State) (g : Group) (a : Access) (dev stack scope : Nat) (after : List Nat) (p : Posted), a.home = (dev, stack) →
    p = { id := s.nextId, core := g.core, slot := g.slot, gid := g.gid, owners := [g.uid], launch := g.launch, dev := dev, die := 8 + stack,
          addr := (a.strands.head?.map (·.va)).getD 0, sentAt := s.now, window := none, held := none, after := [], behind := [] } →
    (dev = 0 → heldTo s g 0 (8 + stack) = [] → postTo s g a = { s with
      nextId := s.nextId + 2
      posted := s.posted ++ [p]
      net := s.net ++ [{ id := s.nextId + 1, cls := .request, src := g.core, dst := 8 + stack, body := .posted s.nextId a none g.region }] }) ∧
    (heldTo s g dev (8 + stack) ≠ [] → postTo s g a = holdPosted s g dev stack 0 a []) ∧
    holdPosted s g dev stack scope a after = { s with
      nextId := s.nextId + 1
      posted := s.posted ++ [{ p with
        window := (s.unit? g.uid).bind (·.lastWindow), held := some (a, scope), after := after, behind := heldTo s g dev (8 + stack) }] }

end Memory

namespace Sys2Proof.Claims
open Sys2Proof.Machine

/-- A register file after values by strand have gone to register k, their high words to the next one (R3, R185). -/
def loaded (mask : Word) (vals : List (Nat × Nat)) (k : Nat) (pair : Bool) (old : Nat → Nat → Word) (m j : Nat) : Word :=
  match vals.lookup j with
  | none => old m j
  | some x => if inMask mask j = false then old m j else if m = k then BitVec.ofNat 32 x
      else if pair = true ∧ m = k + 1 then BitVec.ofNat 32 (x / 4294967296) else old m j

/-- Global strands of an access by strand, module, stack and place (R17). -/
def globalHomes (c : Ctx) (ps : List (Nat × Place)) : List (Nat × Nat × Nat × Loc) :=
  ps.filterMap fun p => match p.2 with
    | .here l => some (p.1, 0, stackOf c.g.core, l)
    | .far d h l => some (p.1, d, h, l)
    | _ => none

/-- The accesses of an instruction by home, in the order of their lowest strands (R49). -/
def visitsOf (c : Ctx) (op : MemOp) (ps : List (Nat × Place)) : List Access :=
  (byHome (globalHomes c ps)).map fun h =>
    { kind := op.kind, n := op.n, acq := op.acq, strands := ((globalHomes c ps).filter fun p => (p.2.1, p.2.2.1) == h).map fun p => c.strandAcc op p.1 p.2.2.2 }

/-- A home is the stack of the core on which the unit stands (R17). -/
def ownHome (c : Ctx) (dev stack : Nat) : Prop := dev = 0 ∧ isStackCore c.g.core = true ∧ stackOf c.g.core = stack

/-- What a migration without an access does, to a core of this module (R198). -/
def MigratesTo (s : State) (c : Ctx) (i : Instr) (target : Nat) : Prop :=
  (target = c.g.core → Completes s i c (Effect.only (nextPc c.g.pc))) ∧
  (target ≠ c.g.core → coreUp c.s target = false → exec i s = .next (c.fail i 0x18 target)) ∧
  (target ≠ c.g.core → coreUp c.s target = true →
    (∀ w, leaveWait c.s c.g 0 (dieOf target) target = some w → exec i s = .next (hold w)) ∧
    (leaveWait c.s c.g 0 (dieOf target) target = none → ∃ t g, Done c t (Effect.only (nextPc c.g.pc)) ∧ t.unit? c.g.uid = some g ∧
      exec i s = .next (depart t g { dev := 0, target := target })))

/-- The word that `HOME` writes for a strand's address; none for fault 0x15 (R200). -/
def homeWordOf (c : Ctx) (k x : Nat) : Option Word :=
  match c.named k x with
  | .bad => none
  | .scratch | .lattice => some 0x4000000#32
  | .global a => match lookupPage c.s c.g.core (rootOf c.s c.g) a with
    | .error _ => some 0x2000000#32
    | .ok p => some (BitVec.ofNat 32 (a / 256 % 64 + 64 * p.home + 1024 * p.device +
        4194304 * bitNat (p.device == 0 && isStackCore c.g.core && stackOf c.g.core == p.home) + 8388608 * bitNat p.dup + 16777216 * bitNat p.res))

end Sys2Proof.Claims

section Motion
open Sys2Proof Sys2Proof.Machine Sys2Proof.Claims

/-- R185: the completion of an inline access writes its destinations on the strands that it served and ends the instruction; it writes no other
register, unit, or byte of memory; while messages to bank units are out it changes nothing. -/
def Sys2Proof.Claims.InlineAccessEnds : Prop :=
  ∀ (s : State) (u left flag : Nat) (g : Group) (got : List Results), s.unit? u = some g → g.wait = .inlineAccess got left true flag →
    g.homeFault = none → g.lateAbsent = 0 →
    (left ≠ 0 → exec (.inlineAccessCompletion u) s = .next s) ∧
    (left = 0 → ∃ t h, exec (.inlineAccessCompletion u) s = .next t ∧ t.unit? u = some h ∧ h.wait = .none ∧ h.pc = nextPc g.pc ∧
      { h with wait := g.wait, pc := g.pc, bundle := g.bundle, pend := g.pend, carried := g.carried } = g ∧
      (t.units.filter fun x => x.uid != u) = (s.units.filter fun x => x.uid != u) ∧ { t with units := s.units, slots := s.slots, twins := s.twins } = s ∧
      (t.slots.filter fun x => !(x.core == g.core && x.slot == g.slot)) = (s.slots.filter fun x => !(x.core == g.core && x.slot == g.slot)) ∧
      ∀ sl, g.loc = .resident → s.slot? g.core g.slot = some sl → ∃ sl', t.slot? g.core g.slot = some sl' ∧
        (got = [] → sl' = sl) ∧
        (∀ k p vals, got = [{ dest := { reg := some (.vec k), pair := p, uni := false }, vals := vals }] →
          ∀ m j, j < 32 → sl'.vec m j = loaded g.mask vals k p sl.vec m j) ∧
        (∀ k p j x, j < 32 → got = [{ dest := { reg := some (.scal k), pair := p, uni := true }, vals := [(j, x)] }] →
          ∀ m, sl'.scal m = if m = k then BitVec.ofNat 32 x else if p = true ∧ m = k + 1 then BitVec.ofNat 32 (x / 4294967296) else sl.scal m))

/-- R195, R267: a part of an access that reaches its bank unit is performed there and answers the waiting unit or the flagged load it is of; an error in it is left to
the unit's instruction, or the load's flag, and nothing is performed; over a failed link it is error 0x18. -/
def Sys2Proof.Claims.ShippedScratchpadAccess : Prop :=
  ∀ (s : State) (m : Nat) (msg : Msg) (acc : Access), s.ready? m = some msg →
    (∀ uid b left fl dest g got adv, msg.body = .spad uid b acc dest → s.unit? uid = some g → g.wait = .inlineAccess got left adv fl →
      (routeUp s msg.src msg.dst = true → ∀ vals v, performFor s g.region acc = .ok (vals, v) →
        ∃ t, exec (.shippedScratchpadAccess m) s = .next t ∧ t.spad = v.spad ∧ t.net = (s.net.filter fun x => x.id != m) ∧
          t.unit? uid = some { g with wait := .inlineAccess (got ++ (if acc.kind.returns then [{ dest := dest, vals := vals }] else [])) (left - 1) adv fl }) ∧
      (∀ code va, (routeUp s msg.src msg.dst = true ∧ performFor s g.region acc = .error (code, va)) ∨
          (routeUp s msg.src msg.dst = false ∧ code = 0x18 ∧ va = (acc.strands.head?.map (·.va)).getD 0) → g.homeFault = none →
        ∃ t, exec (.shippedScratchpadAccess m) s = .next t ∧ t.spad = s.spad ∧ t.dram = s.dram ∧
          t.unit? uid = some { g with
            wait := .inlineAccess got (left - 1) adv fl
            homeFault := some { code, addr := va, flag := none, home := none, deferred := false } })) ∧
    (∀ l b f vals v, msg.body = .spadLoad l b acc → (s.floads.find? fun x => x.id == l) = some f → routeUp s msg.src msg.dst = true →
      performFor s (regionOf s f.gid) acc = .ok (vals, v) → ∃ t, exec (.shippedScratchpadAccess m) s = .next t ∧ t.spad = v.spad ∧ t.units = s.units ∧
        (t.floads.find? fun x => x.id == l) = some { f with left := f.left - 1, got := f.got ++ vals })

/-- R185: the data of a flagged load go to its destination, zero to its strands without a page, and its flag clears, without ending or moving anything; until the bank
units have answered it does nothing; an error sets fault pending with its code and writes no register of a strand that has a page. -/
def Sys2Proof.Claims.FlaggedLoadEnds : Prop :=
  ∀ (s : State) (l : Nat) (f : FLoad) (g : Group) (sl : Slot), (s.floads.find? fun x => x.id == l) = some f →
    (f.left ≠ 0 → exec (.flaggedLoadCompletion l) s = .next s) ∧
    (f.left = 0 → f.acc.kind = .load → owedUnit s f.gid f.mask = some g → s.unit? g.uid = some g → g.loc = .resident → g.core = f.core → f.flag < 12 →
      s.slot? g.core g.slot = some sl →
      ∃ t h, exec (.flaggedLoadCompletion l) s = .next t ∧ t.floads = (s.floads.filter fun x => x.id != l) ∧ t.dram = s.dram ∧ t.spad = s.spad ∧
        t.unit? g.uid = some h ∧ h.pc = g.pc ∧ h.mask = g.mask ∧ h.wait = g.wait ∧
        (∀ vals v, f.err = none → performFor s (regionOf s f.gid) f.acc = .ok (vals, v) →
          h.flag f.flag = { set := false, pending := none } ∧ f.flag ∉ h.acqFlags ∧
          ∃ sl', t.slot? g.core g.slot = some sl' ∧
            (∀ k p, f.dest = { reg := some (.vec k), pair := p, uni := false } → ∀ m j, j < 32 →
              sl'.vec m j = loaded g.mask (f.got ++ vals ++ (strands f.absent).map fun q => (q, 0)) k p sl.vec m j)) ∧
        (∀ code va, f.err = some (code, va) ∨ (f.err = none ∧ performFor s (regionOf s f.gid) f.acc = .error (code, va)) →
          h.flag f.flag = { set := false, pending := some (flagFault code va none) } ∧ (f.absent = 0 → t.slots = s.slots)))

/-- R46, R65, R323: a completion that has followed its unit clears the flag there, with the fault it carries; one for a swapped-out unit is held, one for a
group that is gone is discarded; an asynchronous cause that has followed its unit waits there to be delivered. -/
def Sys2Proof.Claims.ForwardedCompletions : Prop :=
  ∀ (s : State) (m gid flag : Nat) (mask : Word) (res : List Results) (fault : Option FlagFault) (msg : Msg),
    s.msg? m = some msg →
    (∀ g code addr, msg.body = .cause gid flag mask code addr → owedUnit s gid mask = some g → s.unit? g.uid = some g → g.loc ≠ .away →
      ∃ t, exec (.forwardedCompletion m) s = .next t ∧ t.msg? m = none ∧ t.unit? g.uid = some { g with causes := g.causes ++ [(flag, code, addr)] }) ∧
    (msg.body = .completion gid flag mask res fault → owedUnit s gid mask = none → exec (.forwardedCompletion m) s = .next (s.dropMsg m)) ∧
    (∀ g, msg.body = .completion gid flag mask res fault → owedUnit s gid mask = some g →
      (g.loc = .swapped → exec (.forwardedCompletion m) s = .next s) ∧
      (s.unit? g.uid = some g → g.loc ≠ .swapped → g.loc ≠ .away → flag < 12 → ∃ t h, exec (.forwardedCompletion m) s = .next t ∧
        t.msg? m = none ∧ t.unit? g.uid = some h ∧ h.flag flag = { set := false, pending := fault } ∧ h.pc = g.pc ∧ t.dram = s.dram))

/-- R188: a posted operation is performed at its home in the order of its path and acknowledged; its acknowledgement ends it, or leaves its error pending
with the unit that issued it, in the order in which the errors came; without one it counts as failed with 0x18 after 1,000,000 rc. -/
def Sys2Proof.Claims.PostedOperationsArrive : Prop :=
  ∀ (s : State) (m : Nat) (msg : Msg),
    (∀ id acc region, s.ready? m = some msg → msg.body = .posted id acc none region → msg.src < 1024 →
      stackUp s ((acc.places.head?).getD 0 / 2 ^ 36) = true → routeUp s msg.src msg.dst = true →
      s.dies.getD (8 + (acc.places.head?).getD 0 / 2 ^ 36) 0 ≠ 1 → s.pageMoves = [] → ∀ vals v, performAll s acc = .ok (vals, v) →
      ∃ t, exec (.postedOpArrival m) s = .next t ∧ t.dram = v.dram ∧ t.units = s.units ∧
        t.net = (s.net.filter fun x => x.id != m) ++
          [{ id := s.nextId, cls := .reply, src := 1024 + msg.dst, dst := dieOf msg.src, body := .ack id none }]) ∧
    (∀ id p, s.msg? m = some msg → msg.body = .ack id none → routeUp s msg.src msg.dst = true → (s.posted.find? fun q => q.id == id) = some p →
      exec (.postedAck m) s = .next { s with
        net := s.net.filter fun x => x.id != m
        posted := s.posted.filter fun q => q.id != id }) ∧
    (∀ id code p g, s.msg? m = some msg → msg.body = .ack id (some code) → routeUp s msg.src msg.dst = true →
      (s.posted.find? fun q => q.id == id) = some p → p.dev = 0 → (s.units.filter fun u => p.owners.contains u.uid && u.loc != .swapped && u.haltPosted == 0) = [g] →
      (∀ q ∈ s.posted, q.held ≠ none → p.id ∉ q.after) →
      ∃ t, exec (.postedAck m) s = .next t ∧ t.posted = (s.posted.filter fun q => q.id != id) ∧
        t.unit? g.uid = some { g with postErrs := g.postErrs ++ [(s.nextId, code, p.addr)] }) ∧
    (∀ id p, (s.posted.find? fun q => q.id == id) = some p →
      (p.held ≠ none ∨ s.now < p.sentAt + 1000000 → exec (.postedAckTimeout id) s = .next s) ∧
      (p.held = none → p.sentAt + 1000000 ≤ s.now → ∃ t, exec (.postedAckTimeout id) s = .next t ∧
        (∀ q ∈ t.posted, q.id ≠ id) ∧
        ∀ g, (s.units.filter fun u => p.owners.contains u.uid && u.loc != .swapped && u.haltPosted == 0) = [g] →
          (∀ q ∈ s.posted, q.held ≠ none → p.id ∉ q.after) → ∃ n, t.unit? g.uid = some { g with postErrs := g.postErrs ++ [(n, 0x18, p.addr)] }))

/-- R189, R299: a held release is sent once what it waits for has been performed and what is held before it has been sent, and not before; R311: a mark for a region that has missed a window is kept;
R310: the window wait of a release ends when `PTIME` passes its window. -/
def Sys2Proof.Claims.ReleasesSentAndWindowsPassed : Prop :=
  ∀ (s : State),
    (∀ id p acc scope, (s.posted.find? fun q => q.id == id) = some p → p.held = some (acc, scope) →
      ((∃ q ∈ s.posted, q.id ∈ p.after ∨ (q.id ∈ p.behind ∧ q.held ≠ none)) ∨ (∃ f ∈ s.floads, f.id ∈ p.after) ∨
          (scope = 4 ∧ ∃ n, p.window = some n ∧ s.ptime < (n + 2) * s.window * 1000) →
        exec (.heldReleaseSend id) s = .next s) ∧
      ((∀ q ∈ s.posted, q.id ∉ p.after ∧ (q.id ∈ p.behind → q.held = none)) → (∀ f ∈ s.floads, f.id ∉ p.after) →
        (scope = 4 → ∀ n, p.window = some n → (n + 2) * s.window * 1000 ≤ s.ptime) → p.dev = 0 →
        ∃ t r, exec (.heldReleaseSend id) s = .next t ∧ (∀ q ∈ t.posted, q.id = id → q.held = none ∧ q.sentAt = s.now) ∧ t.units = s.units ∧
          t.net = s.net ++ [{ id := s.nextId, cls := .request, src := p.core, dst := p.die, body := .posted id acc none r }])) ∧
    (∀ r m n a, (s.net.findSome? fun x => match x.body with | .overrun q n a => if q = r then some (x, n, a) else none | _ => none) = some (m, n, a) →
      ∃ t, exec (.windowOverrunMark r) s = .next t ∧
      (∀ x, x ∈ t.overruns ↔ x ∈ s.overruns ∨ (x = (r, n, a) ∧ ∀ y ∈ s.overruns, y.1 ≠ r)) ∧ t.net = (s.net.filter fun x => x.id != m.id) ∧ t.units = s.units) ∧
    (∀ u g d, s.unit? u = some g → g.wait = .window d →
      ∃ t, exec (.systemReleaseWindowPassed u) s = .next t ∧ OnlyUnit s t u (if d ≤ s.ptime then { g with wait := .none } else g))

/-- R45, R46, R49, R63: an access at one other home, or at several with rejoin barrier 0 or on other modules, moves the whole unit to the home of its lowest
strand, with the accesses still to visit; nothing is performed before it leaves, and what it leaves for waits as R46 says. A destination in the
twin window faults 0x43 first. -/
def Sys2Proof.Claims.AccessElsewhereMigrates : Prop :=
  ∀ (s : State) (c : Ctx) (i : Instr) (op : MemOp) (ps : List (Nat × Place)) (a : Access) (rest : List Access), request i = some op →
    Issues s i c → Proceeds c op ps → op.posted = false → (∀ p ∈ ps, p.2 = .absent ∨ (∃ l, p.2 = .here l) ∨ ∃ d h l, p.2 = .far d h l) →
    (∃ p ∈ globalHomes c ps, ¬ownHome c p.2.1 p.2.2.1) →
    (120 ≤ op.d → op.d < 128 → op.kind.returns = true → exec i s = .next (c.fail i 0x43 0)) ∧
    ((op.d < 120 ∨ 128 ≤ op.d ∨ op.kind.returns = false) → visitsOf c op ps = a :: rest → ¬ownHome c a.home.1 a.home.2 →
      (rest = [] ∨ c.g.live.bar = 0 ∨ ∃ v ∈ a :: rest, v.home.1 ≠ 0) →
      c.mustHold a false = false →
      (a.home.1 ≠ 0 → peerReach c.s (dieOf c.g.core) a.home.1 = false → ∃ u, Noted c.s u ∧
        exec i s = .next (Ctx.fail { c with s := u } i 0x18 ((a.strands.head?.map (·.va)).getD 0))) ∧
      ((a.home.1 ≠ 0 → peerReach c.s (dieOf c.g.core) a.home.1 = true) → leaveWait c.s c.g a.home.1 (8 + a.home.2) a.target = none →
        ∃ t u g, Noted c.s u ∧ Done { c with s := u } t (Effect.only c.g.pc) ∧ t.unit? c.g.uid = some g ∧
          exec i s = .next (depart t { op.mark g with visits := rest, lateAbsent := absentMask ps }
            { dev := a.home.1, target := a.target, acc := some a, dest := c.dest op.d (op.n == 8), flag := op.flag,
              block := destRegs c.g c.uni (destBlock c.uni i) })))

/-- R46: a unit that leaves for a core of this module becomes an ingot with its carried registers, numbered by its core; its slot is free, and the
ingot stands at the end of the path to its die. -/
def Sys2Proof.Claims.DepartureFormsAnIngot : Prop :=
  ∀ (s : State) (g : Group) (d : Leaving) (sl : Slot), d.dev = 0 → s.unit? g.uid ≠ none → s.slot? g.core g.slot = some sl → sl.records = [] →
    (∀ h ∈ s.units, h.loc = .resident → h.core = g.core → h.slot = g.slot → h.uid = g.uid) →
    ∃ u n, (depart s g d).unit? g.uid = some u ∧ u.loc = .inFlight ∧ u.core = d.target ∧ u.seq = (s.coreState g.core).ingotSeq ∧
      u.carried = some (carry g sl d.block.1 d.block.2) ∧ u.mask = g.mask ∧ u.pc = g.pc ∧ u.preds = g.preds ∧ u.flags = g.flags ∧
      u.visits = g.visits ∧ (depart s g d).slot? g.core g.slot = none ∧
      (depart s g d).net.getLast? = some { id := n, cls := .request, src := g.core, dst := dieOf d.target, body := .ingot u d.acc d.dest d.flag } ∧
      ((depart s g d).coreState g.core).ingotSeq = ((s.coreState g.core).ingotSeq + 1) % 4096 ∧
      (depart s g d).dram = s.dram ∧ (depart s g d).spad = s.spad

/-- R47, R48: an ingot that reaches its die has its access performed at once, whatever the queue, and takes a queue entry; its flag then clears and, its last
place served, its instruction has ended. R53: the ingot of a unit that is gone is discarded. -/
def Sys2Proof.Claims.IngotArrives : Prop :=
  ∀ (s : State) (m : Nat) (msg : Msg) (u : Group) (acc : Option Access) (dest : Dest) (flag : Nat), s.ready? m = some msg →
    msg.body = .ingot u acc dest flag →
    (s.unit? u.uid = none → exec (.ingotArrival m) s = .next (s.dropMsg m)) ∧
    (∀ g, s.unit? u.uid = some g → placeUp s msg g = true → (isStackCore g.core = true → s.dies.getD (dieOf g.core) 0 ≠ 1) → s.pageMoves = [] →
      (s.queue.filter fun q => q.core == g.core).length < queueSize g.core → (∀ q ∈ s.crucible, ¬(q.core = g.core ∧ q.src = msg.src)) →
      (acc = none → ∃ t, exec (.ingotArrival m) s = .next t ∧ t.unit? u.uid = some { g with loc := .queued } ∧ t.msg? m = none ∧
        t.queue = s.queue ++ [{ core := g.core, uid := g.uid, src := msg.src, size := imageSize g }] ∧ t.dram = s.dram) ∧
      (∀ a vals v, acc = some a → performFor s g.region a = .ok (vals, v) → a.known = true → g.lateAbsent = 0 →
        ∃ t h, exec (.ingotArrival m) s = .next t ∧ t.unit? u.uid = some h ∧ h.loc = .queued ∧ h.mask = g.mask ∧
          h.pc = (if g.visits = [] then nextPc g.pc else g.pc) ∧ (flag < 12 → h.flag flag = { set := false, pending := none }) ∧
          t.queue = s.queue ++ [{ core := g.core, uid := g.uid, src := msg.src, size := imageSize g }] ∧ t.msg? m = none ∧ t.dram = v.dram))

/-- R48: the head of a queue takes a free slot, its carried registers for its own strands, zero in the others, and is scheduled from its pc; without a slot
or its budget nothing happens. -/
def Sys2Proof.Claims.IngotAdmitted : Prop :=
  ∀ (s : State) (core slot : Nat) (q : QItem) (u : Group) (c : Carried), (s.queue.find? fun x => x.core == core) = some q → s.unit? q.uid = some u →
    u.core = core → u.joinWait = 0 → (∀ f ∈ s.flushes, f.uid ≠ u.uid) → upperHolder s u.gid = false →
    (∀ m ∈ s.net, ∀ gid fl mk, (∃ res e, m.body = .completion gid fl mk res e) ∨ (∃ code a, m.body = .cause gid fl mk code a) →
      ∀ h, owedUnit s gid mk = some h → h.uid ≠ u.uid) → u.haltPosted = 0 → u.rejoining = false → u.twinned = false → u.carried = some c →
    ((s.launch? u.launch).map (·.preempted)).getD false = false →
    (slotFor s u (headInfo s u).valloc (headInfo s u).salloc = none → exec (.ingotAdmission core) s = .next s) ∧
    (slotFor s u (headInfo s u).valloc (headInfo s u).salloc = some (slot, false) → (∀ x ∈ s.crucible, x.core ≠ core) → u.resume.1 = 0 → u.image = none → u.wait = .none →
      ∃ t g sl, exec (.ingotAdmission core) s = .next t ∧ t.unit? u.uid = some g ∧ g.loc = .resident ∧ g.slot = slot ∧ g.core = core ∧ g.pc = u.pc ∧
        g.mask = u.mask ∧ g.wait = .none ∧ g.flags = u.flags ∧ g.preds = u.preds ∧ t.slot? core slot = some sl ∧ sl.gid = u.gid ∧
        (∀ k j, j < 32 → sl.vec k j = if inMask u.mask j then
          (((c.v ++ c.destV).reverse.find? fun e => e.1 == k).map fun e => laneAt e.2 j).getD 0 else 0) ∧
        (∀ k, sl.scal k = (((c.s ++ c.destS).reverse.find? fun e => e.1 == k).map (·.2)).getD 0) ∧
        t.queue = (s.queue.filter fun x => x.uid != u.uid) ∧ t.dram = s.dram)

/-- R198: `MIGR` to a core, to an address's arrival core or to the launch core: no effect where the unit stands there, 0x18 for a core out of service, and
else a migration without an access; scratchpad and lattice addresses are passed over, an unmapped one is fault 0x10. -/
def Sys2Proof.Claims.MigrMovesTheUnit : Prop :=
  ∀ (s : State) (c : Ctx),
    (∀ a, Issues s (.migrCore a) c → MigratesTo s c (.migrCore a) ((c.sreg a.toNat).toNat % 1024)) ∧
    (Issues s .migrLaunch c → homeOf c.g.gid = none → MigratesTo s c .migrLaunch c.g.launchCore) ∧
    (∀ a x, Issues s (.migrAddr a) c → x = (c.vsrc a.toNat c.low).toNat + 4294967296 * (c.vsrc (a.toNat + 1) c.low).toNat →
      (x / 2 ^ 56 = 0xFB ∨ 0xFD ≤ x / 2 ^ 56 → Completes s (.migrAddr a) c (Effect.only (nextPc c.g.pc))) ∧
      (0 < x / 2 ^ 56 → x / 2 ^ 56 < 0xFB → exec (.migrAddr a) s = .next (c.fail (.migrAddr a) 0x15 x)) ∧
      (x / 2 ^ 56 = 0xFC → privateConv (launchOf c.s c.g) c.g c.low 1 x = none → exec (.migrAddr a) s = .next (c.fail (.migrAddr a) 0x15 x)) ∧
      (∀ g, (x / 2 ^ 56 = 0 ∧ g = x) ∨ (x / 2 ^ 56 = 0xFC ∧ privateConv (launchOf c.s c.g) c.g c.low 1 x = some g) →
        (∀ p, lookupPage c.s c.g.core (rootOf c.s c.g) g = .ok p → p.device = 0 → MigratesTo s c (.migrAddr a) (512 + 64 * p.home + g / 256 % 64)) ∧
        (lookupPage c.s c.g.core (rootOf c.s c.g) g = .error none → exec (.migrAddr a) s = .next (c.fail (.migrAddr a) 0x10 x))))

/-- R200, R277: `HOME` writes for each strand the word of its address, without moving or accessing anything but the records of the bad table entries that its walks meet; a
non-canonical address is fault 0x15. -/
def Sys2Proof.Claims.HomeReportsPlaces : Prop :=
  ∀ (s : State) (c : Ctx) (d a : BitVec 7), Issues s (.home d a) c →
    ((∀ k ∈ c.active, homeWordOf c k (c.src64 a.toNat k) ≠ none) →
      (∃ t, exec (.home d a) s = .next t ∧ Done { c with s := c.homeRecords a.toNat } t (Effect.dst c d.toNat fun j =>
        (homeWordOf c (if c.uni then c.low else j) (c.src64 a.toNat (if c.uni then c.low else j))).getD 0)) ∧
      ((∀ k ∈ c.active, ∀ x w, c.named k (c.src64 a.toNat k) = .global x → lookupPage c.s c.g.core (rootOf c.s c.g) x ≠ .error (some w)) →
        c.homeRecords a.toNat = s)) ∧
    (∀ k, (c.active.find? fun k => (homeWordOf c k (c.src64 a.toNat k)).isNone) = some k →
      exec (.home d a) s = .next (c.fail (.home d a) 0x15 (c.src64 a.toNat k)))

end Motion

namespace Sys2Proof.Claims
open Sys2Proof.Machine

/-- The kind, scope, barrier, count operand of a `BAR` (R202, R203): 0 arrive, 1 wait, 2 sync, 3 init. -/
def barrierOf (c : Ctx) : Instr → Option (Nat × Nat × Nat × Option Nat)
  | .barArrive sc b n k => some (0, sc.toNat, b.toNat, if k = 1#1 then some (c.sreg n.toNat).toNat else none)
  | .barWait sc b n k => some (1, sc.toNat, b.toNat, if k = 1#1 then some (c.sreg n.toNat).toNat else none)
  | .barSync sc b n k => some (2, sc.toNat, b.toNat, if k = 1#1 then some (c.sreg n.toNat).toNat else none)
  | .barInit sc b n k => some (3, sc.toNat, b.toNat, if k = 1#1 then some (c.sreg n.toNat).toNat else none)
  | _ => none

/-- The count that an arrival works with (R203): for barrier 0 the membership. -/
def arrivalCount (t : Team) (k : Nat) (count : Option Nat) : Nat :=
  if k = 0 then t.members.length else match count with
    | some c => if (t.bar k).n = 0 then c else (t.bar k).n
    | none => (t.bar k).n

/-- An arrival that R203 faults. -/
def arrivalFaults (t : Team) (grp k : Nat) (count : Option Nat) : Prop :=
  (∃ n, count = some n ∧ (n = 0 ∨ 512 < n ∨ arrivalCount t k count ≠ n)) ∨ (count = none ∧ arrivalCount t k none = 0) ∨ grp ∈ (t.bar k).groups

end Sys2Proof.Claims

section Barriers
open Sys2Proof Sys2Proof.Machine Sys2Proof.Claims

/-- R201: a `REJOIN` of a whole group or of another level only ends its chain; else it waits for the flags owed to its fragment, raises the fault that one of
these has left pending, and arrives at its record, or moves to its anchor core to arrive there; a record whose slot is saved is waited for; a record of another
module is not reached at S1 or over a failed path. -/
def Sys2Proof.Claims.RejoinArrives : Prop :=
  ∀ (s : State) (c : Ctx) (b : BitVec 5), Issues s (.rejoin b) c →
    (c.g.rejoin = 0 ∨ (b.toNat ≠ 0 ∧ b.toNat ≠ c.g.rejoin) → Completes s (.rejoin b) c (Effect.only (nextPc c.g.pc))) ∧
    (c.g.rejoin ≠ 0 → b.toNat = 0 ∨ b.toNat = c.g.rejoin →
      (owed s c.g ≠ [] → exec (.rejoin b) s = .next (hold (s.modUnit c.g.uid fun g => g.awaits (owed s c.g)))) ∧
      (owed s c.g = [] → (∀ k f, pendingOf c.g c.g.awaited = some (k, f) → exec (.rejoin b) s = .next (c.failFlag (.rejoin b) k f)) ∧
        (pendingOf c.g c.g.awaited = none → c.g.anchorDev ≠ s.devNum → c.g.anchorDev ≠ 0 →
          (s.service = 1 → exec (.rejoin b) s = .next (c.fail (.rejoin b) 0x42 0)) ∧
          (s.service ≠ 1 → peerReach s (dieOf c.g.core) c.g.anchorDev = false → exec (.rejoin b) s = .next (c.fail (.rejoin b) 0x18 c.g.anchor))) ∧
        (pendingOf c.g c.g.awaited = none → c.g.anchorDev = c.s.devNum →
          (c.g.anchor = c.g.core → anchorSaved c.s c.g = true → exec (.rejoin b) s = .next (hold s)) ∧
          (c.g.anchor = c.g.core → anchorSaved c.s c.g = false → ∃ t g, Done c t (Effect.only (nextPc c.g.pc)) ∧ t.unit? c.g.uid = some g ∧
            exec (.rejoin b) s = .next (rejoinHere (t.modUnit c.g.uid Group.clearFlags) g.clearFlags)) ∧
          (c.g.anchor ≠ c.g.core → leaveWait c.s c.g 0 (dieOf c.g.anchor) c.g.anchor = none →
            ∃ t g, Done c t (Effect.only (nextPc c.g.pc)) ∧ t.unit? c.g.uid = some g ∧
              exec (.rejoin b) s = .next (depart (t.modUnit c.g.uid Group.clearFlags) g.clearFlags { dev := 0, target := c.g.anchor, rejoin := true })))))

/-- R36: an arrival at a record counts its strands and ends its unit; the last one completes the record: the merged unit goes on in the record's slot with
the parent's strands, the pc and flags of the fragment of the lowest strand, and the outer record. -/
def Sys2Proof.Claims.RecordsMerge : Prop :=
  ∀ (s : State) (u : Group) (x : Slot) (r : Rejoin), recordSlot s u.gid u.anchor u.rejoin u.mask = some (x, r) → r.parent ≠ 0 →
    x.here = true → s.slot? x.core x.slot = some x →
    ∀ l, l = (match r.lead with | some l => if lowest u.mask < lowest l.mask then u else l | none => u) →
    (r.arrived ||| u.mask ≠ r.parent →
      (arriveRecord s u none).units = ((passImage s u).units.filter fun g => g.uid != u.uid) ∧
      ∃ y, (arriveRecord s u none).slot? x.core x.slot = some y ∧
        ∀ q, (y.records.find? fun q => q.bar == r.bar) = some q → q.arrived = r.arrived ||| u.mask ∧ q.parent = r.parent ∧
          q.lead.map (fun h => (h.mask, h.pc, h.flags)) = some (l.mask, l.pc, l.flags)) ∧
    (r.arrived ||| u.mask = r.parent → ∃ g, (arriveRecord s u none).units = ((passImage s u).units.filter fun h => h.uid != u.uid) ++ [g] ∧
      g.mask = r.parent ∧ g.pc = l.pc ∧ g.anchorDev = r.outerDev ∧ g.anchor = r.outerAnchor ∧ g.rejoin = r.outerBar ∧ g.core = x.core ∧
      g.slot = x.slot ∧ g.loc = .resident ∧ g.wait = .none ∧ g.flags = l.flags ∧
      (∀ k j, k < 7 → j < 32 → inMask r.parent j = true → inMask (g.preds.getD k 0) j =
        if inMask u.mask j then inMask (u.preds.getD k 0) j else inMask (x.preds.getD k 0) j))

/-- R202, R203: a `BAR` on its team's anchor core, its release met, has the effect of R203 at once: it ends its chain and goes on, waits with its token, or raises
0x62 and changes nothing; away from the anchor core it sends its arrival and waits for the answer. -/
def Sys2Proof.Claims.BarriersOfATeam : Prop :=
  ∀ (s : State) (c : Ctx) (i : Instr) (kind scope id : Nat) (count : Option Nat) (t : Team), barrierOf c i = some (kind, scope, id, count) →
    Issues s i c → homeOf c.g.gid = none → c.s.team? c.g.launch c.g.team = some t → ((kind = 1 ∨ kind = 2) → overrunHit c.s c.g scope = false) →
    ((kind = 0 ∨ kind = 2) → releaseNow c.s c.g scope false = .go) →
    (t.anchor = c.g.core → ∃ d, Done c d (Effect.only (nextPc c.g.pc)) ∧
      (barEffect d c.g t id scope kind count = none → exec i s = .next (c.fail i 0x62 0)) ∧
      (∀ x, barEffect d c.g t id scope kind count = some (x, none) → exec i s = .next x) ∧
      (∀ x tok, barEffect d c.g t id scope kind count = some (x, some tok) →
        exec i s = .next (x.modUnit c.g.uid fun g => { g with wait := .bar id scope tok }))) ∧
    (t.anchor ≠ c.g.core → ∃ d, Done c d (Effect.only c.g.pc) ∧
      exec i s = .next { d.modUnit c.g.uid fun g => { g with wait := .barSent id scope kind } with
        nextId := c.s.nextId + 1
        net := c.s.net ++ [{ id := c.s.nextId, cls := .request, src := c.g.core, dst := dieOf t.anchor,
                             body := .barArrive c.g.gid c.g.mask id scope kind (match count with | some n => n + 1 | none => 0) }] })

/-- R203: arrivals, waits and initial counts. A faulting event is none. A wait goes on at once unless its token is that of the present generation. An arrival
that covers its group counts it; the last one begins the next generation, with the initial count, and ends the waits of older tokens. -/
def Sys2Proof.Claims.BarrierGenerations : Prop :=
  ∀ (s : State) (g : Group) (t : Team) (k scope : Nat) (count : Option Nat), s.team? t.launch t.idx = some t → k < t.bars.length →
    (∀ kind, kind = 0 ∨ kind = 2 → arrivalFaults t g.grp k count → barEffect s g t k scope kind count = none) ∧
    (¬arrivalFaults t g.grp k count → (k ≠ 0 → (t.bar k).arrived < arrivalCount t k count) → (k = 0 → g.grp ∈ t.members) →
      aliveMask s g.gid &&& ~~~((((t.bar k).part.lookup g.grp).getD 0) ||| g.mask) ≠ 0 →
      ∃ x t', barEffect s g t k scope 0 count = some (x, none) ∧ x.team? t.launch t.idx = some t' ∧ (t'.bar k).gen = (t.bar k).gen ∧
        (t'.bar k).arrived = (t.bar k).arrived ∧ (t'.bar k).groups = (t.bar k).groups ∧
        ((t'.bar k).part.lookup g.grp).getD 0 = (((t.bar k).part.lookup g.grp).getD 0) ||| g.mask) ∧
    (k ≠ 0 → ¬arrivalFaults t g.grp k count → aliveMask s g.gid &&& ~~~((((t.bar k).part.lookup g.grp).getD 0) ||| g.mask) = 0 →
      (arrivalCount t k count ≤ (t.bar k).arrived + 1 → ∃ x t', barEffect s g t k scope 0 count = some (x, none) ∧
        x.team? t.launch t.idx = some t' ∧ (t'.bar k).gen = (t.bar k).gen + 1 ∧ (t'.bar k).arrived = 0 ∧ (t'.bar k).groups = [] ∧
        (t'.bar k).n = (t.bar k).n0 ∧
        ∀ w h sc tok, s.unit? w = some h → w ≠ g.uid → h.wait = .bar k sc tok → h.launch = t.launch → h.team = t.idx → tok ≤ (t.bar k).gen →
          h.loc = .resident → h.core = t.anchor → ∃ h', x.unit? w = some h' ∧ h'.wait = .none) ∧
      ((t.bar k).arrived + 1 < arrivalCount t k count → ∃ x t', barEffect s g t k scope 0 count = some (x, none) ∧
        x.team? t.launch t.idx = some t' ∧ (t'.bar k).gen = (t.bar k).gen ∧ (t'.bar k).arrived = (t.bar k).arrived + 1 ∧
        (t'.bar k).groups = (t.bar k).groups ++ [g.grp] ∧ (t'.bar k).n = arrivalCount t k count)) ∧
    (g.tokens.lookup k = some (t.bar k).gen → barEffect s g t k scope 1 count = some (s, some (t.bar k).gen)) ∧
    (g.tokens.lookup k ≠ some (t.bar k).gen → barEffect s g t k scope 1 count = some (s, none)) ∧
    (∀ n, count = some n → ((t.bar k).arrived ≠ 0 ∨ n = 0 ∨ 512 < n → barEffect s g t k scope 3 count = none) ∧
      ((t.bar k).arrived = 0 → (t.bar k).groups = [] → 0 < n → n ≤ 512 → ∃ x t', barEffect s g t k scope 3 count = some (x, none) ∧
        x.team? t.launch t.idx = some t' ∧ (t'.bar k).n = n ∧ (t'.bar k).n0 = n ∧ (t'.bar k).gen = (t.bar k).gen))

/-- R39, R202, R203, R37: an arrival is counted at the team anchor core and answered, or its unit waits there; an answer ends the `BAR`, the end of a
wait lets its unit go on, a fault is raised by it; an exit tells the records of other cores. -/
def Obligations.BarrierMessages : Prop :=
  ∀ (s : State) (m : Nat) (msg : Msg),
    (∀ gid mask k scope kind n u t, s.ready? m = some msg → msg.body = .barArrive gid mask k scope kind n → unitBy s gid mask = some u →
      u.loc ≠ .away → s.team? u.launch u.team = some t → routeUp s msg.src msg.dst = true → teamAway s u.launch u.team = false → ∀ d, d = s.dropMsg m →
      (barEffect d u t k scope kind (if n = 0 then none else some (n - 1)) = none →
        exec (.barrierArrivalMessage m) s = .next (d.send .reply (1024 + msg.dst) (dieOf u.core) (.barRelease gid mask true))) ∧
      (∀ x, barEffect d u t k scope kind (if n = 0 then none else some (n - 1)) = some (x, none) →
        exec (.barrierArrivalMessage m) s = .next (x.send .reply (1024 + msg.dst) (dieOf u.core) (.barRelease gid mask false))) ∧
      (∀ x tok, barEffect d u t k scope kind (if n = 0 then none else some (n - 1)) = some (x, some tok) →
        ∃ y, exec (.barrierArrivalMessage m) s = .next y ∧ ∀ g, x.unit? u.uid = some g → g.loc ≠ .away →
          y.unit? u.uid = some { g.advance with wait := .bar k scope tok })) ∧
    (∀ gid mask fault u, s.msg? m = some msg → msg.body = .barRelease gid mask fault → unitBy s gid mask = some u → s.unit? u.uid = some u →
      (∀ id sc kd, u.wait = .barSent id sc kd → ∃ t, exec (.barrierReleaseMessage m) s = .next t ∧ t.net = (s.net.filter fun x => x.id != m) ∧
        t.unit? u.uid = some (if fault then { u with
            wait := .none
            homeFault := some { code := 0x62, addr := 0, flag := none, home := none, deferred := false } }
          else u.advance.endWait s (if kd = 1 ∨ kd = 2 then sc else 0))) ∧
      (∀ id sc tok, u.wait = .bar id sc tok → u.loc ≠ .swapped → ∃ t, exec (.barrierReleaseMessage m) s = .next t ∧
        t.net = (s.net.filter fun x => x.id != m) ∧ t.unit? u.uid = some (u.endWait s sc))) ∧
    (∀ gid core bar mask after x r, s.ready? m = some msg → msg.body = .exitRemove gid core bar mask after → bar ≠ 0 →
      recordSlot s gid core bar mask = some (x, r) → r.outerBar = 0 →
      exec (.exitRemovalMessage m) s = .next (settleRecord (s.dropMsg m) x { r with parent := r.parent &&& ~~~mask }))

/-- R203, R311: a wait that ends leaves nothing to wait for; at system scope in a region marked overrun it leaves the fault 0x1C to be raised next. -/
def Sys2Proof.Claims.WaitsEndWithTheirAcquire : Prop :=
  ∀ (s : State) (g : Group) (scope : Nat), { g.endWait s scope with homeFault := g.homeFault } = { g with wait := .none } ∧
    (scope = 4 → (∃ n a, (g.region, n, a) ∈ s.overruns) →
      (g.endWait s scope).homeFault = some { code := 0x1C, addr := 0, flag := none, home := none, deferred := false }) ∧
    (scope ≠ 4 ∨ (∀ n a, (g.region, n, a) ∉ s.overruns) → (g.endWait s scope).homeFault = g.homeFault)

/-- R205: what a release at a scope waits for: nothing at scope 0; else its oldest pending error first, then its posted operations and flagged loads, with the
tile bit its tile moves, and at scope 4 the window after its last cross-device operation. -/
def Sys2Proof.Claims.ReleaseConditions : Prop :=
  ∀ (s : State) (g : Group) (scope : Nat) (tile : Bool),
    releaseNow s g 0 tile = .go ∧
    (scope ≠ 0 → ∀ age code addr r, g.postErrs = (age, code, addr) :: r → releaseNow s g scope tile = .error code addr) ∧
    (scope ≠ 0 → g.postErrs = [] →
      ((∃ p ∈ s.posted, g.uid ∈ p.owners) ∨ loadsOut s g = true ∨ (tile = true ∧ movesOut s g = true) → releaseNow s g scope tile = .wait) ∧
      ((∀ p ∈ s.posted, g.uid ∉ p.owners) → loadsOut s g = false → (tile = true → movesOut s g = false) →
        (scope = 4 → ∀ n, g.lastWindow = some n → s.ptime < (n + 2) * s.window * 1000 → releaseNow s g scope tile = .window ((n + 2) * s.window * 1000)) ∧
        ((scope = 4 → ∀ n, g.lastWindow = some n → (n + 2) * s.window * 1000 ≤ s.ptime) → releaseNow s g scope tile = .go)))

/-- R206: a `FENCE` whose halves are met ends its chain and changes nothing; its release half waits, or raises the oldest pending error; its acquire half
waits for flagged loads, with `.tm` for tile moves; an acquire at system scope of a region that has missed a window is fault 0x1C. -/
def Sys2Proof.Claims.FenceWaitsForItsHalves : Prop :=
  ∀ (s : State) (c : Ctx) (sc : BitVec 3) (t : BitVec 1) (m : BitVec 2), Issues s (.fence sc t m) c →
    (m.getLsbD 0 = true → sc.toNat = 4 → (∃ n a, (c.g.region, n, a) ∈ c.s.overruns) → exec (.fence sc t m) s = .next (c.fail (.fence sc t m) 0x1C 0)) ∧
    (¬(m.getLsbD 0 = true ∧ sc.toNat = 4 ∧ (∃ n a, (c.g.region, n, a) ∈ c.s.overruns)) →
      ((m.getLsbD 1 = true → releaseNow c.s c.g sc.toNat (t == 1#1) = .go) →
        (m.getLsbD 0 = true → sc.toNat ≠ 0 → loadsOut c.s c.g = false ∧ (t = 1#1 → movesOut c.s c.g = false)) →
        Completes s (.fence sc t m) c (Effect.only (nextPc c.g.pc))) ∧
      (m.getLsbD 1 = true → releaseNow c.s c.g sc.toNat (t == 1#1) = .wait → exec (.fence sc t m) s = .next (hold s)) ∧
      (m.getLsbD 1 = true → ∀ code addr, releaseNow c.s c.g sc.toNat (t == 1#1) = .error code addr →
        exec (.fence sc t m) s = .next (Ctx.fail { c with g := { c.g with postErrs := c.g.postErrs.drop 1 } } (.fence sc t m) code addr)) ∧
      ((m.getLsbD 1 = true → releaseNow c.s c.g sc.toNat (t == 1#1) = .go) → m.getLsbD 0 = true → sc.toNat ≠ 0 →
        loadsOut c.s c.g = true ∨ (t = 1#1 ∧ movesOut c.s c.g = true) → exec (.fence sc t m) s = .next (hold s)))

end Barriers

namespace Sys2Proof.Claims
open Sys2Proof.Machine

/-- The order of a lattice type on the values of its cells (R223). -/
def latBelow (t a b : Nat) : Bool :=
  match t with
  | 1 | 7 => decide (a ≤ b)
  | 2 | 8 => decide (b ≤ a)
  | 3 => decide ((BitVec.ofNat 32 a).toInt ≤ (BitVec.ofNat 32 b).toInt)
  | 4 => decide ((BitVec.ofNat 32 b).toInt ≤ (BitVec.ofNat 32 a).toInt)
  | 5 => (BitVec.ofNat 32 a &&& ~~~(BitVec.ofNat 32 b)) == 0
  | 6 => (BitVec.ofNat 32 b &&& ~~~(BitVec.ofNat 32 a)) == 0
  | 9 => (BitVec.ofNat 64 a &&& ~~~(BitVec.ofNat 64 b)) == 0
  | 10 => isNan32 (BitVec.ofNat 32 b) ||
      (!isNan32 (BitVec.ofNat 32 a) &&
        (if a / 2147483648 = 1 then (if b / 2147483648 = 1 then decide (b ≤ a) else true) else b / 2147483648 == 0 && decide (a ≤ b)))
  | _ => decide (a % 4294967296 ≤ b % 4294967296) && decide (a / 4294967296 ≤ b / 4294967296)

/-- Bottom of a type (R223). -/
def bottomOf (t : Nat) : Nat :=
  match t with
  | 2 | 6 => 0xFFFFFFFF
  | 3 => 0x80000000
  | 4 => 0x7FFFFFFF
  | 8 => 0xFFFFFFFFFFFFFFFF
  | 10 => 0xFF800000
  | _ => 0

/-- A value that a cell of a type can hold: of its width, a NaN of MAXF32 in its one form. -/
def cellValue (t x : Nat) : Prop := 1 ≤ t ∧ t ≤ 11 ∧ latNorm t x = x

/-- Type, address of a strand, active strands of a lattice instruction (R224, R225). -/
def latticeOf (c : Ctx) : Instr → Option (Nat × (Nat → Nat) × List Nat)
  | .ljoin a _ t | .ljoinr _ a _ t | .lldw _ a _ t => some (t.toNat, c.addr a.toNat 0, c.active)
  | .lld _ a o t | .lstx _ a o t => some (t.toNat, c.addr a.toNat (o.toNat * latWidth t.toNat), c.active)
  | .lflush a t | .lepoch _ a t =>
    some (t.toNat, fun k => (c.vsrc a.toNat k).toNat + 4294967296 * (c.vsrc (a.toNat + 1) k).toNat, strands c.g.mask)
  | _ => none

/-- The cells that a lattice instruction acts on: strand, region, offset. -/
abbrev CellList := List (Nat × LatRegion × Nat)

/-- The value of a strand in a list by strand; in uniform form the one value (R31). -/
def valueFor (c : Ctx) (vals : List (Nat × Nat)) (j : Nat) : Nat := if c.uni then (vals.head?.map (·.2)).getD 0 else (vals.lookup j).getD 0

/-- A lattice result of a type written to D (R224). -/
def latEffect (c : Ctx) (t d : Nat) (vals : List (Nat × Nat)) : Effect :=
  if d = 112 then Effect.only (nextPc c.g.pc)
  else if latWidth t = 8 then wideOf c d (valueFor c vals) else Effect.dst c d fun j => BitVec.ofNat 32 (valueFor c vals j)
where
  wideOf (c : Ctx) (d : Nat) (f : Nat → Nat) : Effect :=
    both (Effect.dst c d fun j => BitVec.ofNat 32 (f j)) (Effect.dst c (d + 1) fun j => BitVec.ofNat 32 (f j / 4294967296))

/-- The unit as its joins have left its join list (R226, R232). -/
def joinsNoted (c : Ctx) (s : State) : Group :=
  match s.unit? c.g.uid with
  | some g => { c.g with joinList := g.joinList, joinOver := g.joinOver, joinRegions := g.joinRegions }
  | none => c.g

/-- Values joined into one cell, in their order. -/
def joinAll (t : Nat) (vals : List Nat) (old : Nat) : Nat := vals.foldl (fun x v => latJoin t x v) old

end Sys2Proof.Claims

section Lattices
open Sys2Proof Sys2Proof.Machine Sys2Proof.Claims

/-- R223: for every type, `Leq` is the order of the table, a partial order with the type's bottom below every value, and `Join` is its least upper bound. -/
def Sys2Proof.Claims.LatticeTypes : Prop :=
  ∀ t a b c : Nat, cellValue t a → cellValue t b → cellValue t c →
    latLeq t a b = latBelow t a b ∧ latBottom t = bottomOf t ∧ latLeq t (bottomOf t) a = true ∧ cellValue t (latJoin t a b) ∧
      latLeq t a (latJoin t a b) = true ∧ latLeq t b (latJoin t a b) = true ∧
      (latLeq t a c = true → latLeq t b c = true → latLeq t (latJoin t a b) c = true) ∧
      (latLeq t a b = true → latLeq t b a = true → a = b) ∧ latJoin t a b = latJoin t b a

/-- R224, R290: the checks of a lattice address in their order, by the lowest strand that fails one; a replica out of service is fault 0x18. -/
def Sys2Proof.Claims.LatticeChecks : Prop :=
  ∀ (s : State) (c : Ctx) (i : Instr) (t : Nat) (addr : Nat → Nat) (act : List Nat), latticeOf c i = some (t, addr, act) → Issues s i c →
    (c.s.replicas.getD (dieOf c.g.core) false = false → exec i s = .next (c.fail i 0x18 (addr (act.headD 0)))) ∧
    (c.s.replicas.getD (dieOf c.g.core) false = true → ∀ l r k code, act = l ++ k :: r → (∀ j ∈ l, ∃ x, c.cell t (addr j) = .ok x) →
      c.cell t (addr k) = .error (code, addr k) → exec i s = .next (c.fail i code (addr k))) ∧
    (∀ a, (0 < a / 2 ^ 56 → a / 2 ^ 56 < 0xFB → c.cell t a = .error (0x15, a)) ∧
      (a / 2 ^ 56 = 0 ∨ 0xFB < a / 2 ^ 56 → c.cell t a = .error (0x31, a)) ∧
      (a / 2 ^ 56 = 0xFB → (∀ r ∈ c.s.latRegions, r.base ∈ (launchOf c.s c.g).regions → a % 2 ^ 56 < r.base ∨ r.base + r.size ≤ a % 2 ^ 56) →
        c.cell t a = .error (0x31, a)) ∧
      (∀ r, c.cell t a = .ok r → r ∈ c.s.latRegions ∧ r.typ = t ∧ r.base ≤ a % 2 ^ 56 ∧ a % 2 ^ 56 < r.base + r.size ∧ a % latWidth t = 0))

/-- R226 to R228: `LJOIN` and `LJOINR` join their strands' values into the cells of their die's replica, `LJOINR` with the old values; `LLD` reads cells; `LLDW`
whose thresholds are met reads them, one whose thresholds are not waits, and past its limit is fault 0x33. -/
def Sys2Proof.Claims.JoinsAndReads : Prop :=
  ∀ (s : State) (c : Ctx) (t : Nat) (addr : Nat → Nat) (l : CellList), c.s.replicas.getD (dieOf c.g.core) false = true →
    (∀ a b : BitVec 7, ∀ f : BitVec 4, Issues s (.ljoin a b f) c → latticeOf c (.ljoin a b f) = some (t, addr, c.active) → c.cells t addr c.active = .ok l →
      ∀ r, r = joinCells c.s c.g.uid (dieOf c.g.core) l (c.latVal t b.toNat) →
        ∃ u, exec (.ljoin a b f) s = .next u ∧ Done { c with s := r.2, g := joinsNoted c r.2 } u (Effect.only (nextPc c.g.pc))) ∧
    (∀ d a b : BitVec 7, ∀ f : BitVec 4, Issues s (.ljoinr d a b f) c → latticeOf c (.ljoinr d a b f) = some (t, addr, c.active) →
      c.cells t addr c.active = .ok l → ∀ r, r = joinCells c.s c.g.uid (dieOf c.g.core) l (c.latVal t b.toNat) →
        ∃ u, exec (.ljoinr d a b f) s = .next u ∧ Done { c with s := r.2, g := joinsNoted c r.2 } u (latEffect c t d.toNat r.1)) ∧
    (∀ d a : BitVec 7, ∀ o f : BitVec 4, Issues s (.lld d a o f) c → latticeOf c (.lld d a o f) = some (t, addr, c.active) →
      c.cells t addr c.active = .ok l → Completes s (.lld d a o f) c
        (latEffect c t d.toNat (l.map fun x => (x.1, latGet c.s x.2.1.typ (dieOf c.g.core) x.2.2)))) ∧
    (∀ d a b : BitVec 7, ∀ f : BitVec 4, Issues s (.lldw d a b f) c → latticeOf c (.lldw d a b f) = some (t, addr, c.active) →
      c.cells t addr c.active = .ok l →
      ((∀ x ∈ l, latLeq t (c.latVal t b.toNat x.1) (latGet c.s x.2.1.typ (dieOf c.g.core) x.2.2) = true) →
        ∃ u, exec (.lldw d a b f) s = .next u ∧ Done { c with g := { c.g with wait := .none } } u
          (latEffect c t d.toNat (l.map fun x => (x.1, latGet c.s x.2.1.typ (dieOf c.g.core) x.2.2)))) ∧
      (∀ x st, (l.find? fun x => !latLeq t (c.latVal t b.toNat x.1) (latGet c.s x.2.1.typ (dieOf c.g.core) x.2.2)) = some x →
        st = (match c.g.wait with | .lldw t0 => t0 | _ => c.s.now) →
        (latLimit c.s c.g ≤ c.s.now - st → exec (.lldw d a b f) s = .next (Ctx.fail { c with g := { c.g with wait := .none } } (.lldw d a b f) 0x33 (addr x.1))) ∧
        (c.s.now - st < latLimit c.s c.g →
          exec (.lldw d a b f) s = .next (hold (s.modUnit c.g.uid fun g => { g with wait := .lldw st })))))

/-- R229 to R231: `LSTX` whose values lie at or above their cells writes them, and else is fault 0x30 and writes none; `LFLUSH` begins the flush of its region and
waits for its answers; `LEPOCH` writes one rc before the start of the last complete sweep, 0 before the first. -/
def Sys2Proof.Claims.StoresFlushesEpochs : Prop :=
  ∀ (s : State) (c : Ctx) (t : Nat) (addr : Nat → Nat), c.s.replicas.getD (dieOf c.g.core) false = true →
    (∀ d a : BitVec 7, ∀ o f : BitVec 4, ∀ l r, Issues s (.lstx d a o f) c → latticeOf c (.lstx d a o f) = some (t, addr, c.active) →
      c.cells t addr c.active = .ok l → r = joinCells c.s c.g.uid (dieOf c.g.core) l (fun k => latNorm t (c.latVal t d.toNat k)) →
      ((∀ x ∈ r.1, latLeq t x.2 (latNorm t (c.latVal t d.toNat x.1)) = true) → ∃ u, exec (.lstx d a o f) s = .next u ∧
        Done { c with s := r.2, g := joinsNoted c r.2 } u (Effect.only (nextPc c.g.pc))) ∧
      (∀ x, (r.1.find? fun x => !latLeq t x.2 (latNorm t (c.latVal t d.toNat x.1))) = some x →
        exec (.lstx d a o f) s = .next (c.fail (.lstx d a o f) 0x30 (addr x.1)))) ∧
    (∀ a : BitVec 7, ∀ f : BitVec 4, ∀ x rest, Issues s (.lflush a f) c → latticeOf c (.lflush a f) = some (t, addr, strands c.g.mask) →
      c.cells t addr (strands c.g.mask) = .ok (x :: rest) → ∃ u, Done c u (Effect.only (nextPc c.g.pc)) ∧
        ∀ p, p = startFlush u c.g.uid (dieOf c.g.core) x.2.1 →
          exec (.lflush a f) s = .next (settleFlush (p.2.modUnit c.g.uid fun g => { g with wait := .flush p.1 }) p.1)) ∧
    (∀ d a : BitVec 7, ∀ f : BitVec 4, ∀ x rest, Issues s (.lepoch d a f) c → latticeOf c (.lepoch d a f) = some (t, addr, strands c.g.mask) →
      c.cells t addr (strands c.g.mask) = .ok (x :: rest) →
      ∀ e, e = (match x.2.1.sweep with | some y => y - 1 | none => 0) →
        Completes s (.lepoch d a f) c (if d = 112#7 then Effect.only (nextPc c.g.pc) else wide { c with uni := false } d.toNat e))

/-- R226, R233: values joined in ascending strand order: each old value is what the lower strands left; a cell ends at the join of all the values that name it,
and no other cell changes. -/
def Sys2Proof.Claims.CellsOnlyRise : Prop :=
  ∀ (s : State) (uid die t : Nat) (l : CellList) (val : Nat → Nat), (∀ x ∈ l, x.2.1.typ = t) →
    (∀ x, x.2.1.typ = t → (joinCells s uid die (l ++ [x]) val).1 =
      (joinCells s uid die l val).1 ++ [(x.1, latGet (joinCells s uid die l val).2 t die x.2.2)]) ∧
    (∀ o, latGet (joinCells s uid die l val).2 t die o =
      joinAll t ((l.filter fun x => x.2.2 == o).map fun x => latNorm t (val x.1)) (latGet s t die o)) ∧
    (∀ e o, (∀ x ∈ l, latKey die x.2.2 ≠ latKey e o) → latGet (joinCells s uid die l val).2 t e o = latGet s t e o)

/-- R230 to R232, R287, R288, R290: a round, a flush or a join list that reaches a replica is joined there and counted, and waits for a route; a round begins at its time
and ends when every delivery has been counted, and may complete a sweep; a replica that comes back takes its neighbour's cells. -/
def Obligations.JoinsTravel : Prop :=
  ∀ (s : State) (m base : Nat) (msg : Msg) (r : LatRegion), latBase s base = some r →
    (r.started = none → r.nextAt ≤ s.now → ∃ t q, exec (.burnishRoundStart base) s = .next t ∧ latBase t base = some q ∧ q.started = some r.nextAt ∧
      q.left = (roundSends s r r.nextAt).length ∧ (∀ e d o, latGet t e d o = latGet s e d o) ∧ t.units = s.units) ∧
    (s.now < r.nextAt ∨ r.started ≠ none → exec (.burnishRoundStart base) s = .next s) ∧
    (∀ k die src cells, s.msg? m = some msg → msg.body = .round base k die src cells → routeUp s msg.src msg.dst = true → ∃ t q, exec (.roundDelivery m) s = .next t ∧
      t.msg? m = none ∧ (∀ o, latGet t r.typ die o = joinAll r.typ ((cells.filter fun c => c.1 == o).map (·.2)) (latGet s r.typ die o)) ∧
      latBase t base = some q ∧ q.left = (if r.round = k then r.left - 1 else r.left)) ∧
    (∀ st, r.started = some st →
      (r.left ≠ 0 → exec (.roundCompletion base) s = .next s) ∧
      (r.left = 0 → ∃ t q, exec (.roundCompletion base) s = .next t ∧ latBase t base = some q ∧ q.started = none ∧ q.round = r.round + 1 ∧
        q.done = (if r.old then r.done else (st :: r.done).take 16) ∧
        q.sweep = (match q.done[sweepRounds s r - 1]? with | some x => some x | none => r.sweep) ∧
        q.nextAt = max (r.t0 + (r.round + 1) * (500 * r.period)) s.now ∧ t.lat = s.lat)) ∧
    (s.msg? m = some msg → routeUp s msg.src msg.dst = false →
      (∀ k die src cells, msg.body = .round base k die src cells → exec (.roundDelivery m) s = .next s) ∧
      (∀ id die src cells, msg.body = .flush id base die src cells → exec (.lflushDelivery m) s = .next s)) ∧
    (∀ id die src cells f, s.msg? m = some msg → msg.body = .flush id base die src cells → routeUp s msg.src msg.dst = true →
      (s.flushes.filter fun f => f.id == id) = [f] → 1 < f.left →
      ∃ t f', exec (.lflushDelivery m) s = .next t ∧ t.msg? m = none ∧
        (∀ o, latGet t r.typ die o = joinAll r.typ ((cells.filter fun c => c.1 == o).map (·.2)) (latGet s r.typ die o)) ∧
        (t.flushes.find? fun f => f.id == id) = some f' ∧ f'.left = f.left - 1 ∧ t.units = s.units) ∧
    (∀ id die src cells f g, s.msg? m = some msg → msg.body = .flush id base die src cells → routeUp s msg.src msg.dst = true →
      (s.flushes.filter fun f => f.id == id) = [f] → f.left = 1 →
      f.base = base → s.unit? f.uid = some g → g.wait = .flush id → ∃ t h, exec (.lflushDelivery m) s = .next t ∧ (∀ x ∈ t.flushes, x.id ≠ id) ∧
        t.unit? f.uid = some h ∧ h.wait = .none ∧ h.pc = g.pc ∧ base ∉ h.joinRegions ∧
        ∀ o, o ∈ h.joinList ↔ o ∈ g.joinList ∧ (o < r.base ∨ r.base + r.size ≤ o)) ∧
    (∀ uid die cells g, s.ready? m = some msg → msg.body = .joinCells uid die cells → routeUp s msg.src msg.dst = true → s.latRegions = [r] → s.unit? uid = some g →
      (∀ c ∈ cells, r.base ≤ c.1 ∧ c.1 < r.base + r.size) → ∃ t, exec (.joinListDelivery m) s = .next t ∧ t.msg? m = none ∧
        (∀ o, latGet t r.typ die o = joinAll r.typ ((cells.filter fun c => c.1 == o).map (·.2)) (latGet s r.typ die o)) ∧
        ∃ h, t.unit? uid = some h ∧ h = { g with
          joinWait := g.joinWait - cells.length
          joinList := h.joinList
          joinOver := h.joinOver
          joinRegions := h.joinRegions }) ∧
    (∀ die d, s.dies.getD die 2 = 0 → s.replicas[die]? = some false → die < 16 → (replicasUp s).find? (fun x => decide (die < x)) = some d →
      ∃ t, exec (.replicaReturnCopy die) s = .next t ∧ t.replicas.getD die false = true ∧ t.units = s.units ∧
        ∀ e o, o < 2 ^ 24 → latGet t e die o = latGet s e d o ∧ ∀ x, x ≠ die → latGet t e x o = latGet s e x o)

/-- R228: past the limit of its wait an `LLDW` looks at its cells once more: it raises fault 0x33 with the address of the lowest strand whose threshold is not met, or
reads its cells and goes on; before the limit the event does nothing. -/
def Sys2Proof.Claims.LatticeWaitLimit : Prop :=
  ∀ (s : State) (u st : Nat) (w : Word) (iss : Issue) (g : Group), s.unit? u = some g → g.wait = .lldw st → slotIssue g = some (w, iss) →
    (s.now - st < latLimit s g → exec (.latticeWaitLimit u) s = .next s) ∧
    (latLimit s g ≤ s.now - st → ∀ d a b f c t addr l, decodeWord w = .ok (.lldw d a b f) → Issues { s with cur := iss } (.lldw d a b f) c →
      s.replicas.getD (dieOf c.g.core) false = true →
      latticeOf c (.lldw d a b f) = some (t, addr, c.active) → c.cells t addr c.active = .ok l →
      (∀ x, (l.find? fun x => !latLeq t (c.latVal t b.toNat x.1) (latGet s x.2.1.typ (dieOf c.g.core) x.2.2)) = some x →
        exec (.latticeWaitLimit u) s = .next (Ctx.fail { c with g := { c.g with wait := .none } } (.lldw d a b f) 0x33 (addr x.1))) ∧
      ((∀ x ∈ l, latLeq t (c.latVal t b.toNat x.1) (latGet s x.2.1.typ (dieOf c.g.core) x.2.2) = true) →
        ∃ y, exec (.latticeWaitLimit u) s = .next y ∧ Done { c with g := { c.g with wait := .none } } y
          (latEffect c t d.toNat (l.map fun x => (x.1, latGet s x.2.1.typ (dieOf c.g.core) x.2.2)))))

end Lattices

namespace Sys2Proof.Claims
open Sys2Proof.Machine

/-- The status word of a call (R221): OUTST, OVERDUE, RETRIED, FAULTP, ENTRY, CODE, SEQ. -/
def callStatus (k : Option Call) (f : Flag) : Nat :=
  (match k with
    | some k => 1 + 2 * bitNat k.overdue + 4 * bitNat k.retried + 16 * (k.entry % 16) + 65536 * (k.seq % 65536)
    | none => 0) +
  (match f.pending with | some e => 8 + 256 * (e.code % 256) | none => 0)

/-- The status word of a move (R243): ACTIVE, MISSED, FAULTP, CODE, PROGRESS. -/
def moveStatus (m : Option Move) (f : Flag) : Nat :=
  (match m with | some m => 1 + 2 * bitNat m.missed | none => 0) +
  (match f.pending with | some e => if e.code = 0x51 then 4 + 256 * (e.inner % 256) + 65536 * (e.progress % 8192) else 0 | none => 0)

/-- The same value in every strand of a destination, 64-bit ones in a pair. -/
def spreadDst (c : Ctx) (d : Nat) (pair : Bool) (x : Nat) : Effect :=
  if d = 112 then Effect.only (nextPc c.g.pc) else if pair then wide c d x else Effect.dst c d fun _ => BitVec.ofNat 32 x

/-- A question to another core of this module has been sent and its unit waits for the answer (R221, R243). -/
def Asks (s : State) (i : Instr) (c : Ctx) (core : Nat) (dest : Dest) (body : Payload) : Prop :=
  ∃ t, Done c t (Effect.only c.g.pc) ∧ exec i s = .next { t.modUnit c.g.uid fun g => { g with wait := .query dest } with
    nextId := c.s.nextId + 1
    net := c.s.net ++ [{ id := c.s.nextId, cls := .request, src := c.g.core, dst := dieOf core, body := body }] }

/-- The answer of an issuing core to a core of this module: one value for every strand (R221, R243). -/
def answerOf (s : State) (msg : Msg) (gid : Nat) (mask : Word) (dest : Dest) (x : Nat) : Msg :=
  let vals := (List.range 32).map fun k => (k, x)
  { id := s.nextId, cls := .reply, src := 1024 + msg.dst, dst := dieOf msg.src, body := .completion gid 12 mask [{ dest := dest, vals := vals }] none }

/-- A descriptor that R237 accepts. -/
def descriptorOk (d : List Word) : Prop :=
  1 ≤ (laneAt d 4).toNat % 8192 ∧ (laneAt d 4).toNat % 8192 ≤ 4096 ∧ (laneAt d 4).toNat / 8192 % 8 = 0 ∧
    1 ≤ (laneAt d 4).toNat / 65536 % 8192 ∧ (laneAt d 4).toNat / 65536 % 8192 ≤ 4096 ∧ (laneAt d 4).toNat / 536870912 = 0 ∧
    (laneAt d 5).toNat % 16 = 0 ∧ (laneAt d 6).toNat % 16 = 0 ∧ (laneAt d 7).toNat % 8 ≠ 7 ∧ (laneAt d 7).toNat / 8 % 8 ≠ 7 ∧
    (laneAt d 7).toNat / 256 % 8 ≤ 4 ∧ (laneAt d 7).toNat / 4096 ≤ 4096

/-- A reply that ends a body (R214): its fault, by the code that the body met. -/
def bodyFault (s : State) (g : Group) (v : Visitor) (code addr : Nat) : Reply :=
  { dstDev := v.srcDev, dstCore := v.srcCore, seq := v.seq, flag := v.flag, uni := false, vals := []
    fault := some { code := 0x20, inner := code, addr := addr, bodyPc := g.pc, core := g.core, device := s.devNum, desc := [], progress := 0, home := none } }

end Sys2Proof.Claims

section Remote
open Sys2Proof Sys2Proof.Machine Sys2Proof.Claims

/-- R209 to R211, R219: a new call whose table entry is valid and whose executor is in service takes its core's next sequence number, is sent with its payload and
recorded on its flag with its deadline, and its unit goes on; each fault of R209 comes in its order; a release that the unit has held for the executor's die, the marker
of a page that moves (R284, R299) or a number given too recently makes it wait. -/
def Sys2Proof.Claims.CallsAreSent : Prop :=
  ∀ (s : State) (c : Ctx) (h l : BitVec 2) (r a p : BitVec 5) (e : BitVec 4) (i : Instr) (x fl : Nat), i = .rcall h r l a p e → ctx? s = some c →
    Clear c i (c.callOpnds r a p e) → x = c.addr a.toNat 0 c.low → fl = 4 * h.toNat + l.toNat →
    (c.s.service = 1 → ∀ dv k pa, c.executor x = .ok (dv, k, pa) → dv = 0) →
    ((c.remoteEntry e).valid = false → exec i s = .next (c.fail i 0x01 0)) ∧
    ((c.remoteEntry e).valid = true →
      (0 < x / 2 ^ 56 → x / 2 ^ 56 < 0xFB → exec i s = .next (c.fail i 0x15 x)) ∧
      (x / 2 ^ 56 = 0xFC → privateConv (launchOf c.s c.g) c.g c.low 1 x = none → exec i s = .next (c.fail i 0x15 x)) ∧
      (x / 2 ^ 56 = 0xFB → exec i s = .next (c.fail i 0x32 x)) ∧
      (0xFD ≤ x / 2 ^ 56 → exec i s = .next (c.fail i 0x1B x)) ∧
      (x / 2 ^ 56 = 0 → lookupPage c.s c.g.core (rootOf c.s c.g) x = .error none → exec i s = .next (c.fail i 0x10 x)) ∧
      (x / 2 ^ 56 = 0 → ∀ pg, lookupPage c.s c.g.core (rootOf c.s c.g) x = .ok pg → c.executor x = .ok (pg.device, 512 + 64 * pg.home + x / 256 % 64, pg.pa x)) ∧
      (∀ dev core pa, c.executor x = .ok (dev, core, pa) →
        (executorUp c.s c.g.core dev core = false → exec i s = .next (c.fail i 0x18 x)) ∧
        (executorUp c.s c.g.core dev core = true → heldTo c.s c.g dev (dieOf core) ≠ [] ∨ (dev = 0 ∧ markerHeld c.s c.g.core pa = true) →
          exec i s = .next (hold s)) ∧
        (executorUp c.s c.g.core dev core = true → heldTo c.s c.g dev (dieOf core) = [] → (dev = 0 → markerHeld c.s c.g.core pa = false) →
          seqFree c.s (c.s.coreState c.g.core) = false → exec i s = .next (hold (s.modUnit c.g.uid fun g => { g with wait := .callSeq }))) ∧
        (executorUp c.s c.g.core dev core = true → heldTo c.s c.g dev (dieOf core) = [] → markerHeld c.s c.g.core pa = false →
          seqFree c.s (c.s.coreState c.g.core) = true → dev = 0 → ∀ q, q = (c.s.coreState c.g.core).callSeq →
          ∃ t g u, Done { c with g := { c.g with wait := .none } } t (Effect.only (nextPc c.g.pc)) ∧ t.unit? c.g.uid = some g ∧ exec i s = .next u ∧
            u.slots = t.slots ∧ u.dram = t.dram ∧ u.spad = t.spad ∧
            u.unit? c.g.uid = some { g.arm fl false with flagDevs := eraseKey fl g.flagDevs } ∧
            (u.coreState c.g.core).callSeq = (q + 1) % 65536 ∧ (u.coreState c.g.core).callTimes.lookup q = some c.s.now ∧
            u.calls = c.s.calls ++ [{ id := c.s.nextId, gid := c.g.gid, launch := c.g.launch, mask := c.g.mask, flag := fl, core := c.g.core, seq := q,
                                      exDev := 0, exCore := core, entry := e.toNat, rb := r.toNat, replies := (c.remoteEntry e).reply,
                                      vwb := c.g.vwb, swb := c.g.swb, uni := c.uni, deadline := c.s.now + 1000 * (launchOf c.s c.g).rTimeout,
                                      overdue := false, retried := false, delivered := false, answered := false, pa := pa }] ∧
            u.net = c.s.net ++ [{ id := c.s.nextId + 1, cls := .request, src := c.g.core, dst := dieOf core,
                                  body := .call { launch := c.g.launch, gid := c.g.gid, team := c.g.team, grp := c.g.grp,
                                                  entry := ((((launchOf c.s c.g).kernel : Int) + (c.remoteEntry e).offset) % 2 ^ 64).toNat,
                                                  payload := c.payload p (c.remoteEntry e).payload, replies := (c.remoteEntry e).reply,
                                                  seq := q, flag := fl, mask := c.g.mask, uni := c.uni, srcDev := 0, srcCore := c.g.core, dstCore := core, pa := pa } }])))

/-- R220: a retry without a record only ends its chain; one whose ENTRY differs is fault 0x01; else a retry message leaves the issuing core with the recorded
number, and the record has a new deadline, RETRIED set and OVERDUE clear; elsewhere the issuing core is asked. R219: a waiting call is issued once its number is free. -/
def Sys2Proof.Claims.CallsAreRetried : Prop :=
  ∀ (s : State) (c : Ctx) (h l : BitVec 2) (r a p : BitVec 5) (e : BitVec 4) (i : Instr) (fl : Nat), i = .rcallRetry h r l a p e →
    fl = 4 * h.toNat + l.toNat →
    (ctx? s = some c → Clear c i (c.callOpnds r a p e) →
      (callOf c.s c.g fl = none → (c.g.flag fl).set = false ∨ c.g.flagDevs.lookup fl = none → Completes s i c (Effect.only (nextPc c.g.pc))) ∧
      (∀ k, callOf c.s c.g fl = some k → (c.s.service = 1 → k.exDev = 0) →
        (k.entry ≠ e.toNat → exec i s = .next (c.fail i 0x01 0)) ∧
        (k.entry = e.toNat → k.core = c.g.core → k.exDev = 0 → ∃ t m, Done c t (Effect.only (nextPc c.g.pc)) ∧
          m.seq = k.seq ∧ m.flag = k.flag ∧ m.mask = k.mask ∧ m.payload = c.payload p (c.remoteEntry e).payload ∧ m.dstCore = k.exCore ∧
          ∃ n, exec i s = .next { t with
            nextId := c.s.nextId + 1
            calls := c.s.calls.map fun y => if y.id = k.id then { k with retried := true, overdue := false, delivered := false, deadline := n } else y
            net := c.s.net ++ [{ id := c.s.nextId, cls := .request, src := k.core, dst := dieOf k.exCore, body := .retry m }] } ∧
          ∀ la, c.s.launch? k.launch = some la → n = c.s.now + 1000 * la.rTimeout) ∧
        (k.entry = e.toNat → k.core ≠ c.g.core → ∃ t, Done c t (Effect.only (nextPc c.g.pc)) ∧ exec i s = .next { t with
          nextId := c.s.nextId + 1
          net := c.s.net ++ [{ id := c.s.nextId, cls := .request, src := c.g.core, dst := dieOf k.core,
                               body := .askRetry (c.payload p (c.remoteEntry e).payload) e.toNat c.g.gid fl c.g.mask }] }))) ∧
    (∀ u g w iss, s.unit? u = some g → g.wait = .callSeq → slotIssue g = some (w, iss) →
      (seqFree s (s.coreState g.core) = false → exec (.callSequenceReuseWait u) s = .next s) ∧
      (seqFree s (s.coreState g.core) = true → ∀ h r l a p e t, decodeWord w = .ok (.rcall h r l a p e) →
        t = { s.putUnit { g with wait := .none } with cur := iss } → exec (.callSequenceReuseWait u) s = exec (.rcall h r l a p e) t ∧
        ∀ c core pa, ctx? t = some c → Clear c (.rcall h r l a p e) (c.callOpnds r a p e) → (c.remoteEntry e).valid = true →
          c.executor (c.addr a.toNat 0 c.low) = .ok (0, core, pa) → executorUp t c.g.core 0 core = true → heldTo t c.g 0 (dieOf core) = [] →
          markerHeld t c.g.core pa = false → ∃ y k, exec (.callSequenceReuseWait u) s = .next y ∧ y.calls = s.calls ++ [k] ∧
            k.gid = g.gid ∧ k.flag = 4 * h.toNat + l.toNat ∧ k.core = g.core ∧ k.exCore = core ∧ k.seq = (s.coreState g.core).callSeq ∧
            (y.coreState g.core).callSeq = ((s.coreState g.core).callSeq + 1) % 65536))

/-- R215, R214: `RRET` of a visitor whose accesses have been performed ends it: its unit, slot and allocation go, its cache entry is done, its reply leaves; a group
that is no visitor takes fault 0x01; an error among its accesses, or the 4,097th issue, makes the reply a body fault. -/
def Sys2Proof.Claims.BodiesEnd : Prop :=
  ∀ (s : State) (c : Ctx) (a : BitVec 7),
    (Issues s (.rret a) c → c.g.visitor = none → exec (.rret a) s = .next (c.fail (.rret a) 0x01 0)) ∧
    (∀ v, c.g.visitor = some v → ctx? s = some c → Clear c (.rret a) [.src a.toNat v.replies] →
      (releaseNow c.s c.g 3 false = .wait → exec (.rret a) s = .next (hold s)) ∧
      (∀ code addr, releaseNow c.s c.g 3 false = .error code addr →
        ∃ t, Done c t (Effect.only (nextPc c.g.pc)) ∧ exec (.rret a) s = .next (visitorFault t c.g v code addr)) ∧
      (releaseNow c.s c.g 3 false = .go →
        (∀ k ∈ c.s.cache, ¬(k.stack = v.stack ∧ k.dev = v.srcDev ∧ k.core = v.srcCore ∧ k.seq = v.seq ∧ k.reply = none ∧ k.attached ≠ 0)) →
        ∃ t rp, exec (.rret a) s = .next t ∧ t.units = (s.units.filter fun g => g.uid != c.g.uid) ∧ t.slot? c.g.core c.g.slot = none ∧ t.dram = s.dram ∧
          rp.seq = v.seq ∧ rp.fault = none ∧ rp.uni = c.uni ∧ rp.vals.length = v.replies ∧
          (∀ j k, j < v.replies → k < 32 → laneAt (rp.vals.getD j []) k = c.src (a.toNat + j) k) ∧
          t.net = s.net ++ [{ id := s.nextId, cls := .reply, src := c.g.core, dst := if v.srcDev = 0 then dieOf v.srcCore else 16, body := .reply rp }] ∧
          ∀ k ∈ t.cache, k.stack = v.stack → k.dev = v.srcDev → k.core = v.srcCore → k.seq = v.seq → k.reply ≠ none)) ∧
    (∀ u g v, s.unit? u = some g → g.visitor = some v →
      (v.issued < 4096 → exec (.remoteBudgetExceeded u) s = .next s) ∧
      (4096 ≤ v.issued → g.loc = .resident → g.wait = .none → exec (.remoteBudgetExceeded u) s = .next (visitorFault s g v 0x24 0))) ∧
    (∀ g v code addr, (∀ k ∈ s.cache, ¬(k.stack = v.stack ∧ k.dev = v.srcDev ∧ k.core = v.srcCore ∧ k.seq = v.seq ∧ k.reply = none)) →
      (visitorFault s g v code addr).units = (s.units.filter fun h => h.uid != g.uid) ∧ (visitorFault s g v code addr).slot? g.core g.slot = none ∧
      (visitorFault s g v code addr).net = s.net ++ [{ id := s.nextId, cls := .reply, src := g.core,
                                                        dst := if v.srcDev = 0 then dieOf v.srcCore else 16,
                                                        body := .reply (bodyFault s g v code addr) }])

/-- R221, R243: `RSTAT` and `TSTAT` write the status of the call or the move on their flag, `TSTAT.prom` the promise, the same for every strand; away from the
issuing core they ask it and wait. -/
def Sys2Proof.Claims.StatusReads : Prop :=
  ∀ (s : State) (c : Ctx) (d : BitVec 7) (f : BitVec 4),
    (Issues s (.rstat d f) c →
      (∀ k, callOf c.s c.g f.toNat = some k → k.core = c.g.core →
        Completes s (.rstat d f) c (Effect.dst c d.toNat fun _ => BitVec.ofNat 32 (callStatus (some k) (c.g.flag f.toNat)))) ∧
      (∀ k, callOf c.s c.g f.toNat = some k → k.core ≠ c.g.core →
        Asks s (.rstat d f) c k.core (c.dest d.toNat false) (.askCall c.g.gid f.toNat c.g.mask (c.dest d.toNat false))) ∧
      (callOf c.s c.g f.toNat = none → (c.g.flag f.toNat).set = false ∨ c.g.flagDevs.lookup f.toNat = none →
        Completes s (.rstat d f) c (Effect.dst c d.toNat fun _ => BitVec.ofNat 32 (callStatus none (c.g.flag f.toNat))))) ∧
    (Issues s (.tstat d f) c →
      (∀ k, moveOf c.s c.g f.toNat = some k → k.core = c.g.core → Completes s (.tstat d f) c (spreadDst c d.toNat false (moveStatus (some k) (c.g.flag f.toNat)))) ∧
      (∀ k, moveOf c.s c.g f.toNat = some k → k.core ≠ c.g.core →
        Asks s (.tstat d f) c k.core (c.dest d.toNat false) (.askMove c.g.gid f.toNat c.g.mask false (c.dest d.toNat false))) ∧
      (moveOf c.s c.g f.toNat = none → (c.g.flag f.toNat).set = false ∨ c.g.flagDevs.lookup f.toNat = none →
        Completes s (.tstat d f) c (spreadDst c d.toNat false (moveStatus none (c.g.flag f.toNat))))) ∧
    (Issues s (.tstatProm d f) c →
      (∀ k, moveOf c.s c.g f.toNat = some k → k.core = c.g.core → Completes s (.tstatProm d f) c (spreadDst c d.toNat true k.promise)) ∧
      (∀ k, moveOf c.s c.g f.toNat = some k → k.core ≠ c.g.core →
        Asks s (.tstatProm d f) c k.core (c.dest d.toNat true) (.askMove c.g.gid f.toNat c.g.mask true (c.dest d.toNat true))) ∧
      (moveOf c.s c.g f.toNat = none → (c.g.flag f.toNat).set = false ∨ c.g.flagDevs.lookup f.toNat = none →
        Completes s (.tstatProm d f) c (spreadDst c d.toNat true 0)))

/-- R212, R216, R218, R219, R220: a call that arrives becomes a queued visitor with the caller's strands at the entry instruction, and an executing cache entry; a retry is answered by
the first row of the table that matches; both go on to the new home of a page that moves (R284); a reply writes its registers, clears its flag with its fault and frees its
record. -/
def Sys2Proof.Claims.CallsArriveAndReturn : Prop :=
  ∀ (s : State) (m : Nat) (msg : Msg),
    (∀ q stack la, s.ready? m = some msg → msg.body = .call q → stack = stackOf q.dstCore → stackUp s stack = true → routeUp s msg.src msg.dst = true →
      s.dies.getD (dieOf q.dstCore) 0 ≠ 1 → moveOver s q.pa = none → moveInto s q.pa = none → callLaunch s q = some la → (s.cache.filter fun e => e.stack == stack).length < 4096 →
      (s.queue.filter fun x => x.core == q.dstCore).length < queueSize q.dstCore → (∀ x ∈ s.crucible, ¬(x.core = q.dstCore ∧ x.src = msg.src)) →
      ∃ t u e, exec (.callArrival m) s = .next t ∧ t.msg? m = none ∧ u ∈ t.units ∧ u.uid = s.nextId ∧ u.loc = .queued ∧ u.pc = q.entry ∧ u.mask = q.mask ∧
        u.core = q.dstCore ∧ u.team = q.team ∧ u.grp = q.grp ∧ u.vwb = 0 ∧ u.swb = 0 ∧ u.preds = [0, 0, 0, 0, 0, 0, 0xFFFFFFFF] ∧
        (∀ k, (u.flag k) = { set := false, pending := none }) ∧
        (∃ n, t.queue = s.queue ++ [{ core := q.dstCore, uid := s.nextId, src := msg.src, size := n }]) ∧
        t.cache = e :: s.cache ∧ cacheHit e stack q = true ∧ e.reply = none ∧ e.attached = 0) ∧
    (∀ q stack, s.ready? m = some msg → msg.body = .retry q → stack = stackOf q.dstCore → stackUp s stack = true → routeUp s msg.src msg.dst = true →
      s.dies.getD (dieOf q.dstCore) 0 ≠ 1 → moveOver s q.pa = none → moveInto s q.pa = none →
      (∀ e rp, (s.cache.find? fun e => cacheHit e stack q) = some e → e.reply = some rp →
        exec (.retryArrival m) s = .next (sendReply (s.dropMsg m) q.dstCore rp)) ∧
      (∀ e, (s.cache.find? fun e => cacheHit e stack q) = some e → e.reply = none → exec (.retryArrival m) s = .next { s.dropMsg m with
        cache := s.cache.map fun x => if x.id = e.id then { x with attached := x.attached + 1 } else x }) ∧
      ((s.cache.find? fun e => cacheHit e stack q) = none → (∀ w, watermark? s stack q.srcDev q.srcCore = some w → seqBelow w.seq q.seq = false) →
        exec (.retryArrival m) s = .next (sendReply (s.dropMsg m) q.dstCore (bareReply s q 0x22 0 0))) ∧
      (∀ w, (s.cache.find? fun e => cacheHit e stack q) = none → watermark? s stack q.srcDev q.srcCore = some w → seqBelow w.seq q.seq = true →
        exec (.retryArrival m) s = .next ((admitCall s m q msg.src).getD s))) ∧
    (∀ q p, s.ready? m = some msg → (msg.body = .call q ∨ msg.body = .retry q) → stackUp s (stackOf q.dstCore) = true → routeUp s msg.src msg.dst = true →
      s.dies.getD (dieOf q.dstCore) 0 ≠ 1 → moveOver s q.pa = some p → ∃ w, w = q.forward p ∧ w.pa = p.newPa + (q.pa - p.oldPa) ∧
        (msg.body = .call q → exec (.callArrival m) s = .next ((s.dropMsg m).send .request msg.src (8 + p.newPa / 2 ^ 36) (.call w))) ∧
        (msg.body = .retry q → exec (.retryArrival m) s = .next ((s.dropMsg m).send .request msg.src (8 + p.newPa / 2 ^ 36) (.retry w)))) ∧
    (∀ rp k g sl, s.msg? m = some msg → msg.body = .reply rp → rp.dstDev = 0 → routeUp s msg.src msg.dst = true →
      recordOf s rp = some k → owedUnit s k.gid k.mask = some g → s.unit? g.uid = some g →
      g.loc = .resident → g.core = k.core → k.flag < 12 → s.slot? g.core g.slot = some sl →
      ∃ t h sl', exec (.replyArrival m) s = .next t ∧ t.calls = (s.calls.filter fun x => x.id != k.id) ∧ t.unit? g.uid = some h ∧
        h.flag k.flag = { set := false, pending := rp.fault } ∧ h.pc = g.pc ∧ t.slot? g.core g.slot = some sl' ∧
        (k.uni = false → ∀ y j, j < 32 → sl'.vec y j =
          if rp.fault = none ∧ k.vwb + k.rb ≤ y ∧ y < k.vwb + k.rb + min k.replies rp.vals.length ∧ inMask k.mask j = true ∧ inMask g.mask j = true
          then laneAt (rp.vals.getD (y - (k.vwb + k.rb)) []) (if rp.uni then 0 else j) else sl.vec y j) ∧
        (k.uni = true → ∀ y, sl'.scal y =
          if rp.fault = none ∧ k.swb + k.rb ≤ y ∧ y < k.swb + k.rb + min k.replies rp.vals.length
          then laneAt (rp.vals.getD (y - (k.swb + k.rb)) []) (if rp.uni then 0 else lowest k.mask) else sl.scal y)) ∧
    (∀ rp, s.msg? m = some msg → msg.body = .reply rp → rp.dstDev = 0 → (∀ k ∈ s.calls, ¬(k.core = rp.dstCore ∧ k.seq = rp.seq ∧ k.flag = rp.flag ∧ k.answered = false)) →
      exec (.replyArrival m) s = .next (s.dropMsg m))

/-- R218, R219, R220, R221, R243: what a deadline, an expiry and a question at the issuing core do. -/
def Sys2Proof.Claims.CallRecords : Prop :=
  ∀ (s : State),
    (∀ id k, (s.calls.find? fun x => x.id == id) = some k →
      (k.overdue = true ∨ s.now < k.deadline → exec (.replyOverdue id) s = .next s) ∧
      (k.overdue = false → k.deadline ≤ s.now → (∀ g, owedUnit s k.gid k.mask = some g → g.loc ≠ .away) → exec (.replyOverdue id) s = .next { s with
        calls := s.calls.map fun x => if x.id = k.id then { k with overdue := true } else x })) ∧
    (∀ id e, (s.cache.filter fun x => x.id == id) = [e] →
      (e.reply = none ∨ s.now < e.doneAt + 1000000 → exec (.replyCacheExpiry id) s = .next s) ∧
      (e.reply ≠ none → e.doneAt + 1000000 ≤ s.now → ∃ t, exec (.replyCacheExpiry id) s = .next t ∧ t.cache = (s.cache.filter fun y => y.id != id) ∧
        (∀ w ∈ t.watermarks, w.stack = e.stack → w.dev = e.dev → w.core = e.core → w.lastFree = s.now) ∧ t.units = s.units)) ∧
    (∀ stack dev core w, watermark? s stack dev core = some w →
      ((∃ e ∈ s.cache, e.stack = stack ∧ e.dev = dev ∧ e.core = core) ∨ s.now < w.lastFree + 1000000 → exec (.watermarkExpiry stack dev core) s = .next s) ∧
      ((∀ e ∈ s.cache, ¬(e.stack = stack ∧ e.dev = dev ∧ e.core = core)) → w.lastFree + 1000000 ≤ s.now →
        ∃ t, exec (.watermarkExpiry stack dev core) s = .next t ∧ watermark? t stack dev core = none ∧ t.units = s.units)) ∧
    (∀ m msg payload entry gid flag mask k, s.ready? m = some msg → msg.src < 1024 → routeUp s msg.src msg.dst = true →
      msg.body = .askRetry payload entry gid flag mask → (s.calls.find? fun k => k.gid == gid && k.flag == flag && k.mask &&& mask != 0) = some k →
      (k.entry ≠ entry → exec (.issuingCoreRequest m) s = .next (s.dropMsg m)) ∧
      (k.entry = entry → ∃ t n, exec (.issuingCoreRequest m) s = .next t ∧ t.units = s.units ∧ t.calls = s.calls.map fun y =>
        if y.id = k.id then { k with retried := true, overdue := false, delivered := false, deadline := n } else y)) ∧
    (∀ m msg gid flag mask dest, s.ready? m = some msg → msg.src < 1024 → routeUp s msg.src msg.dst = true → ∀ f, f = ((owedUnit s gid mask).getD default).flag flag →
      (∀ n, n = s.nextId → ∀ word : Nat → Msg, word = answerOf s msg gid mask dest →
        (msg.body = .askCall gid flag mask dest → exec (.issuingCoreRequest m) s = .next { s with
          nextId := n + 1
          net := (s.net.filter fun x => x.id != m) ++
            [word (callStatus (s.calls.find? fun k => k.gid == gid && k.flag == flag && k.mask &&& mask != 0) f)] }) ∧
        (∀ k, (s.moves.find? fun k => k.gid == gid && k.flag == flag && decide (k.stage < 3) && k.mask &&& mask != 0) = k →
          (msg.body = .askMove gid flag mask false dest → exec (.issuingCoreRequest m) s = .next { s with
            nextId := n + 1
            net := (s.net.filter fun x => x.id != m) ++ [word (moveStatus k f)] }) ∧
          (msg.body = .askMove gid flag mask true dest → exec (.issuingCoreRequest m) s = .next { s with
            nextId := n + 1
            net := (s.net.filter fun x => x.id != m) ++ [word ((k.map (·.promise)).getD 0)] }))))

/-- R236 to R238: a `TMOVE` with a descriptor that R237 refuses is fault 0x01, one with a side that is refused that side's fault; one with no rows left promises
the next instant and clears its flag's fault; one with REL raises the oldest pending error of posted operations (R188); else it sets its flag, records the move and its promise, and sends it to its engine. -/
def Sys2Proof.Claims.TileMovesIssue : Prop :=
  ∀ (s : State) (c : Ctx) (d a : BitVec 7) (f : BitVec 4) (i : Instr) (ds : List Word), i = .tmove d a f → Issues s i c →
    ds = ((List.range 8).map fun j => c.sreg (a.toNat + j)) →
    (¬descriptorOk ds → ∃ j, j < 8 ∧ exec i s = .next (c.fail i 0x01 (a.toNat + j))) ∧
    (descriptorOk ds →
      (∀ code, tmSideFault c.s c.g ds (tmSrc ds) (tmSrcStride ds) = some code → exec i s = .next (c.fail i code (tmSrc ds))) ∧
      (tmSideFault c.s c.g ds (tmSrc ds) (tmSrcStride ds) = none →
        (∀ code, tmSideFault c.s c.g ds (tmDst ds) (tmDstStride ds) = some code → exec i s = .next (c.fail i code (tmDst ds))) ∧
        (tmSideFault c.s c.g ds (tmDst ds) (tmDstStride ds) = none →
          (tmRows ds ≤ tmProgress ds → ∃ t g, Done c t (if d = 112#7 then Effect.only (nextPc c.g.pc) else Effect.scals c
              [(d.toNat, BitVec.ofNat 32 (c.s.now + 1)), (d.toNat + 1, BitVec.ofNat 32 ((c.s.now + 1) / 4294967296))] (nextPc c.g.pc)) ∧
            t.unit? c.g.uid = some g ∧ exec i s = .next (t.putUnit (g.clearPending f.toNat))) ∧
          (tmProgress ds < tmRows ds → tmRel ds = true → tmScope ds ≠ 0 → ∀ age code addr rest, c.g.postErrs = (age, code, addr) :: rest →
            exec i s = .next (Ctx.fail { c with g := { c.g with postErrs := rest } } i code addr)) ∧
          (tmProgress ds < tmRows ds → (tmRel ds = true → tmScope ds ≠ 0 → c.g.postErrs = []) → ∃ t g u pr mv, exec i s = .next u ∧
            Done { c with s := (bookPromise c.s c.g.core (tmEngine c.s c.g ds)).2 } t (if d = 112#7 then Effect.only (nextPc c.g.pc) else Effect.scals c
              [(d.toNat, BitVec.ofNat 32 pr), (d.toNat + 1, BitVec.ofNat 32 (pr / 4294967296))] (nextPc c.g.pc)) ∧ t.unit? c.g.uid = some g ∧
            c.s.now < pr ∧ ((c.s.coreState c.g.core).bookings.lookup (tmEngine c.s c.g ds)).getD 0 ≤ pr ∧
            u.unit? c.g.uid = some { g.arm f.toNat false with flagDevs := eraseKey f.toNat g.flagDevs } ∧ u.slots = t.slots ∧ u.dram = t.dram ∧
            u.moves = c.s.moves ++ [mv] ∧ mv.id = c.s.nextId ∧ mv.gid = c.g.gid ∧ mv.mask = c.g.mask ∧ mv.flag = f.toNat ∧ mv.core = c.g.core ∧
            mv.engine = tmEngine c.s c.g ds ∧ mv.desc = ds ∧ mv.progress = tmProgress ds ∧ mv.promise = pr ∧ mv.missed = false ∧ mv.stage = 0 ∧
            u.net = c.s.net ++ [{ id := c.s.nextId + 1, cls := .request, src := c.g.core, dst := tmEngine c.s c.g ds, body := .move c.s.nextId }]))))

/-- R239 to R242, R291, R292: an engine takes a move while fewer than 256 stand in its queue; each event reads one row and then writes it, and after the last row the flag
clears; a row that cannot be read or written ends the move with fault 0x51 pending and the rows done; a promise passed with the flag set is missed. -/
def Sys2Proof.Claims.TileMovesRun : Prop :=
  ∀ (s : State) (id : Nat) (v : Move), (s.moves.find? fun x => x.id == id) = some v →
    (∀ m msg, s.ready? m = some msg → msg.body = .move id →
      (routeUp s msg.src msg.dst = false → ∃ t, exec (.tileMoveAccept m) s = .next t ∧ t.moves = (s.moves.filter fun x => x.id != id) ∧ t.dram = s.dram ∧
        t.spad = s.spad) ∧
      (routeUp s msg.src msg.dst = true → 256 ≤ (s.moves.filter fun x => x.engine == v.engine && (x.stage == 1 || x.stage == 2)).length → exec (.tileMoveAccept m) s = .next s) ∧
      (routeUp s msg.src msg.dst = true → (s.moves.filter fun x => x.engine == v.engine && (x.stage == 1 || x.stage == 2)).length < 256 → exec (.tileMoveAccept m) s = .next { s with
        net := s.net.filter fun x => x.id != m
        moves := s.moves.map fun x => if x.id = id then { v with stage := 1 } else x })) ∧
    (v.stage = 0 ∨ (v.stage ≠ 3 ∧ rowHeld s v = true) → exec (.tileMoveCompletion id) s = .next s ∧ exec (.tileMoveFault id) s = .next s) ∧
    (v.stage ≠ 0 → v.stage ≠ 3 → rowHeld s v = false → ∀ l, s.launch? v.launch = some l →
      (∀ src dst, rowMeets s l v = .ok (src, dst) → exec (.tileMoveFault id) s = .next s ∧
        (v.progress + 1 < tmRows v.desc → ∃ t, exec (.tileMoveCompletion id) s = .next t ∧ t.dram = (moveRow s src dst).dram ∧ t.spad = (moveRow s src dst).spad ∧
          t.units = s.units ∧ t.moves = s.moves.map fun x => if x.id = id then { v with progress := v.progress + 1, stage := 2 } else x) ∧
        (tmRows v.desc ≤ v.progress + 1 → ∀ g, owedUnit s v.gid v.mask = some g → s.unit? g.uid = some g → g.loc = .resident → g.core = v.core → v.flag < 12 →
          ∃ t h, exec (.tileMoveCompletion id) s = .next t ∧ t.dram = (moveRow s src dst).dram ∧ t.spad = (moveRow s src dst).spad ∧
            t.moves = (s.moves.filter fun x => x.id != id) ∧ t.unit? g.uid = some h ∧ h.flag v.flag = { set := false, pending := none } ∧ h.pc = g.pc)) ∧
      (∀ code addr, rowMeets s l v = .error (.bad code addr) → exec (.tileMoveCompletion id) s = .next s ∧
        ∀ g, owedUnit s v.gid v.mask = some g → s.unit? g.uid = some g → g.loc = .resident → g.core = v.core → v.flag < 12 →
          ∃ t h e, exec (.tileMoveFault id) s = .next t ∧ ((∀ w, lookupPage s (1088 + v.engine) l.ptRoot addr ≠ .error (some w)) → t.dram = s.dram) ∧
            t.spad = s.spad ∧ t.moves = (s.moves.filter fun x => x.id != id) ∧
            t.unit? g.uid = some h ∧ h.flag v.flag = { set := false, pending := some e } ∧ e.code = 0x51 ∧ e.inner = code ∧ e.addr = addr ∧
            e.progress = v.progress ∧ e.desc = v.desc)) ∧
    (v.missed = true ∨ 3 ≤ v.stage ∨ s.now < v.promise → exec (.promiseMissed id) s = .next s) ∧
    (v.missed = false → v.stage < 3 → v.promise ≤ s.now → (∀ g, owedUnit s v.gid v.mask = some g → g.loc ≠ .away) →
      exec (.promiseMissed id) s = .next { s with
        moves := s.moves.map fun x => if x.id = id then { v with missed := true, delivered := tmQuiet v.desc } else x })

end Remote

namespace Sys2Proof.Claims
open Sys2Proof.Machine

/-- The word of `LICSTAT` (R70): HELD, TAKEN, WAITING, LOWER_ONLY, the holder's slot and side. -/
def licenceWord (s : State) (g : Group) : Nat :=
  let p := s.pair (pairOf g.core)
  let slot := match p.holder with
    | some h => (((s.slots.find? fun x => x.gid == h && x.core == p.core && !x.visitor).map (·.slot)).getD 0) % 512
    | none => 0
  bitNat (p.holder == some g.gid) + 2 * bitNat p.holder.isSome + 4 * bitNat (p.waiters.any fun w => (s.unit? w.1).any fun h => h.gid == g.gid) + 8 * bitNat s.topLost + 16 * slot +
    8192 * bitNat (p.holder.isSome && isUpper p.core)

/-- A matrix instruction (R248, R250, R252): kind, control pair, format block, flag, destination of its counts. -/
def matrixOf (c : Ctx) : Instr → Option (Nat × BitVec 7 × BitVec 7 × BitVec 4 × Dest)
  | .mldw a b f => some (0, a, b, f, { reg := none, pair := false, uni := false })
  | .mstream a b f => some (1, a, b, f, { reg := none, pair := false, uni := false })
  | .mdrain d a b f => some (2, a, b, f, if d = 112#7 then { reg := none, pair := false, uni := false }
      else { reg := some (.scal (c.g.swb + d.toNat)), pair := true, uni := true })
  | _ => none

/-- The exact integer of one column of a residue pass (R125): the sum over its cells of their products. -/
def passSum (fb act : Nat) (m : Matrix) (n : Nat) : Int :=
  ((List.range 128).map fun l => ((List.range (elemP (fbA fb))).map fun j =>
    elemInt (fbA fb) (act / 2 ^ (elemWidth (fbA fb) * (elemP (fbA fb) * l + j)) % 2 ^ elemWidth (fbA fb)) *
      elemInt (fbB fb) ((laneAt (lookupD m.active l []) n).toNat / 2 ^ (elemWidth (fbB fb) * j) % 2 ^ elemWidth (fbB fb))).sum).sum

/-- The unit's side of a twin window (R259): signals it sent and consumed, and those of its twin. -/
def sent (w : TwinWindow) (up : Bool) : Word := if up then w.sentU else w.sentL
def used (w : TwinWindow) (up : Bool) : Word := if up then w.usedU else w.usedL

/-- A window after a signal of a side, and after a side has consumed one: the other counts, the x registers and the owners are as before. -/
def Signalled (w v : TwinWindow) (up : Bool) : Prop :=
  sent v up = sent w up + 1 ∧ used v up = used w up ∧ sent v (!up) = sent w (!up) ∧ used v (!up) = used w (!up) ∧ v.x = w.x
def Consumed (w v : TwinWindow) (up : Bool) : Prop :=
  sent v up = sent w up ∧ used v up = used w up + 1 ∧ sent v (!up) = sent w (!up) ∧ used v (!up) = used w (!up) ∧ v.x = w.x

end Sys2Proof.Claims

section Matrices
open Sys2Proof Sys2Proof.Machine Sys2Proof.Claims

/-- R245, R246, R70: `MLIC.acq` and `MLIC.try` grant a free licence and else wait or answer 0; the holder's have no effect; `MLIC.rel` waits for the group's
matrix instructions and frees it; `MLIC.qry` writes `LICSTAT`. -/
def Sys2Proof.Claims.LicenceInstructions : Prop :=
  ∀ (s : State) (c : Ctx) (lower : Nat), lower = pairOf c.g.core →
    (Issues s .mlicAcq c →
      ((c.s.pair lower).holder = some c.g.gid → Completes s .mlicAcq c (Effect.only (nextPc c.g.pc))) ∧
      ((c.s.pair lower).holder ≠ some c.g.gid →
        (∀ code, licenceFault c.s c.g = some code → exec .mlicAcq s = .next (c.fail .mlicAcq code 0)) ∧
        (licenceFault c.s c.g = none → (c.s.pair lower).holder = none → (c.s.pair lower).waiters = [] →
          ∃ t, Done c t (Effect.only (nextPc c.g.pc)) ∧ exec .mlicAcq s = .next (granted t lower c.g)) ∧
        (licenceFault c.s c.g = none → (c.s.pair lower).holder ≠ none ∨ (c.s.pair lower).waiters ≠ [] →
          ∃ t g, exec .mlicAcq s = .next t ∧ t.unit? c.g.uid = some g ∧ g.wait = .mlic ∧ g.pc = c.g.pc ∧ (∃ k, (c.g.uid, k) ∈ (t.pair lower).waiters) ∧
            (t.pair lower).holder = (c.s.pair lower).holder ∧ t.dram = s.dram))) ∧
    (∀ p : BitVec 3, Issues s (.mlicTry p) c → (c.s.pair lower).holder ≠ some c.g.gid →
      (licenceFault c.s c.g = some 0x40 → exec (.mlicTry p) s = .next (c.fail (.mlicTry p) 0x40 0)) ∧
      (licenceFault c.s c.g = some 0x42 ∨ (licenceFault c.s c.g = none ∧ ((c.s.pair lower).holder ≠ none ∨ (c.s.pair lower).waiters ≠ [])) →
        Completes s (.mlicTry p) c (Effect.pdst c p.toNat fun _ => false)) ∧
      (licenceFault c.s c.g = none → (c.s.pair lower).holder = none → (c.s.pair lower).waiters = [] →
        ∃ t, Done c t (Effect.pdst c p.toNat fun _ => true) ∧ exec (.mlicTry p) s = .next (granted t lower c.g))) ∧
    (∀ p : BitVec 3, Issues s (.mlicTry p) c → (c.s.pair lower).holder = some c.g.gid → Completes s (.mlicTry p) c (Effect.only (nextPc c.g.pc))) ∧
    (Issues s .mlicRel c →
      (∀ q, c.s.licenceOf c.g.gid = some q → (c.s.array q.core).ops ≠ [] → exec .mlicRel s = .next (hold s)) ∧
      (∀ q, c.s.licenceOf c.g.gid = some q → (c.s.array q.core).ops = [] → ∃ t, Done c t (Effect.only (nextPc c.g.pc)) ∧
        exec .mlicRel s = .next (if q.core = c.g.core then freeLicence t q
          else t.send .request c.g.core (dieOf q.core) (.licRelease q.lower c.g.gid))) ∧
      (c.s.licenceOf c.g.gid = none → ∃ t, Done c t (Effect.only (nextPc c.g.pc)) ∧ exec .mlicRel s = .next (dropImage t c.g.gid))) ∧
    (∀ d : BitVec 7, isStackCore c.g.core = false → Issues s (.mlicQry d) c →
      Completes s (.mlicQry d) c (Effect.scals c [(d.toNat, BitVec.ofNat 32 (licenceWord c.s c.g))] (nextPc c.g.pc)))

/-- R246, R255 to R257: a grant gives the licence, its core and its array to a group with its image or the zero image; the events grant a free licence to the waiter
whose turn it is, ask again for an interrupted stream (fault 0x42 on a stack core), and free the licence of a killed holder or of one that released it from afar. -/
def Sys2Proof.Claims.LicenceEvents : Prop :=
  ∀ (s : State) (lower : Nat),
    (∀ maps g x, x = grant s lower maps g → (x.pair lower).holder = some g.gid ∧ (x.pair lower).core = g.core ∧
      (x.array g.core).m = { (imageOf s g.gid).getD Matrix.zeroImage with stream := none } ∧
      (∀ h ∈ x.units, h.gid = g.gid → h.image = none ∧ h.wait ≠ .mlic) ∧ x.dram = s.dram) ∧
    (∀ p, p.lower = lower → ((freeLicence s p).pair lower).holder = none ∧ ((freeLicence s p).pair lower).waiters = p.waiters ∧
      ((freeLicence s p).array p.core).m = Matrix.zeroImage ∧ ((freeLicence s p).array p.core).ops = [] ∧ (freeLicence s p).units = s.units) ∧
    ((s.pair lower).holder ≠ none ∨ (s.pair lower).dying = true ∨ nextWaiter s (s.pair lower) = none → exec (.licenceGrant lower) s = .next s) ∧
    (∀ u k g, (s.pair lower).holder = none → (s.pair lower).dying = false → nextWaiter s (s.pair lower) = some (u, k) → s.unit? u = some g →
      exec (.licenceGrant lower) s = .next (granted s lower g)) ∧
    (∀ p, s.topLost = false → (p.prefer = none → nextWaiter s p = p.waiters.head?) ∧
      (∀ k w, p.prefer = some k → (p.waiters.find? fun w => w.2 == k) = some w → nextWaiter s p = some w)) ∧
    (∀ u g, s.unit? u = some g → wantsLicence s g = true → isStackCore g.core = true → ∃ t h, exec (.licenceReacquire u) s = .next t ∧
      t.unit? u = some h ∧ h.homeFault.map (·.code) = some 0x42 ∧ h.pc = g.pc ∧ t.pairs = s.pairs) ∧
    (∀ u g, s.unit? u = some g → wantsLicence s g = true → lower = pairOf g.core → isStackCore g.core = false → licenceFault s g = none →
      ((s.pair lower).holder = none → (s.pair lower).waiters = [] → exec (.licenceReacquire u) s = .next (granted s lower g)) ∧
      ((s.pair lower).holder ≠ none ∨ (s.pair lower).waiters ≠ [] → ∃ t, exec (.licenceReacquire u) s = .next t ∧
        (t.pair lower).waiters = (s.pair lower).waiters ++ [(u, g.core)] ∧ t.units = s.units)) ∧
    ((s.pair lower).dying = true → exec (.licenceFreeAfterKill lower) s = .next (freeLicence s (s.pair lower))) ∧
    (∀ m msg gid, s.ready? m = some msg → msg.body = .licRelease lower gid → (s.pair lower).holder = some gid →
      ((s.array (s.pair lower).core).ops ≠ [] → exec (.licenceReleaseMessage m) s = .next s) ∧
      ((s.array (s.pair lower).core).ops = [] → exec (.licenceReleaseMessage m) s = .next (freeLicence (s.dropMsg m) (s.pair lower))))

/-- R245, R247 to R250, R252, R256: a matrix instruction of the holder on its licensed core takes the faults of R247 in their order, waits while one of its kind is in
progress, and else is handed to the sequencer, setting its flag or making its unit wait; elsewhere, or without the licence and an image, it is fault 0x40;
`MSWAP` exchanges the planes and their tags once the array is idle. -/
def Sys2Proof.Claims.MatrixInstructions : Prop :=
  ∀ (s : State) (c : Ctx) (i : Instr),
    (Issues s i c → i = .mswap ∨ matrixOf c i ≠ none → (∀ p, c.s.licenceOf c.g.gid = some p → p.core ≠ c.g.core) →
      (c.s.licenceOf c.g.gid = none → imageOf c.s c.g.gid = none) → exec i s = .next (c.fail i 0x40 0)) ∧
    (∀ p arr, c.s.licenceOf c.g.gid = some p → p.core = c.g.core → arr = c.s.array c.g.core →
      (i = .mswap → Issues s i c → (arr.ops ≠ [] → exec i s = .next (hold s)) ∧
        (arr.ops = [] → ∃ t, Done c t (Effect.only (nextPc c.g.pc)) ∧ exec i s = .next (t.putArray { arr with
          m := { arr.m with active := arr.m.shadow, shadow := arr.m.active, tagA := arr.m.tagS, tagS := arr.m.tagA } }))) ∧
      (∀ kind a b f dest ctl fb, matrixOf c i = some (kind, a, b, f, dest) → Issues s i c →
        ctl = (c.sreg a.toNat).toNat + 4294967296 * (c.sreg (a.toNat + 1)).toNat → fb = (c.sreg b.toNat).toNat + 4294967296 * (c.sreg (b.toNat + 1)).toNat →
        (arr.ops.any (fun o => if kind = 0 then o.kind == 0 else o.kind != 0) = true → exec i s = .next (hold s)) ∧
        (arr.ops.any (fun o => if kind = 0 then o.kind == 0 else o.kind != 0) = false →
          (∀ j, ctlBad kind fb ctl = some j → exec i s = .next (c.fail i 0x01 (a.toNat + j))) ∧
          (ctlBad kind fb ctl = none → fbOk fb = false → exec i s = .next (c.fail i 0x41 0)) ∧
          (ctlBad kind fb ctl = none → fbOk fb = true → (c.s.service = 1 → fbS1 fb = true) →
            (kind = 1 → arr.m.tagA.valid = true → arr.m.tagA.bfmt ≠ fbB fb ∨ arr.m.tagA.bblk ≠ fbBBlk fb → exec i s = .next (c.fail i 0x41 0)) ∧
            ((kind = 1 → arr.m.tagA.valid = true → arr.m.tagA.bfmt = fbB fb ∧ arr.m.tagA.bblk = fbBBlk fb) →
              (∀ x, matBound c.s (launchOf c.s c.g) c.g.core (matAreas kind fb ctl arr.m.tagA 0) = some x → exec i s = .next (c.fail i 0x17 x)) ∧
              (matBound c.s (launchOf c.s c.g) c.g.core (matAreas kind fb ctl arr.m.tagA 0) = none →
                ∃ t g u, Done c t (Effect.only (nextPc c.g.pc)) ∧ t.unit? c.g.uid = some g ∧ exec i s = .next u ∧ u.slots = t.slots ∧ u.dram = s.dram ∧
                  u.spad = s.spad ∧
                  u.unit? c.g.uid = some (if f = 0#4 then { g with wait := .matrix } else { g.arm f.toNat false with flagDevs := eraseKey f.toNat g.flagDevs }) ∧
                  (u.array c.g.core).m = arr.m ∧ (u.array c.g.core).ops = arr.ops ++
                    [{ kind := kind, gid := c.g.gid, uid := c.g.uid, mask := c.g.mask, flag := f.toNat, fb := fb, ctl := ctl, row := 0, dest := dest,
                       novf := 0, low := 0xFFFFFFFF, maps := (launchOf c.s c.g).spads }]))))))

/-- R247, R251: the sequencer of a licensed core performs a row of the instruction in progress; the last one ends it and clears its flag, or lets its unit go on. -/
def Sys2Proof.Claims.SequencerRows : Prop :=
  ∀ (s : State) (core : Nat) (o : SeqOp) (g : Group), (s.array core).ops = [o] → (s.pair (pairOf core)).dying = false → (s.pair (pairOf core)).saving = false →
    (s.pair (pairOf core)).core = core → (s.pair (pairOf core)).holder ≠ none → (s.units.find? fun h => h.gid == o.gid) = some g →
    ∀ l r, s.launch? g.launch = some l → (s.launches.find? fun l => (s.units.find? fun g => g.gid == o.gid).any fun g => g.launch == l.idx) = some l →
      r = seqStep s l core o →
      (o.row + 1 < seqRows o → ∃ t, exec (.matrixCompletion core) s = .next t ∧ (t.array core).ops = [r.2] ∧ r.2.row = o.row + 1 ∧
        (t.array core).m = (r.1.array core).m ∧ t.spad = r.1.spad ∧ t.units = s.units ∧ t.dram = s.dram) ∧
      (seqRows o ≤ o.row + 1 → o.kind ≠ 2 → s.unit? g.uid = some g →
        (o.flag = 0 → o.uid = g.uid → g.wait = .matrix → ∃ t, exec (.matrixCompletion core) s = .next t ∧ (t.array core).ops = [] ∧
          (t.array core).m = (r.1.array core).m ∧ t.unit? g.uid = some { g with wait := .none } ∧ t.dram = s.dram) ∧
        (o.flag ≠ 0 → o.flag < 12 → owedUnit s o.gid o.mask = some g → g.loc = .resident → g.core = core →
          ∃ t h, exec (.matrixCompletion core) s = .next t ∧ (t.array core).ops = [] ∧ (t.array core).m = (r.1.array core).m ∧ t.unit? g.uid = some h ∧
            h.flag o.flag = { set := false, pending := none } ∧ h.pc = g.pc))

/-- R119, R125: reconstruction from the three residues is exact in the range of R117; so a residue pass without scales adds to each accumulator the exact integer sum of
its column's products, clamped to 32 bits, and reports the clamping. -/
def Obligations.ResiduePassesAreExact : Prop :=
  (∀ z : Int, -66585344 ≤ z → z ≤ 66585343 → rtJoin (z % 509).toNat (z % 511).toNat (z % 512).toNat = z) ∧
  (∀ (core fb act : Nat) (m : Matrix) (sca scb : List Byte) (old : List Word), fbOk fb = true → elemResidue (fbA fb) = true → fbABlk fb = 0 → m.tagA.bblk = 0 →
    (∀ n, n < 128 → laneAt (passRow core fb m act sca scb old).1 n = clampS ((laneAt old n).toInt + passSum fb act m n)) ∧
    ((passRow core fb m act sca scb old).2 = true ↔ ∃ n, n < 128 ∧
      ((laneAt old n).toInt + passSum fb act m n < -2147483648 ∨ 2147483647 < (laneAt old n).toInt + passSum fb act m n)))

/-- R259, R260: `XSIG.sig` counts a signal once its release is met and fewer than 255 stand unconsumed; `XSIG.wait` consumes one or waits; `XSIG.sync` does both in that
order; a wait for a twin that has ended is fault 0x43, an acquire at system scope in a region marked overrun fault 0x1C (R311). -/
def Obligations.TwinSignals : Prop :=
  ∀ (s : State) (c : Ctx) (sc : BitVec 3) (w : TwinWindow) (up : Bool), c.twin? = some w → up = upperSide c.g.core →
    (∀ v, v = w.signal up → Signalled w v up) ∧ (∀ v, v = w.consume up → Consumed w v up) ∧
    (Issues s (.xsigSig sc) c → releaseNow c.s c.g sc.toNat false = .go →
      (sent w up - used w (!up)).toNat < 255 ∨ twinAlive c.s w (!up) = false →
        ∃ t v, Signalled w v up ∧ Done { c with s := c.s.putTwin v } t (Effect.only (nextPc c.g.pc)) ∧
          exec (.xsigSig sc) s = .next (xsigSettle t c.g.launch w.lower w.slot)) ∧
    (Issues s (.xsigSig sc) c → releaseNow c.s c.g sc.toNat false = .go →
      255 ≤ (sent w up - used w (!up)).toNat → twinAlive c.s w (!up) = true →
        ∃ t, Done c t (Effect.only c.g.pc) ∧
          exec (.xsigSig sc) s = .next (t.modUnit c.g.uid fun g => { g with wait := .xsig sc.toNat false false c.s.now })) ∧
    (Issues s (.xsigWait sc) c → overrunHit c.s c.g sc.toNat = false →
      (sent w (!up) ≠ used w up → ∃ t v, Consumed w v up ∧ Done { c with s := c.s.putTwin v } t (Effect.only (nextPc c.g.pc)) ∧
        exec (.xsigWait sc) s = .next (xsigSettle t c.g.launch w.lower w.slot)) ∧
      (sent w (!up) = used w up → twinAlive c.s w (!up) = false → exec (.xsigWait sc) s = .next (c.fail (.xsigWait sc) 0x43 0)) ∧
      (sent w (!up) = used w up → twinAlive c.s w (!up) = true → ∃ t, Done { c with s := c.s.putTwin w } t (Effect.only c.g.pc) ∧
        exec (.xsigWait sc) s = .next (xsigSettle (t.modUnit c.g.uid fun g => { g with wait := .xsig sc.toNat true false c.s.now }) c.g.launch w.lower w.slot))) ∧
    (∀ i, i = .xsigWait sc ∨ i = .xsigSync sc → Issues s i c → sc.toNat = 4 → (∃ n a, (c.g.region, n, a) ∈ c.s.overruns) →
      exec i s = .next (c.fail i 0x1C 0)) ∧
    (Issues s (.xsigSync sc) c → overrunHit c.s c.g sc.toNat = false → releaseNow c.s c.g sc.toNat false = .go →
      (sent w up - used w (!up)).toNat < 255 →
      (sent w (!up) ≠ used w up → ∃ t v x, Signalled w v up ∧ Consumed v x up ∧ Done { c with s := c.s.putTwin x } t (Effect.only (nextPc c.g.pc)) ∧
        exec (.xsigSync sc) s = .next (xsigSettle t c.g.launch w.lower w.slot)) ∧
      (sent w (!up) = used w up → twinAlive c.s w (!up) = true → ∃ t v, Signalled w v up ∧ Done { c with s := c.s.putTwin v } t (Effect.only (nextPc c.g.pc)) ∧
        exec (.xsigSync sc) s = .next (xsigSettle (t.modUnit c.g.uid fun g => { g with wait := .xsig sc.toNat true true c.s.now }) c.g.launch w.lower w.slot)))

end Matrices

namespace Sys2Proof.Claims
open Sys2Proof.Machine

/-- What a kill leaves of the launches of a list (R53, R329): no unit, slot, team, twin window, ownership, call or parked group; their records are marked with
the code, unless one was there; what belongs to other launches stays, but that units in a crucible take the queue entries set free. -/
structure Killed (s t : State) (ls : List Nat) (code : Nat) : Prop where
  units : t.units.map (fun g => { g with loc := .queued }) = (s.units.filter fun g => !ls.contains g.launch).map fun g => { g with loc := .queued }
  places : ∀ g ∈ t.units, g.loc = .queued ∨ g ∈ s.units
  slots : t.slots = s.slots.filter fun x => !ls.contains x.launch
  teams : t.teams = s.teams.filter fun x => !ls.contains x.launch
  twins : t.twins = s.twins.filter fun x => !ls.contains x.launch
  owners : t.owners = s.owners.filter fun x => !ls.contains x.launch
  calls : t.calls = s.calls.filter fun x => !ls.contains x.launch
  parked : t.parked = s.parked.filter fun x => !ls.contains x.u.launch
  launches : t.launches = s.launches.map fun l =>
    if l.idx ∈ ls ∧ l.ended = false then { l with killed := some (l.killed.getD code), toPlace := [] } else l
  memory : t.dram = s.dram ∧ t.spad = s.spad ∧ t.lat = s.lat

/-- The launches of l's fault domain killed with a code, and an entry of TYPE 4 (R327, R334) that waits to be written once they have ended. -/
def WatchdogKills (s t : State) (l : Launch) (code : Nat) (body : List Byte) (grp team pc : Nat) (detail : List Byte) : Prop :=
  Killed s t (domainOf s l) code ∧
    ∃ h e, t.heldEntries.getLast? = some h ∧ h.after = domainOf s l ∧ h.uid = none ∧ h.image = body ∧ h.qaddr = (domainNode l).faultQueue ∧ h.head = entryBytes e ∧
      e.typ = 4 ∧ e.code = code ∧ e.killed = true ∧ e.image = false ∧ e.origin = l.node.regionId ∧ e.domain = (domainNode l).regionId ∧
      e.tag = l.tag.toNat ∧ e.now = s.now ∧ e.grp = grp ∧ e.team = team ∧ e.pc = pc ∧ e.detail = detail

/-- The unit, with what it carries, that a fault writes into a queue (R74, R324). -/
def faulted (s : State) (g : Group) (sl : Slot) (dest : Bool × List Nat) : Group :=
  { g with
    carried := some (carry g sl dest.1 dest.2)
    seq := (s.coreState g.core).ingotSeq
    bundle := none
    age := 0
    wait := .none
    homeFault := none
    pauseEnd := 0
    visits := [] }

/-- A halted unit as its entry, once written, leaves it: what it carries is in the image, and it is swapped out (R324). -/
def writtenOut (g : Group) (c : Carried) : Group :=
  { g with
    carried := some c
    bundle := none
    age := 0
    wait := .none
    homeFault := none
    pauseEnd := 0
    visits := []
    loc := .swapped
    halting := false
    halted := false }

/-- The bytes of a fault's entry (R327): the record, then the image. -/
def faultBytes (s : State) (g : Group) (sl : Slot) (dest : Bool × List Nat) (r : FaultReq) : List Byte :=
  entryBytes
    { typ := 1, code := r.code, inner := (r.flag.map fun f => f.2.inner).getD 0, image := true, deferred := r.deferred, origin := g.region
      domain := (domainNode (launchOf s g)).regionId, escalated := (domainNode (launchOf s g)).addr != (launchOf s g).node.addr
      core := g.core, slot := g.slot, pc := g.pc, addr := r.addr, now := s.now, grp := g.grp, team := g.team, mask := g.mask.toNat
      tag := (launchOf s g).tag.toNat
      length := (ingotBytes (faulted s g sl dest) (headInfo s (faulted s g sl dest)) (carry g sl dest.1 dest.2)).length
      home := r.home, detail := match r.flag with | some f => flagDetail f.1 f.2 | none => if r.code = 0x1C then overrunDetail s g.region else [] } ++
    ingotBytes (faulted s g sl dest) (headInfo s (faulted s g sl dest)) (carry g sl dest.1 dest.2)

end Sys2Proof.Claims

section Faults
open Sys2Proof Sys2Proof.Machine Sys2Proof.Claims

/-- R323: the undelivered cause of the lowest flag traps a unit that stands at a boundary outside a handler, once; without a trap vector, or with one that is no target, it
is a fault at the pc. -/
def Sys2Proof.Claims.TrapsAreDelivered : Prop :=
  ∀ (s : State) (u : Nat) (g : Group) (sl : Slot) (flag code addr : Nat), s.unit? u = some g → s.slot? g.core g.slot = some sl →
    (flag, code, addr) ∈ causesOf s g → (∀ x ∈ causesOf s g, x = (flag, code, addr) ∨ flag < x.1) → atBoundary g = true → g.handler = false →
    (∀ h, (markDelivered s g flag code).unit? u = some h → (launchOf s g).trapVec ≠ 0 →
      checkTarget (markDelivered s g flag code) h (launchOf s g).trapVec = none →
      ∃ t h, exec (.trapDelivery u) s = .next t ∧ t.unit? u = some h ∧ h.pc = (launchOf s g).trapVec ∧ h.handler = true ∧ h.trapPc = g.pc ∧ h.trapAddr = addr ∧
        h.trapCause = BitVec.ofNat 32 (code % 256 + 256 * (flag % 16)) ∧ h.flags = g.flags ∧ h.preds = g.preds ∧ h.mask = g.mask ∧
        (∀ x ∈ h.causes, x ∈ g.causes) ∧ t.calls = (markDelivered s g flag code).calls ∧ t.moves = (markDelivered s g flag code).moves ∧ t.slots = s.slots ∧ t.dram = s.dram ∧
        (t.units.filter fun x => x.uid != u) = s.units.filter fun x => x.uid != u) ∧
    ((launchOf s g).trapVec = 0 → ∃ h, (markDelivered s g flag code).unit? u = some h ∧
      exec (.trapDelivery u) s = .next (raise (markDelivered s g flag code) h sl (nextDest (markDelivered s g flag code) h) (Ctx.faultReq code 0))) ∧
    (∀ h e, (markDelivered s g flag code).unit? u = some h → (launchOf s g).trapVec ≠ 0 →
      checkTarget (markDelivered s g flag code) h (launchOf s g).trapVec = some (e, none) → exec (.trapDelivery u) s =
        .next (raise (markDelivered s g flag code) h sl (nextDest (markDelivered s g flag code) h) (Ctx.faultReq e (launchOf s g).trapVec))) ∧
    (∀ k, lateCalls s g = [k] → k.flag = flag → code = 0x21 → (markDelivered s g flag code).calls =
      s.calls.map fun x => if x.id = k.id then { x with delivered := true } else x) ∧
    (∀ k, lateCalls s g = [] → lateMoves s g = [k] → k.flag = flag → code = 0x50 → (markDelivered s g flag code).moves =
      s.moves.map fun x => if x.id = k.id then { x with delivered := true } else x) ∧
    (lateCalls s g = [] → lateMoves s g = [] → (flag, code, addr) ∈ g.causes ∧ ∃ h, (markDelivered s g flag code).unit? u = some h ∧
      h.causes.length + 1 = g.causes.length)

/-- R324, R326, R327: a fault of a group of this module without a licence or a matrix image, its chain ended, at a queue with room: the entry stands at TAIL with the
group's image and TAIL moves on, the unit is swapped out and parked, its slot free unless reserved or shared. At a full queue it stays resident, halted, its
entry waiting; an unusable queue kills its domain. -/
def Sys2Proof.Claims.FaultsAreEntered : Prop :=
  ∀ (s : State) (g : Group) (sl : Slot) (r : FaultReq) (dest : Bool × List Nat), g.visitor = none → s.licenceOf g.gid = none → g.image = none →
    g ∈ s.units → (∀ h ∈ s.units, h.uid = g.uid → h = g) → s.slot? g.core g.slot = some sl → ∀ l d, l = launchOf s g → d = domainNode l →
    (∀ tail entry t, queueState s l.ptRoot d.faultQueue = .room tail entry → queuePut s l.ptRoot d.faultQueue tail entry (faultBytes s g sl dest r) = some t →
      ∃ x, x = takeFault s g r dest ∧ x.dram = t.dram ∧
        x.unit? g.uid = some { faulted s g sl dest with
          loc := .swapped
          halting := false
          halted := false } ∧
        (∃ p, x.parked = s.parked ++ [p] ∧ p.domain = d.addr ∧ p.index = tail % 2 ^ 32 ∧ p.qaddr = d.faultQueue ∧ p.u = faulted s g sl dest) ∧
        (sl.records = [] → (∀ h ∈ s.units, h.uid ≠ g.uid → ¬(h.loc = .resident ∧ h.core = g.core ∧ h.slot = g.slot)) → x.slot? g.core g.slot = none) ∧
        (sl.records ≠ [] → x.slots = s.slots)) ∧
    (queueState s l.ptRoot d.faultQueue = .full → ∃ x h, x = takeFault s g r dest ∧ x.unit? g.uid = some { g with
          halting := true
          halted := true } ∧ x.heldEntries = s.heldEntries ++ [h] ∧ h.uid = some g.uid ∧ h.code = r.code ∧ h.qaddr = d.faultQueue ∧ x.dram = s.dram ∧
        x.slots = s.slots) ∧
    (queueState s l.ptRoot d.faultQueue = .unusable → Killed s (takeFault s g r dest) (domainOf s l) 0x7F)

/-- R324, R326: an entry that waits for room is written once its queue has some, with the unit's image if it is a fault's, which is then swapped out and parked;
while the queue is full, or an older entry waits for it, nothing happens. -/
def Sys2Proof.Claims.HeldEntriesAreWritten : Prop :=
  ∀ (s : State) (k : Nat) (h : HeldEntry), s.heldEntries[k]? = some h →
    ((∃ x ∈ s.heldEntries.take k, x.qaddr = h.qaddr ∧ x.ptRoot = h.ptRoot) → exec (.faultEntryRetry k) s = .next s) ∧
    ((∀ x ∈ s.heldEntries.take k, ¬(x.qaddr = h.qaddr ∧ x.ptRoot = h.ptRoot)) → (∀ l ∈ h.after, ∀ x ∈ s.launches, x.idx = l → x.ended = true) →
      ∀ r, r = { s with heldEntries := s.heldEntries.eraseIdx k } →
      (queueState s h.ptRoot h.qaddr = .full → exec (.faultEntryRetry k) s = .next s) ∧
      (∀ tail entry t, queueState s h.ptRoot h.qaddr = .room tail entry → h.uid = none →
        queuePut r h.ptRoot h.qaddr tail entry (h.head ++ h.image) = some t →
        ∃ x, exec (.faultEntryRetry k) s = .next x ∧ x.dram = t.dram ∧ x.heldEntries = s.heldEntries.eraseIdx k ∧ x.units = s.units ∧
          ∀ q, h.qp = some q → x.hostOut = (complete s q (record 5 0 h.code h.region (BitVec.ofNat 64 h.tag) ((tail + 1) % 2 ^ 32))).hostOut) ∧
      (∀ tail entry uid g sl u img t, queueState s h.ptRoot h.qaddr = .room tail entry → h.uid = some uid → s.unit? uid = some g →
        s.slot? g.core g.slot = some sl → g.image = none → u = writtenOut g (carry g sl h.dest.1 h.dest.2) →
        img = ingotBytes u (headInfo r u) (carry g sl h.dest.1 h.dest.2) →
        queuePut r h.ptRoot h.qaddr tail entry (withLength h.head img.length ++ img) = some t →
        ∃ x, exec (.faultEntryRetry k) s = .next x ∧ x.dram = t.dram ∧ x.heldEntries = s.heldEntries.eraseIdx k ∧ x.unit? uid = some u ∧
          (∃ p, x.parked = s.parked ++ [p] ∧ p.domain = h.domain ∧ p.index = tail % 2 ^ 32 ∧ p.qaddr = h.qaddr ∧ p.u = u)))

/-- R60, R319: a stay chain whose wait holds have reached 64 ac ends: its pending writes are final, its latches void, and nothing else has changed. -/
def Sys2Proof.Claims.LongWaitsEndChains : Prop :=
  ∀ (s : State) (u : Nat) (g : Group) (sl : Slot), s.unit? u = some g → s.slot? g.core g.slot = some sl →
    (0 < g.chainLen → 64 ≤ g.chainHold → ∃ t h x, exec (.chainWaitCut u) s = .next t ∧ t.unit? u = some h ∧ t.slot? g.core g.slot = some x ∧
      h.chainLen = 0 ∧ h.pend = [] ∧ h.bypass = [] ∧ h.holds = [] ∧ h.chainHold = 0 ∧ h.pc = g.pc ∧ h.mask = g.mask ∧ h.flags = g.flags ∧
      (h, x) = commitChain g sl ∧
      { t with units := s.units, slots := s.slots } = s) ∧
    (g.chainLen = 0 ∨ g.chainHold < 64 → exec (.chainWaitCut u) s = .next s)

/-- R260, R329, R334, R335: a barrier's generation that has lasted its region's limit is fault 0x60, an `XSIG` that has lasted it too, with barrier 0xFE, expected 1 and
arrived 0; a persistent region whose deadline has passed is fault 0x61. Each kills its domain, and its entry, with KILLED, follows. -/
def Obligations.WatchdogsKill : Prop :=
  ∀ (s : State) (l : Launch),
    (∀ tm b since, s.team? l.idx tm.idx = some tm → s.launch? l.idx = some l → tm.launch = l.idx → tm.idx < 2 ^ 16 → l.preempted = false → l.node.barTimeout ≠ 0 →
      (tm.bar b).firstAt = some since → 1000 * l.node.barTimeout ≤ s.now - since - (tm.bar b).skipped →
      ∃ t, exec (.barrierTimeout (l.idx * 2 ^ 16 + tm.idx) b) s = .next t ∧
        WatchdogKills s t l 0x60 (watchBody s tm b (tm.bar b).groups) (tm.bar b).first.1 tm.idx (tm.bar b).first.2.1
          (barrierDetail b (tm.bar b).first.2.2 (tm.barN b) (tm.bar b).arrived (tm.bar b).gen since (1000 * l.node.barTimeout) tm.anchor)) ∧
    (∀ u g w tm sc rel sig since, s.unit? u = some g → launchOf s g = l → g.wait = .xsig sc rel sig since →
      s.twinWindow? g.launch g.core g.slot = some w → s.team? g.launch g.team = some tm → g.halting = false →
      (∀ h ∈ s.units, h.gid = w.gid (!upperSide g.core) → h.halted = false) → l.preempted = false → l.node.barTimeout ≠ 0 →
      1000 * l.node.barTimeout ≤ w.time (upperSide g.core) + (s.now - since) →
      ∃ t, exec (.xsigTimeout u) s = .next t ∧
        WatchdogKills s t l 0x60 (watchBody s tm 0xFE []) g.grp g.team (if sig then prevPc g.pc else g.pc)
          (barrierDetail 0xFE sc 1 0 0 since (1000 * l.node.barTimeout) tm.anchor)) ∧
    (∀ region h, (s.hearts.find? fun h => h.region == region && decide (h.deadline < s.now)) = some h →
      (s.launches.find? fun l => l.node.regionId == region && !l.ended && l.killed.isNone && !l.preempted) = some l →
      ∃ t team, exec (.heartbeatMissed region) s = .next t ∧ team < 2 ^ 16 ∧
        WatchdogKills s t l 0x61 (List.replicate 4672 0) 0 team 0 (barrierDetail 0xFF 0 0 0 0 h.last (1000 * l.node.hbeatInt) 0))

end Faults

namespace Sys2Proof.Claims
open Sys2Proof.Machine

/-- The command processor takes up the record bs of opcode op from queue pair qp: published, the one before done, no record held, its addresses of the form that R340
asks for before SESSION (R341, R342). -/
def Takes (s : State) (qp op : Nat) (bs : List Byte) : Prop :=
  ∃ q, s.qp? qp = some q ∧ q.error = false ∧ q.busy = false ∧ q.held = [] ∧ q.cmdTail ≠ q.cmdHead ∧
    hostRead s q.physical (q.cmdBase + 64 * (q.cmdHead % q.cmdCount)) 64 = some bs ∧ cmdOp bs = some op ∧ notPhysical s op bs = false

/-- The command is refused with a reason: CMD_HEAD moves past it and a record of kind 2 is written (R343); of a structure that it could not read, a bad entry on the
way is recorded (R369); nothing else. -/
def Refuses (s : State) (i : Instr) (qp op reason : Nat) (bs : List Byte) (u : Option Unread := none) : Prop :=
  exec i s = .next (complete (noteUnread (takeUp s qp) u) qp (record 2 op reason 0 (cmdTag bs) 0))

/-- The command is carried out: its effect is t, and a record of kind 1 is written (R343). -/
def Carries (s : State) (i : Instr) (qp op region : Nat) (bs : List Byte) (t : State) : Prop :=
  exec i s = .next (complete t qp (record 1 op 0 region (cmdTag bs) 0))

/-- The state of a group at launch (R74, R316). -/
structure Fresh (l : Launch) (team grp core : Nat) (u : Group) (x : Slot) : Prop where
  place : u.loc = .resident ∧ u.core = core ∧ x.core = core ∧ x.slot = u.slot ∧ x.gid = u.gid ∧ x.launch = l.idx ∧ x.here = true
  name : u.launch = l.idx ∧ u.team = team ∧ u.grp = grp ∧ u.launchCore = core ∧ u.twinned = l.twin
  control : u.pc = l.entry ∧ u.mask = allStrands ∧ u.handler = false ∧ u.rejoin = 0 ∧ u.wait = .none ∧ u.chainLen = 0
  windows : u.vwb = 0 ∧ u.swb = 0 ∧ u.live.declared = false
  preds : ∀ k j, k < 7 → j < 32 → inMask (u.preds.getD k 0) j = (k == 6)
  flags : ∀ k, k < 12 → u.flag k = { set := false, pending := none }
  vectors : x.valloc = l.valloc ∧ ∀ k j, x.vec k j = 0
  scalars : x.salloc = l.salloc ∧ ∀ k, x.scal k = if k < l.salloc then l.args.getD k 0 else 0
  clean : ∀ k, x.vdirty.getD k false = false ∧ x.sdirty.getD k false = false

/-- What a unit becomes when it halts at a boundary (R332): its PC_W and resume block. -/
def haltsAs (s : State) (g h : Group) : Prop :=
  h.halting = true ∧ h.halted = true ∧ h.wait = .none ∧ h.mask = g.mask ∧ h.flags = g.flags ∧ h.preds = g.preds ∧
    h.pc = (match g.wait with | .sleep _ => prevPc g.pc | _ => g.pc) ∧
    (∀ id scope token, g.wait = .bar id scope token → h.resume = (1, id, scope, token)) ∧
    h.haltPosted = (s.posted.filter fun p => p.owners.contains g.uid).length

end Sys2Proof.Claims

section Launching
open Sys2Proof Sys2Proof.Machine Sys2Proof.Claims

/-- R314, R335, R286, R343: a LAUNCH that nothing refuses creates its context and its new lattice regions, and is done; its teams wait for the distributor. -/
def Sys2Proof.Claims.LaunchCreatesAContext : Prop :=
  ∀ (s : State) (qp : Nat) (bs : List Byte), Takes s qp 0x01 bs →
    (∀ e, launchOfRecord (takeUp s qp) qp bs = .error e → Refuses s (.launch qp) qp 0x01 e.1 bs e.2) ∧
    (∀ l lat, launchOfRecord (takeUp s qp) qp bs = .ok (l, lat) →
      ∃ t, Carries s (.launch qp) qp 0x01 l.node.regionId bs t ∧ t.launches = s.launches ++ [l] ∧ t.units = s.units ∧ t.slots = s.slots ∧
        l.idx = s.nextId ∧ t.nextId = s.nextId + 1 ∧ l.toPlace = List.range l.teams ∧
        (∀ r ∈ s.latRegions, r ∈ t.latRegions) ∧ (∀ r ∈ lat, ∃ q ∈ t.latRegions, sameRegion r q = true) ∧
        (l.node.persistent = true → l.node.hbeatInt ≠ 0 → (∀ x ∈ s.launches, x.node.addr = l.node.addr → x.ended = true) →
          ∃ h ∈ t.hearts, h.region = l.node.regionId ∧ h.deadline = s.now + 1000 * l.node.hbeatInt))

/-- R38, R99, R101, R314, R342, R343, R349: what a context of a LAUNCH record holds, and the first reasons for which one is refused. The order of the checks is
the model's choice (log 28). -/
def Sys2Proof.Claims.LaunchContextIsChecked : Prop :=
  ∀ (s : State) (qp : Nat) (bs : List Byte),
    (s.sessionRoot = none → launchOfRecord s qp bs = .error (0x02, none)) ∧
    (s.sessionRoot ≠ none → s.service = 0 ∨ (s.topLost = true ∧ s.bottomLost = true) → launchOfRecord s qp bs = .error (0x06, none)) ∧
    (s.sessionRoot ≠ none → s.service ≠ 0 → (s.topLost = true → s.bottomLost = false) →
      (field bs 0x20 2 = 0 ∨ field bs 0x22 1 ∉ [1, 2, 4, 8, 16] ∨ 1 < field bs 0x23 1 ∨ field bs 0x28 8 % 8 ≠ 0 ∨ field bs 0x30 8 % 4096 ≠ 0 ∨
        16 < field bs 0x3C 1 → launchOfRecord s qp bs = .error (0x09, none))) ∧
    (∀ l lat, launchOfRecord s qp bs = .ok (l, lat) →
      l.tag = cmdTag bs ∧ l.qp = qp ∧ l.kernel = field bs 0x18 8 ∧ l.kernel % 256 = 0 ∧ l.teams = field bs 0x20 2 ∧ l.cores = field bs 0x22 1 ∧
      (l.stackKind = true ↔ field bs 0x23 1 = 1) ∧ l.args.length = field bs 0x24 2 ∧ l.args.length ≤ l.salloc ∧
      l.traceBase = field bs 0x30 8 ∧ l.traceRecs = field bs 0x38 4 ∧
      l.valloc % 8 = 0 ∧ 8 ≤ l.valloc ∧ l.valloc ≤ 512 ∧ l.salloc % 8 = 0 ∧ 8 ≤ l.salloc ∧ l.salloc ≤ 512 ∧
      1 ≤ l.teamGroups ∧ l.teamGroups ≤ 512 ∧ l.teamGroups ≤ l.cores * (if l.stackKind then 128 else 512) ∧
      (l.twin = true → l.stackKind = false ∧ l.teams % 2 = 0) ∧ l.entry % 4 = 0 ∧ l.killed = none ∧ l.preempted = false ∧ l.ended = false ∧
      (s.service = 1 → l.stackKind = true ∨ l.cores ≤ 1) ∧ (s.service = 1 → lat = []) ∧ lat.length ≤ 64)

/-- R38, R74, R268, R315, R316: the next team that waits is placed whole on cores where every condition of R315 holds: group g on core g mod n of them, in its
state at launch; its team anchor core is the lowest; the scratchpad ranges it names belong to it. Where the conditions do not hold nothing happens. -/
def Sys2Proof.Claims.TeamsArePlaced : Prop :=
  ∀ (s : State) (l : Launch) (cores : List Nat), nextToPlace s = some l →
    (placeOk s l cores = false → exec (.distributorPlaceTeam cores) s = .next s) ∧
    (∀ idx rest, placeOk s l cores = true → l.toPlace = idx :: rest → s.launch? l.idx = some l → 0 < l.cores →
      (∀ u ∈ s.units, u.launch = l.idx → u.team ≠ idx ∧ u.team ≠ idx + 1) →
      ∃ t, exec (.distributorPlaceTeam cores) s = .next t ∧
        (∃ m l', t.teams[s.teams.length]? = some m ∧ m.launch = l.idx ∧ m.idx = idx ∧ m.anchor = cores.headD 0 ∧ m.cores = cores ∧
          m.members = List.range l.teamGroups ∧ (∀ k, m.bar k = Bar.blank) ∧
          t.launch? l.idx = some l' ∧ l'.toPlace = if l.twin = true then rest.drop 1 else rest) ∧
        (∀ g, g < l.teamGroups → ∃ u ∈ t.units, ∃ x ∈ t.slots, Fresh l idx g (cores.getD (g % l.cores) 0) u x ∧ s.slot? x.core x.slot = none) ∧
        (l.twin = true → ∀ g, g < l.teamGroups → ∃ u ∈ t.units, ∃ x ∈ t.slots, ∃ w ∈ t.twins,
          Fresh l (idx + 1) g (twinOf (cores.getD (g % l.cores) 0)) u x ∧ w.launch = l.idx ∧ w.slot = x.slot ∧ w.gidUpper = u.gid ∧
          w.lower = cores.getD (g % l.cores) 0 ∧ w.sentL = 0 ∧ w.usedL = 0 ∧ w.sentU = 0 ∧ w.usedU = 0) ∧
        (∀ o ∈ wantedOwners l cores, o ∈ t.owners) ∧ (∀ o ∈ s.owners, o ∈ t.owners) ∧ (∀ u ∈ s.units, u ∈ t.units) ∧ (∀ x ∈ s.slots, x ∈ t.slots) ∧
        t.dram = s.dram ∧ t.spad = s.spad)

/-- R41, R308, R310, R329: a launch completes once its groups have ended and everything they sent is performed, and the second window after its last cross-device
operation has begun; its record names the code of a kill by the device. -/
def Sys2Proof.Claims.LaunchesComplete : Prop :=
  ∀ (s : State) (l : Launch), s.launch? l.idx = some l → l.ended = false → s.pending = [] →
    ((l.toPlace ≠ [] ∨ (∃ g ∈ s.units, g.launch = l.idx) ∨ (∃ p ∈ s.posted, p.launch = l.idx) ∨ (∃ m ∈ s.moves, m.launch = l.idx) ∨
      (∃ n, l.lastWindow = some n ∧ s.ptime < (n + 2) * s.window * 1000)) → exec (.launchCompletion l.idx) s = .next s) ∧
    (l.toPlace = [] → l.killed = none → (∀ g ∈ s.units, g.launch ≠ l.idx) → (∀ x ∈ s.slots, x.launch ≠ l.idx) → (∀ p ∈ s.posted, p.launch ≠ l.idx) →
      (∀ c ∈ s.calls, c.launch ≠ l.idx) → (∀ m ∈ s.moves, m.launch ≠ l.idx) → (∀ m ∈ s.net, ∀ c, m.body ≠ .call c) →
      (∀ n, l.lastWindow = some n → (n + 2) * s.window * 1000 ≤ s.ptime) →
      ∃ t, t.launch? l.idx = some { l with ended := true } ∧ t.owners = (s.owners.filter fun o => o.launch != l.idx) ∧
        t.twins = (s.twins.filter fun w => w.launch != l.idx) ∧ t.teams = (s.teams.filter fun m => m.launch != l.idx) ∧ t.units = s.units ∧ t.dram = s.dram ∧
        exec (.launchCompletion l.idx) s = .next (complete t l.qp (record 3 0x01 0 l.node.regionId l.tag 0))) ∧
    (∀ code, l.killed = some code → launchQuiet s l = true →
      ∃ u, exec (.launchCompletion l.idx) s = .next (complete u l.qp (record 4 0x01 code l.node.regionId l.tag 0)) ∧ u.launch? l.idx = some { l with ended := true }) ∧
    (∀ code, l.killed = some code → launchQuiet s l = false → exec (.launchCompletion l.idx) s = .next s)

end Launching

section Preemption
open Sys2Proof Sys2Proof.Machine Sys2Proof.Claims

/-- R332: PREEMPT marks the launches of its node and below, and their units halt: at once where no chain is open and no inline instruction is in progress,
the rest when they can. -/
def Sys2Proof.Claims.PreemptHalts : Prop :=
  ∀ (s : State) (qp : Nat) (bs : List Byte) (node : Nat), Takes s qp 0x02 bs → node = nodeKey (takeUp s qp) (field bs 0x10 8) →
    ∃ t, exec (.preempt qp) s = .next t ∧ (noteNode (takeUp s qp) (field bs 0x10 8) = takeUp s qp → t.dram = s.dram) ∧
      (∀ l ∈ s.launches, l.ended = false → l.killed = none → (∃ n ∈ l.chain, n.addr = node) → { l with preempted := true } ∈ t.launches) ∧
      (∀ l ∈ s.launches, (∀ n ∈ l.chain, n.addr ≠ node) → (∀ m ∈ s.launches, m.idx = l.idx → m = l) → l ∈ t.launches) ∧
      (∀ g l, s.unit? g.uid = some g → g.loc = .resident → l ∈ s.launches → l.idx = g.launch → l.ended = false → l.killed = none →
        (∃ n ∈ l.chain, n.addr = node) → s.licenceOf g.gid = none → g.halted = false →
        ∃ h, t.unit? g.uid = some h ∧ h.halting = true ∧ (g.chainLen ≠ 0 ∨ finishesInline s g = true → h = { g with halting := true }) ∧
          (g.chainLen = 0 → finishesInline s g = false → (∀ sc a b c, g.wait ≠ .xsig sc a b c) → haltsAs s g h))

/-- R53, R75, R330, R332: a halted unit whose pre-emption has been reported is written to its checkpoint record and swapped out, and its slot is free unless reserved
or shared; without room it stays. A unit of group 0 waits for the arrivals on their way to its team's barriers. -/
def Sys2Proof.Claims.CheckpointsSwapOut : Prop :=
  ∀ (s : State) (g : Group), g.uid < 2 ^ 40 → s.unit? g.uid = some g → g.loc = .resident → g.halted = true → haltReported s g.launch = true →
    (∀ h ∈ s.heldEntries, h.uid ≠ some g.uid) → g.grp ≠ 0 ∨ arrivalsIn s g.launch g.team = true → s.licenceOf g.gid = none → g.image = none →
    (saveUnit s g = none → exec (.checkpointSave g.uid) s = .next (settlePreempts s)) ∧
    (∀ x, saveUnit s g = some x → ∃ t h e, exec (.checkpointSave g.uid) s = .next t ∧ t.unit? g.uid = some h ∧ h.loc = .swapped ∧ h.halted = true ∧
      h.pc = g.pc ∧ h.mask = g.mask ∧ h.preds = g.preds ∧ h.flags = g.flags ∧ h.resume = g.resume ∧
      e ∈ t.saved ∧ e.unit = some h ∧ e.used = true ∧ e.launch = (launchOf s g).idx ∧ e.ptRoot = (launchOf s g).ptRoot ∧
      (∀ sl, s.slot? g.core g.slot = some sl → sl.records = [] →
        (∀ h ∈ s.units, h.uid ≠ g.uid → ¬(h.loc = .resident ∧ h.core = g.core ∧ h.slot = g.slot)) → t.slot? g.core g.slot = none))

/-- R54, R71, R331, R333, R371: RESUME waits for the save (reason 0x07); its launches are pre-empted no longer, and a saved unit whose record is as it was written, but for
its pc and resume block, is sent to the core where it halted, the barriers of its team as its barrier blocks have them. -/
def Sys2Proof.Claims.ResumeReenters : Prop :=
  ∀ (s u : State) (qp : Nat) (bs : List Byte) (node : Nat) (ls : List Launch), Takes s qp 0x03 bs → u = takeUp s qp → node = nodeKey u (field bs 0x10 8) →
    ls = ((coveredBy u node).filter fun l => l.preempted) → noteNode u (field bs 0x10 8) = u →
    ((∃ p ∈ u.preempts, p.saveTold = false ∧ (p.node = node ∨ ∃ l ∈ ls, ∃ n ∈ l.chain, n.addr = p.node)) → Refuses s (.resume qp) qp 0x03 0x07 bs) ∧
    ((∀ p ∈ u.preempts, p.saveTold = true) → (∀ x ∈ s.saved, x.kind ≠ 2) →
      (∃ t, Carries s (.resume qp) qp 0x03 (nodeRegion u node) bs t ∧
        ((u.saved.filter fun x => x.used && ls.any fun l => l.idx == x.launch) = [] →
          (∀ l ∈ s.launches, ∃ l' ∈ t.launches, l' = (if ∃ m ∈ ls, m.idx = l.idx then { l with preempted := false } else l)) ∧ t.units = s.units)) ∧
      (∀ x g h, (u.saved.filter fun x => x.used && ls.any fun l => l.idx == x.launch) = [x] → x.unit = some g → s.unit? g.uid = some g → g.loc = .swapped →
        unitBack (unpreempt u ls) x g = some h → h.uid = g.uid → h.core = g.core →
        ∃ t core v, Carries s (.resume qp) qp 0x03 (nodeRegion u node) bs t ∧ core = reentryCore s h g.core ∧ t.unit? g.uid = some v ∧
          v.core = core ∧ v.loc = .inFlight ∧ v.halting = false ∧ v.pc = h.pc ∧ v.mask = h.mask ∧ v.carried = h.carried ∧ v.resume = h.resume ∧
          (dieOf core = dieOf g.core → v = { h with
            core := core
            loc := .inFlight
            halting := false }) ∧
          (x.bars = true → ∀ tm bytes, s.team? g.launch g.team = some tm → devRead u x.ptRoot (extAt x.addr x.holder + 0x840) (32 * 96) = some bytes →
            ∃ tm', t.team? g.launch g.team = some tm' ∧ ∀ k, 1 ≤ k → k < 32 → (tm'.bar k).n = field bytes (96 * k) 2 ∧
              (tm'.bar k).n0 = field bytes (96 * k + 2) 2 ∧ (tm'.bar k).arrived = field bytes (96 * k + 4) 4 ∧ (tm'.bar k).gen = field bytes (96 * k + 8) 8) ∧
          (∃ m ∈ t.net, m.dst = dieOf core ∧ ∃ u a d f, m.body = .ingot u a d f ∧ u.uid = g.uid ∧ a = none)))

/-- R328, R329, R371: RESUMEENTRY and KILLENTRY name a parked group by its entry between HEAD and TAIL, else reason 0x09. A good image sends the unit to its core with the
pc of the image; one that breaks R71 or R73 kills the domain, as KILLENTRY does, with KILLED set in the entry. -/
def Obligations.EntriesAreResumedOrKilled : Prop :=
  ∀ (s u : State) (qp : Nat) (bs : List Byte), u = takeUp s qp → s.pending = [] →
    (Takes s qp 0x04 bs → parkedAt u (nodeKey u (field bs 0x18 8)) (field bs 0x20 4) = none →
      Refuses s (.resumeentry qp) qp 0x04 0x09 bs (queueRead u bs)) ∧
    (Takes s qp 0x05 bs → parkedAt u (nodeKey u (field bs 0x18 8)) (field bs 0x20 4) = none →
      Refuses s (.killentry qp) qp 0x05 0x09 bs (queueRead u bs)) ∧
    (∀ p c img, parkedAt u (nodeKey u (field bs 0x18 8)) (field bs 0x20 4) = some p → p.u.carried = some c → p.u.image = none →
      Takes s qp 0x04 bs → field bs 0x10 8 % 16 = 0 → readImage u (launchOf u p.u).ptRoot (field bs 0x10 8) p.u c = some img →
      (∀ g, readIngot p.u (headInfo u p.u) c img = some g → p.move = none → s.unit? p.u.uid ≠ none →
        ∃ t, Carries s (.resumeentry qp) qp 0x04 (launchOf u p.u).node.regionId bs t ∧ p ∉ t.parked ∧
          ∃ h, t.unit? p.u.uid = some h ∧ h.loc = .inFlight ∧ h.pc = g.pc ∧ h.carried = g.carried ∧ h.mask = g.mask ∧ h.halting = false ∧ h.halted = false) ∧
      (readIngot p.u (headInfo u p.u) c img = none →
        ∃ t, Carries s (.resumeentry qp) qp 0x04 (launchOf u p.u).node.regionId bs t ∧
          Killed (markKilled { u with parked := u.parked.filter fun q => q != p } p) t (domainOf u (launchOf u p.u)) 0x7F)) ∧
    (∀ p, parkedAt u (nodeKey u (field bs 0x18 8)) (field bs 0x20 4) = some p → Takes s qp 0x05 bs →
      ∃ t, exec (.killentry qp) s = .next t ∧ Killed (markKilled u p) t (domainOf u (launchOf u p.u)) 0)

end Preemption

section Commands
open Sys2Proof Sys2Proof.Machine Sys2Proof.Claims

/-- R340, R342: a record of an unknown opcode, or with a reserved byte that is not zero, is refused with reason 0x08; one that cannot be read puts its queue pair into
the error state. No record is taken up while one is held or carried out, or once the pair is in the error state. -/
def Sys2Proof.Claims.RecordsAreTakenUp : Prop :=
  ∀ (s : State) (q : QueuePair), s.qp? q.id = some q → ∀ i, i = Instr.unknownCommand q.id →
    (q.error = true ∨ q.busy = true ∨ q.held ≠ [] ∨ q.cmdTail = q.cmdHead → exec i s = .next s ∧ exec (.launch q.id) s = .next s ∧ exec (.session q.id) s = .next s) ∧
    (q.error = false → q.busy = false → q.held = [] → q.cmdTail ≠ q.cmdHead →
      (∀ bs, hostRead s q.physical (q.cmdBase + 64 * (q.cmdHead % q.cmdCount)) 64 = some bs →
        (((bs.getD 0 0).toNat = 0 ∨ 16 < (bs.getD 0 0).toNat ∨ (∃ k, 1 ≤ k ∧ k ≤ 7 ∧ bs.getD k 0 ≠ 0) →
          Refuses s i q.id (bs.getD 0 0).toNat 0x08 bs) ∧
        (∀ op, cmdOp bs = some op → exec i s = .next s ∧ op = (bs.getD 0 0).toNat ∧ 1 ≤ op ∧ op ≤ 16))) ∧
      (hostRead s q.physical (q.cmdBase + 64 * (q.cmdHead % q.cmdCount)) 64 = none →
        (q.physical = false → hostWalks s s.ptRoot 0x10 (q.cmdBase + 64 * (q.cmdHead % q.cmdCount)) 64 = s) → ∃ t, exec i s = .next t ∧ t.qp? q.id = some { q with error := true } ∧ t.hostOut = s.hostOut ++ [.nakAccess q.id] ∧ t.dram = s.dram))

/-- R286, R311, R340, R342, R347, R371: SESSION is carried out once, SETWIN while no launch is active, CLROVR at any time, LATRET for a region that no active launch
lists, whose cells are then lost. -/
def Sys2Proof.Claims.SessionWindowAndRegionCommands : Prop :=
  ∀ (s u : State) (qp : Nat) (bs : List Byte), u = takeUp s qp →
    (Takes s qp 0x10 bs →
      (s.sessionRoot ≠ none → Refuses s (.session qp) qp 0x10 0x07 bs) ∧
      (s.sessionRoot = none → field bs 0x10 8 % 256 ≠ 0 ∨ field bs 0x18 2 = 0 ∨ 4095 < field bs 0x18 2 → Refuses s (.session qp) qp 0x10 0x09 bs) ∧
      (∀ node, s.sessionRoot = none → field bs 0x10 8 % 256 = 0 → 0 < field bs 0x18 2 → field bs 0x18 2 ≤ 4095 → hostRead u true (field bs 0x10 8) 256 = some node →
        field node 8 8 = 0 → field node 4 1 = 1 →
        Carries s (.session qp) qp 0x10 (field node 0 4) bs
          { u with
            sessionRoot := some (field bs 0x10 8)
            ptRoot := BitVec.ofNat 64 (field node 16 8)
            devNum := field bs 0x18 2
            sessionId := field bs 0x1C 4 })) ∧
    (Takes s qp 0x0A bs → ∀ w, w = field bs 0x10 1 →
      (w = 0 ∨ 16 < w → Refuses s (.setwin qp) qp 0x0A 0x09 bs) ∧
      (1 ≤ w → w ≤ 16 → (∃ l ∈ s.launches, l.ended = false ∧ l.killed = none) → Refuses s (.setwin qp) qp 0x0A 0x07 bs) ∧
      (1 ≤ w → w ≤ 16 → (∀ l ∈ s.launches, l.ended = false → l.killed ≠ none) → Carries s (.setwin qp) qp 0x0A 0 bs { u with
          window := w
          mismatched := [] })) ∧
    (Takes s qp 0x08 bs → Carries s (.clrovr qp) qp 0x08 (field bs 0x10 4) bs { u with overruns := s.overruns.filter fun r => r.1 != field bs 0x10 4 }) ∧
    (Takes s qp 0x09 bs → ∀ base, base = field bs 0x10 4 →
      ((∀ r ∈ s.latRegions, r.base ≠ base) → Refuses s (.latret qp) qp 0x09 0x09 bs) ∧
      ((∃ r ∈ s.latRegions, r.base = base) → (∃ l ∈ s.launches, l.ended = false ∧ l.killed = none ∧ base ∈ l.regions) → Refuses s (.latret qp) qp 0x09 0x07 bs) ∧
      (∀ r, (s.latRegions.filter fun r => r.base == base) = [r] → (∀ l ∈ s.launches, l.ended = false → l.killed = none → base ∉ l.regions) →
        ∃ t, Carries s (.latret qp) qp 0x09 0 bs t ∧ t.latRegions = (s.latRegions.filter fun r => r.base != base) ∧
          t.lat = (s.lat.filter fun c => !(decide (r.base ≤ c.key % 2 ^ 24) && decide (c.key % 2 ^ 24 < r.base + r.size))) ∧
          (∀ m ∈ t.net, m ∈ s.net ∧ ∀ a b c d, m.body ≠ .round base a b c d) ∧ t.units = s.units ∧ t.dram = s.dram))

/-- R271, R345: SETSPILL moves a core's spill allocation, which no ownership may overlap, and is done once the core's registers fit; register values do not
change by spilling. PEER replaces a module's entry, and one that replaces a valid entry waits for the frames sent under it. -/
def Sys2Proof.Claims.SpillAndPeerCommands : Prop :=
  ∀ (s u : State) (qp : Nat) (bs : List Byte), u = takeUp s qp → s.pending = [] →
    (Takes s qp 0x0B bs → ∀ core base size, core = field bs 0x10 2 → base = field bs 0x14 4 → size = field bs 0x18 4 →
      (1024 ≤ core ∨ base % 256 ≠ 0 ∨ size % 256 ≠ 0 ∨ spadSize core 0 < base + size → Refuses s (.setspill qp) qp 0x0B 0x09 bs) ∧
      (core < 1024 → base % 256 = 0 → size % 256 = 0 → base + size ≤ spadSize core 0 →
        ((∃ o ∈ s.owners, o.level = 0 ∧ o.index = core ∧ o.base < base + size ∧ base < o.base + o.size) → Refuses s (.setspill qp) qp 0x0B 0x07 bs) ∧
        ((∀ o ∈ s.owners, ¬(o.level = 0 ∧ o.index = core ∧ o.base < base + size ∧ base < o.base + o.size)) →
          ∃ t, exec (.setspill qp) s = .next t ∧ t.slots = s.slots ∧ t.units = s.units ∧ t.spad = s.spad ∧ (t.coreState core).spillBase = base ∧
            (t.coreState core).spillSize = size ∧
            (((s.slots.filter fun x => x.here && x.core == core).map fun x => x.valloc).foldl (· + ·) 0 ≤ vfileOf core → t.pending = [] ∧
              t.hostOut = (complete u qp (record 1 0x0B 0 0 (cmdTag bs) 0)).hostOut)))) ∧
    (∀ g, ∃ t, exec (.registerSpill g) s = .next t ∧ t.slots = s.slots ∧ t.units = s.units ∧ t.spad = s.spad ∧ t.dram = s.dram) ∧
    (Takes s qp 0x0C bs → ∀ dev port valid, dev = field bs 0x10 2 → port = field bs 0x12 1 → valid = field bs 0x13 1 →
      (s.devNum = 0 → Refuses s (.peer qp) qp 0x0C 0x06 bs) ∧
      (s.devNum ≠ 0 → dev = 0 ∨ 4095 < dev ∨ 1 < port ∨ 1 < valid → Refuses s (.peer qp) qp 0x0C 0x09 bs) ∧
      (s.devNum ≠ 0 → 0 < dev → dev ≤ 4095 → port ≤ 1 → valid ≤ 1 →
        ∃ t, exec (.peer qp) s = .next t ∧ (t.peers.filter fun p => p.dev == dev) = [{ dev, port, valid := valid == 1, ip := (bs.drop 0x20).take 16 }] ∧
          (t.peers.filter fun p => p.dev != dev) = (s.peers.filter fun p => p.dev != dev) ∧ (∀ p ∈ t.paths, p.dev = dev → p.failed = false) ∧
          ((∀ p ∈ s.peers, p.dev = dev → p.valid = false) → t.hostOut = (complete u qp (record 1 0x0C 0 0 (cmdTag bs) 0)).hostOut) ∧
          ((∃ p ∈ s.peers, p.dev = dev ∧ p.valid = true) → (∃ p ∈ s.paths, p.dev = dev ∧ ∃ f ∈ p.unacked, p.failed = false ∧ p.cls = 0 ∧
              f.1.seq + 1 = (pathOf s dev 0).sendSeq) → t.hostOut = s.hostOut ∧ ∃ x ∈ t.pending, x.qp = qp ∧ x.opcode = 0x0C ∧ x.target = dev)))

/-- R350, R352, R355: INVENTORY writes its block at an address aligned to 4,096. POWER turns a parked stack on, waits for a die's self-test, for the groups of a stack
to leave it, and turns an idle twin die off; a stack turned off loses its contents. SERVICE goes up by one level at a time, after the self-tests of
the dies that each brings up; a failed test refuses it and marks the die. -/
def Sys2Proof.Claims.PowerAndServiceCommands : Prop :=
  ∀ (s u : State) (qp : Nat) (bs : List Byte), u = takeUp s qp → s.pending = [] →
    (Takes s qp 0x0D bs →
      (field bs 0x10 8 % 4096 ≠ 0 → Refuses s (.inventory qp) qp 0x0D 0x09 bs) ∧
      (∀ t, field bs 0x10 8 % 4096 = 0 → hostWrite { u with freeCtr := u.freeCtr + 1 } u.noSession (field bs 0x10 8) (inventoryBytes u) = some t →
        Carries s (.inventory qp) qp 0x0D 0 bs t)) ∧
    (Takes s qp 0x0E bs → ∀ kind idx goal die st, kind = field bs 0x10 1 → idx = field bs 0x11 1 → goal = field bs 0x12 1 → die = (if kind = 0 then 8 + idx else idx) →
      st = s.dies.getD die 3 →
      (1 < kind ∨ 8 ≤ idx ∨ 2 < goal → Refuses s (.power qp) qp 0x0E 0x09 bs) ∧
      (kind ≤ 1 → idx < 8 → goal ≤ 2 →
        ((kind = 1 ∧ goal = 1) ∨ st = 3 → Refuses s (.power qp) qp 0x0E 0x06 bs) ∧
        (kind = 0 → st = 1 → goal = 0 → Carries s (.power qp) qp 0x0E 0 bs { u with dies := s.dies.set die 0 }) ∧
        (st = 2 → goal = 0 → ∃ t, exec (.power qp) s = .next t ∧ t.dies = s.dies ∧
          ∃ p, t.pending = [p] ∧ p.opcode = 0x0E ∧ p.left = [die] ∧ p.target = die) ∧
        (kind = 0 → st = 0 → goal = 1 → groupsOnDie s die false = false → ∃ t, exec (.power qp) s = .next t ∧ t.dies = s.dies.set die 1 ∧ t.pending = [] ∧ t.dram = s.dram) ∧
        (kind = 0 → st = 0 → 0 < goal → groupsOnDie s die false = true → ∃ t p, exec (.power qp) s = .next t ∧ t.dies = s.dies ∧ t.pending = [p] ∧ p.arg = goal) ∧
        (kind = 1 → st = 0 → goal = 2 → groupsOnDie s die true = true ∨ licenceOnDie s die = true → Refuses s (.power qp) qp 0x0E 0x07 bs) ∧
        (kind = 1 → st = 0 → goal = 2 → groupsOnDie s die true = false → licenceOnDie s die = false →
          ∃ t, Carries s (.power qp) qp 0x0E 0 bs t ∧ t.dies = s.dies.set die 2 ∧ t.replicas = s.replicas.set die false ∧ t.dram = s.dram) ∧
        (kind = 0 → st = 0 → goal = 2 → groupsOnDie s die false = false → (∀ q ∈ s.crucible, crucibleStack q.core ≠ idx) → (∀ m ∈ s.net, m.dst ≠ die) →
          ∃ t, exec (.power qp) s = .next t ∧ t.dies = s.dies.set die 2 ∧ t.pending = [] ∧ t.dram = (s.dram.filter fun c => c.1 / 2 ^ 36 != idx)))) ∧
    (Takes s qp 0x0F bs → ∀ goal, goal = field bs 0x10 1 →
      (goal = 0 ∨ 2 < goal ∨ goal < s.service → Refuses s (.service qp) qp 0x0F 0x09 bs) ∧
      (0 < goal → goal ≤ 2 → s.service = goal → Carries s (.service qp) qp 0x0F 0 bs u) ∧
      (0 < goal → goal ≤ 2 → s.service < goal → (s.topLost = true ∧ s.bottomLost = true → Refuses s (.service qp) qp 0x0F 0x06 bs) ∧
        ((s.topLost = true → s.bottomLost = false) → (s.service = 1 → ∃ d, 2 ≤ d ∧ d < 16 ∧ d ≠ 8 ∧ s.dies.getD d 2 ≤ 1) →
          ∃ t p, exec (.service qp) s = .next t ∧ t.service = s.service ∧ t.pending = [p] ∧ p.opcode = 0x0F ∧ p.target = goal ∧ p.arg = s.service + 1 ∧
            (s.service = 0 → p.left = [0, 1, 8])))) ∧
    (∀ die pass, exec (.selfTestComplete die pass) s = .next s)

/-- R350, R352: the end of a die's self-test; the last one a command waits for completes its level, a failed one refuses it, marks the die failed and writes the event
0x000A. -/
def Sys2Proof.Claims.SelfTestsEnd : Prop :=
  ∀ (s : State) (p : PendCmd) (die : Nat), s.pending = [p] → p.left = [die] → die < s.dies.length →
    (p.opcode = 0x0F → p.arg = p.target → (s.topLost = true → s.bottomLost = false) → (p.arg = 2 → s.locked = true ∨ ∀ e ∈ s.peers, e.valid = false) →
      ∃ t, exec (.selfTestComplete die true) s = .next t ∧ t.service = p.arg ∧ t.pending = [] ∧ t.dies = s.dies ∧ t.units = s.units) ∧
    (p.opcode = 0x0F → p.arg = 1 → p.target = 2 → (s.topLost = true → s.bottomLost = false) → (∃ d, 2 ≤ d ∧ d < 16 ∧ d ≠ 8 ∧ s.dies.getD d 2 ≤ 1) →
      ∃ t q, exec (.selfTestComplete die true) s = .next t ∧ t.service = 1 ∧ t.pending = [q] ∧ q.arg = 2 ∧ q.target = 2 ∧ q.qp = p.qp) ∧
    (p.opcode = 0x0E → p.arg = 0 → p.target = die → ∃ t, exec (.selfTestComplete die true) s = .next t ∧ t.dies = s.dies.set die 0 ∧
      (s.replicas.getD die false = true → t.pending = []) ∧
      (s.replicas.getD die false = false → t.pending = [{ p with left := [] }])) ∧
    (p.opcode = 0x0F ∨ p.opcode = 0x0E → ∃ t, exec (.selfTestComplete die false) s = .next t ∧ t.dies = s.dies.set die 3 ∧ t.replicas = s.replicas.modify die (fun _ => false) ∧
      t.pending = [] ∧ t.service = s.service ∧ t.units = s.units)

/-- R280, R284: INVAL tells the homes where atomics are withdrawn and waits for every buffer and walker; each drops the entries of the range, once the flagged loads of its core in the range have returned; the last
one completes the command. PGMOVE sets a forwarding entry, the copy moves the page's bytes, and the last core's marker at the new home ends the move. -/
def Obligations.PagesAreInvalidatedAndMoved : Prop :=
  ∀ (s u : State) (qp : Nat) (bs : List Byte), u = takeUp s qp →
    (Takes s qp 0x06 bs →
      (field bs 0x10 8 % 2 ^ 16 ≠ 0 ∨ field bs 0x18 4 = 0 → Refuses s (.inval qp) qp 0x06 0x09 bs) ∧
      (field bs 0x10 8 % 2 ^ 16 = 0 → field bs 0x18 4 ≠ 0 → ∃ t, exec (.inval qp) s = .next t ∧ t.tlb = s.tlb ∧ t.hostOut = s.hostOut ∧
        t.invals = s.invals ++ [{ id := s.nextId, qp, tag := cmdTag bs, base := field bs 0x10 8, pages := field bs 0x18 4, left := List.range 1104 }] ∧
        (∀ e f, e ∈ s.tlb → rangesMeet (field bs 0x10 8) (field bs 0x18 4 * 2 ^ 16) e.base e.size = true → Page.at_ { raw := e.leaf.toNat, size := e.size } = true →
          barsAtomics s e.root e.base = some f → f ∈ t.noAtomic))) ∧
    (∀ v buffer, (s.invals.filter fun x => x.id == v.id) = [v] → buffer ∈ v.left →
      (loadsInRange s v buffer = true → exec (.invalidationAck v.id buffer) s = .next s) ∧
      (loadsInRange s v buffer = false → ∃ t, exec (.invalidationAck v.id buffer) s = .next t ∧
        t.tlb = (s.tlb.filter fun e => !(e.buffer == buffer && rangesMeet v.base (v.pages * 2 ^ 16) e.base e.size)) ∧ t.dram = s.dram ∧
        t.pageMoves = s.pageMoves ∧ t.units = s.units ∧
        (buffer < 1024 → ∀ p ∈ s.pageMoves, rangesMeet v.base (v.pages * 2 ^ 16) p.va p.size = true → buffer ∈ p.cores →
          ∃ m ∈ t.net, m.body = .marker p.id buffer) ∧
        ((∃ b ∈ v.left, b ≠ buffer) → t.hostOut = s.hostOut ∧ { v with left := v.left.filter fun b => b != buffer } ∈ t.invals) ∧
        ((∀ b ∈ v.left, b = buffer) → t.invals = (s.invals.filter fun x => x.id != v.id) ∧
          (∀ r ∈ t.pageReqs, r ∈ s.pageReqs ∧ (r.2 < v.base ∨ v.base + v.pages * 2 ^ 16 ≤ r.2))))) ∧
    (Takes s qp 0x07 bs → ∀ size, size = sizeOfCode (field bs 0x18 1) →
      (2 < field bs 0x18 1 ∨ field bs 0x10 8 % size ≠ 0 ∨ 7 < field bs 0x19 1 ∨ 7 < field bs 0x1A 1 ∨ field bs 0x20 8 % size ≠ 0 ∨ field bs 0x28 8 % size ≠ 0 →
        Refuses s (.pgmove qp) qp 0x07 0x09 bs) ∧
      (∀ old new, field bs 0x18 1 ≤ 2 → field bs 0x10 8 % size = 0 → field bs 0x10 8 < 2 ^ 56 → field bs 0x19 1 ≤ 7 → field bs 0x1A 1 ≤ 7 →
        field bs 0x20 8 % size = 0 → field bs 0x28 8 % size = 0 → field bs 0x20 8 + size ≤ crucibleBase → field bs 0x28 8 + size ≤ crucibleBase →
        old = field bs 0x19 1 * 2 ^ 36 + field bs 0x20 8 → new = field bs 0x1A 1 * 2 ^ 36 + field bs 0x28 8 → old ≠ new →
        ∃ t p, exec (.pgmove qp) s = .next t ∧ t.pageMoves = s.pageMoves ++ [p] ∧ p.va = field bs 0x10 8 ∧ p.size = size ∧ p.oldPa = old ∧ p.newPa = new ∧
          p.copied = false ∧ p.cores = List.range 1024 ∧ t.dram = s.dram)) ∧
    (∀ p, (s.pageMoves.find? fun q => q.id == p.id && !q.copied) = some p →
      ∃ t, exec (.pageCopyComplete p.id) s = .next t ∧ t.units = s.units ∧ t.spad = s.spad ∧
        (t.pageMoves = s.pageMoves.map fun q => if q.id = p.id then { q with copied := true } else q) ∧
        (p.oldPa + p.size ≤ p.newPa ∨ p.newPa + p.size ≤ p.oldPa → Memory.wf s.dram = true →
          (∀ k, k < p.size → Memory.read t.dram (p.newPa + k) = Memory.read s.dram (p.oldPa + k)) ∧
          (∀ a, a < p.newPa ∨ p.newPa + p.size ≤ a → Memory.read t.dram a = Memory.read s.dram a))) ∧
    (∀ m msg p core, s.ready? m = some msg → msg.body = .marker p.id core → (s.pageMoves.find? fun q => q.id == p.id) = some p → routeUp s msg.src msg.dst = true →
      (msg.dst ≠ 8 + p.newPa / 2 ^ 36 → ∃ t, exec (.pageMoveMarker m) s = .next t ∧ t.pageMoves = s.pageMoves ∧
        t.net = (s.net.filter fun x => x.id != m) ++ [{ id := s.nextId, cls := .request, src := core, dst := 8 + p.newPa / 2 ^ 36, body := .marker p.id core }]) ∧
      (msg.dst = 8 + p.newPa / 2 ^ 36 → (p.copied = false → exec (.pageMoveMarker m) s = .next s) ∧
        (p.copied = true → ∃ t, exec (.pageMoveMarker m) s = .next t ∧ t.net = (s.net.filter fun x => x.id != m) ∧
          ((∃ c ∈ p.cores, c ≠ core) → { p with cores := p.cores.filter fun c => c != core } ∈ t.pageMoves) ∧
          ((∀ c ∈ p.cores, c = core) → t.pageMoves = (s.pageMoves.filter fun q => q.id != p.id) ∧
            ∀ r, s.sessionRoot = some r → t.sessionRoot = some (if p.oldPa ≤ r ∧ r < p.oldPa + p.size then p.newPa + (r - p.oldPa) else r)))))

end Commands

namespace Sys2Proof.Claims
open Sys2Proof.Machine

/-- The module event of a code and detail (R343, R370): a record of kind 8 on every queue pair that is not in the error state, and nothing else. -/
structure Tells (s t : State) (code detail : Nat) : Prop where
  state : { t with
    qps := s.qps
    hostOut := s.hostOut } = s
  told : ∀ q ∈ s.qps, (∀ r ∈ s.qps, r.id = q.id → r = q) → q.error = false → q.held = [] → (q.cqTail + 2 ^ 32 - q.cqHead) % 2 ^ 32 ≠ q.cqCount →
    HostOut.completion q.id (q.cqTail % q.cqCount) (Completion.bytes { kind := 8, opcode := 0, reason := code, region := 0, tag := 0, detail := detail, time := s.now }) ∈ t.hostOut

/-- A frame of another module whose header agrees with this one (R344, R345). -/
def Agrees (s : State) (f : Frame) : Prop := s.devNum ≠ 0 ∧ f.version = 1 ∧ f.session = s.sessionId ∧ f.dstDev = s.devNum ∧ f.cls ≤ 1 ∧ f.w = s.window

/-- The acknowledgement that goes to a module (R344): the bytes of its header, on the port bound to that module (R339). -/
def ackOf (s : State) (dev cls seq : Nat) : PortFrame :=
  { port := portOf s dev
    head := [1, 2] ++ bytesLE 1 cls ++ [0] ++ bytesLE 2 s.devNum ++ bytesLE 2 dev ++ bytesLE 4 s.sessionId ++ [0, 0, 0, 0] ++ bytesLE 4 seq ++ [0, 0] ++
      bytesLE 1 s.window ++ List.replicate 9 0
    body := none }

end Sys2Proof.Claims

section HostAndPeers
open Sys2Proof Sys2Proof.Machine Sys2Proof.Claims

/-- R308, R339 to R341: a queue pair's set-up; the host's two doorbell words; RDMA writes and reads by physical address until SESSION has completed and by virtual
address after, a failing one breaking the pair; no RoCE atomic; another first message than a set-up breaks the connection. The places of the items in a set-up SEND are the model's choice (log 26). -/
def Sys2Proof.Claims.HostAccesses : Prop :=
  ∀ (s : State) (qp : Nat),
    (∀ bytes, (∃ q ∈ s.qps, q.id = qp ∧ q.error = false) → ∃ t, exec (.queuePairSetup qp bytes) s = .next t ∧
      t.hostOut = s.hostOut ++ [.nakInvalid qp, .broken qp] ∧ (∀ q ∈ t.qps, q.id = qp → q.error = true) ∧ t.dram = s.dram) ∧
    (∀ bytes, (∀ q ∈ s.qps, q.id = qp → q.error = true) → (s.qps.filter fun q => !q.error).length < 64 →
      (bytes.length ≠ 64 ∨ field bytes 0 8 % 4096 ≠ 0 → exec (.queuePairSetup qp bytes) s = .next { s with hostOut := s.hostOut ++ [.nakInvalid qp, .broken qp] }) ∧
      (∀ j k, j ≤ 12 → k ≤ 12 → bytes.length = 64 → field bytes 0 8 % 4096 = 0 → field bytes 8 4 = 16 * 2 ^ j → field bytes 0x18 4 = 16 * 2 ^ k →
        ∃ t q, exec (.queuePairSetup qp bytes) s = .next t ∧ t.qps = (s.qps.filter fun x => x.id != qp) ++ [q] ∧ q.id = qp ∧ q.cmdBase = field bytes 0 8 ∧
          q.cmdCount = 16 * 2 ^ j ∧ q.cqCount = 16 * 2 ^ k ∧ (q.physical = true ↔ s.sessionRoot = none) ∧ q.cmdTail = 0 ∧ q.cmdHead = 0 ∧ q.cqHead = 0 ∧
          q.cqTail = 0 ∧ q.error = false ∧ t.hostOut = s.hostOut ++ [.setupReply qp (Config.doorbell qp)])) ∧
    (∀ q tail, s.qp? qp = some q → q.error = false →
      (q.cmdCount < (tail.toNat + 2 ^ 32 - q.cmdHead) % 2 ^ 32 → ∃ t, exec (.cmdTail qp tail) s = .next t ∧ t.qp? qp = some { q with error := true } ∧
        t.hostOut = s.hostOut ++ [.broken qp]) ∧
      ((tail.toNat + 2 ^ 32 - q.cmdHead) % 2 ^ 32 ≤ q.cmdCount → ∃ t, exec (.cmdTail qp tail) s = .next t ∧ t.qp? qp = some { q with cmdTail := tail.toNat } ∧
        t.hostOut = s.hostOut)) ∧
    (∀ q head, s.qp? qp = some q → q.error = false →
      (q.held = [] → ∃ t, exec (.cqHead qp head) s = .next t ∧ t.qp? qp = some { q with cqHead := head.toNat } ∧ t.hostOut = s.hostOut) ∧
      (∀ c, q.held = [c] → (q.cqTail + 2 ^ 32 - head.toNat) % 2 ^ 32 ≠ q.cqCount → ∃ t, exec (.cqHead qp head) s = .next t ∧
        t.qp? qp = some { q with
          cqHead := head.toNat
          cqTail := (q.cqTail + 1) % 2 ^ 32
          held := [] } ∧
        t.hostOut = s.hostOut ++ [.completion qp (q.cqTail % q.cqCount) (Completion.bytes { c with time := s.now }), .cqTail qp ((q.cqTail + 1) % 2 ^ 32)])) ∧
    (∀ q addr bytes len, s.qp? qp = some q → q.error = false → (∀ d ∈ s.qps, ¬(Config.doorbell d.id ≤ addr.toNat ∧ addr.toNat < Config.doorbell d.id + 64)) →
      (hostStacksUp s addr.toNat bytes.length = true → ∀ t, hostWrite s s.noSession addr.toNat bytes = some t →
        exec (.rdmaWrite qp addr bytes) s = .next { t with hostOut := t.hostOut ++ [.writeAck qp] }) ∧
      (hostStacksUp s addr.toNat bytes.length = false ∨ hostWrite s s.noSession addr.toNat bytes = none → ∃ t x, exec (.rdmaWrite qp addr bytes) s = .next t ∧ t.qp? qp = some x ∧ x.error = true ∧
        .nakAccess qp ∈ t.hostOut) ∧
      (hostStacksUp s addr.toNat len = true → ∀ bs, hostRead s s.noSession addr.toNat len = some bs →
        exec (.rdmaRead qp addr len) s = .next { s with hostOut := s.hostOut ++ [.readData qp bs] }) ∧
      (hostStacksUp s addr.toNat len = false ∨ hostRead s s.noSession addr.toNat len = none → ∃ t x, exec (.rdmaRead qp addr len) s = .next t ∧ t.qp? qp = some x ∧ x.error = true ∧
        .nakAccess qp ∈ t.hostOut)) ∧
    (∀ a bs, s.sessionRoot = none → a + bs.length ≤ 2 ^ 39 → s.dramPoison = [] → ∃ t, hostWrite s true a bs = some t ∧
      t.dram = Memory.writeBytes s.dram a bs ∧ hostRead s true a bs.length = some (Memory.readBytes s.dram a bs.length)) ∧
    (∀ q, s.qp? qp = some q → exec (.roceAtomic qp) s = .next { s with hostOut := s.hostOut ++ [.nakInvalid qp] }) ∧
    (s.qp? qp = none → ∀ addr bytes len, ∀ i ∈ [Instr.rdmaWrite qp addr bytes, .rdmaRead qp addr len, .roceAtomic qp],
      exec i s = .next { s with hostOut := s.hostOut ++ [.nakInvalid qp, .broken qp] })

/-- R344, R345, R347: a frame whose header disagrees is discarded, with the event *window mismatch* where W does, once for each change; one that is the next of its
class is delivered, another is not; what has come in order is acknowledged; an acknowledgement frees the frames up to it. -/
def Sys2Proof.Claims.FramesArriveInOrder : Prop :=
  ∀ (s : State) (k : Nat) (p : PortFrame) (f : Frame) (e : State), s.env.wire[k]? = some p → f = p.frame → e = { s with env := { s.env with wire := s.env.wire.eraseIdx k } } →
    (∀ i, (f.ftype = 1 ∧ i = Instr.griernDataFrame k) ∨ (f.ftype = 2 ∧ i = Instr.griernAckFrame k) →
      (s.devNum = 0 ∨ f.version ≠ 1 ∨ f.session ≠ s.sessionId ∨ f.dstDev ≠ s.devNum ∨ 1 < f.cls → exec i s = .next e) ∧
      (s.devNum ≠ 0 → f.version = 1 → f.session = s.sessionId → f.dstDev = s.devNum → f.cls ≤ 1 → f.w ≠ s.window →
        ((f.srcDev, f.w) ∈ s.mismatched → exec i s = .next e) ∧
        ((f.srcDev, f.w) ∉ s.mismatched → f.w < 256 → s.window < 256 → f.srcDev < 4096 → ∃ t, exec i s = .next t ∧
          Tells { e with mismatched := (f.srcDev, f.w) :: s.mismatched.filter fun p => p.1 != f.srcDev } t 0x0002
            (f.srcDev + 65536 * f.w + 16777216 * s.window)))) ∧
    (Agrees s f → f.ftype = 1 → f.seq ≠ ((pathOf s f.srcDev f.cls).recvSeq + 1) % 2 ^ 32 →
      exec (.griernDataFrame k) s = .next { e with frameOut := s.frameOut ++ [ackOf s f.srcDev f.cls (pathOf s f.srcDev f.cls).recvSeq] }) ∧
    (Agrees s f → f.ftype = 1 → f.seq = ((pathOf s f.srcDev f.cls).recvSeq + 1) % 2 ^ 32 → s.pending = [] →
      (f.body = none → ∃ t, exec (.griernDataFrame k) s = .next t ∧ t.frameOut = s.frameOut ++ [ackOf s f.srcDev f.cls f.seq] ∧
        (pathOf t f.srcDev f.cls).recvSeq = f.seq ∧ t.net = s.net ∧ t.units = s.units) ∧
      (∀ m id err, f.body = some m → m.body = .ack id err → ∃ t, exec (.griernDataFrame k) s = .next t ∧ (pathOf t f.srcDev f.cls).recvSeq = f.seq ∧
        t.net = s.net ++ [{ id := s.nextId, cls := .reply, src := peerSrc f.srcDev p.port, dst := postedDie s id, body := .ack id err }] ∧ t.units = s.units) ∧
      (∀ m region n a, f.body = some m → m.body = .overrun region n a → ∃ t, exec (.griernDataFrame k) s = .next t ∧ (pathOf t f.srcDev f.cls).recvSeq = f.seq ∧
        t.net = s.net ++ [{ id := s.nextId, cls := .request, src := peerSrc f.srcDev p.port, dst := 16, body := .overrun region n a }] ∧ t.units = s.units)) ∧
    (Agrees s f → f.ftype = 2 → s.pending = [] → ∃ t, exec (.griernAckFrame k) s = .next t ∧ t.frameOut = s.frameOut ∧
      (pathOf t f.srcDev f.cls).unacked = ((pathOf s f.srcDev f.cls).unacked.filter fun x => decide (2 ^ 31 ≤ (f.ackSeq + 2 ^ 32 - x.1.seq) % 2 ^ 32)) ∧
      (pathOf t f.srcDev f.cls).recvSeq = (pathOf s f.srcDev f.cls).recvSeq ∧ t.net = s.net)

/-- R344: frames not acknowledged for 20 µs are sent again; one that has been sent 16 times fails the path to its module, and the event *peer unreachable* is
written. -/
def Sys2Proof.Claims.FramesAreSentAgain : Prop :=
  ∀ (s : State) (dev cls : Nat) (p : Path), p = pathOf s dev cls → cls ≤ 1 →
    ((∀ f ∈ p.unacked, s.now < f.2.1 + 20000) → exec (.griernResendTimer dev cls) s = .next s) ∧
    ((∃ f ∈ p.unacked, f.2.1 + 20000 ≤ s.now) → (∀ f ∈ p.unacked, f.2.1 + 20000 ≤ s.now → f.2.2 < 16) →
      ∃ t, exec (.griernResendTimer dev cls) s = .next t ∧
        t.frameOut = s.frameOut ++ (p.unacked.filter fun f => decide (f.2.1 + 20000 ≤ s.now)).map (fun f => { port := portOf s f.1.dstDev, head := f.1.header, body := f.1.body }) ∧
        (pathOf t dev cls).unacked = (p.unacked.map fun f => if f.2.1 + 20000 ≤ s.now then (f.1, s.now, f.2.2 + 1) else f) ∧
        (pathOf t dev cls).sendSeq = p.sendSeq ∧ t.units = s.units) ∧
    (∀ f, p.unacked = [f] → f.2.1 + 20000 ≤ s.now → 16 ≤ f.2.2 → f.1.body = none → (∀ c, c ≤ 1 → c ≠ cls → (pathOf s dev c).unacked = []) → s.pending = [] →
      ∃ u t, exec (.griernResendTimer dev cls) s = .next t ∧ Tells u t 0x0001 dev ∧ u.units = s.units ∧ u.qps = s.qps ∧ u.hostOut = s.hostOut ∧
        (∀ c, c ≤ 1 → (pathOf t dev c).failed = true ∧ (pathOf t dev c).unacked = []) ∧ (pathOf t dev cls).sendSeq = f.1.seq)

end HostAndPeers

section Services
open Sys2Proof Sys2Proof.Machine Sys2Proof.Claims

/-- R218, R337, R338: a flit that fails its check is sent again, counted on its lane, and discarded after its third failure, with an error record; what its sender sends
again stays, a request comes back with fault 0x18. Lanes with more than 64 corrected errors in a window, or a bad eye, are lasting; a lasting lane takes a spare of
its direction, then halves its link, then fails it. -/
def Sys2Proof.Claims.LinksFailInSteps : Prop :=
  ∀ (s : State) (link lane : Nat) (l : Link), s.links[link]? = some l →
    (∀ m msg k old, s.msg? m = some msg → link ∈ routeLinks (sourceDie msg.src) msg.dst → l.state ≠ 2 → lane < linkLanes link + spareLanes link →
      k = 256 * linkDir (sourceDie msg.src) msg.dst link + lane → old = (if s.now / 1000000 = l.windowAt / 1000000 then l.errors else []) →
      (countAt l.retries m < 2 → ∃ x, exec (.flitCrcError link lane m) s = .next { s with links := s.links.set link x } ∧ x.state = l.state ∧ x.spares = l.spares ∧
        x.half = l.half ∧ x.retries = insertKey m (countAt l.retries m + 1) l.retries ∧ countAt x.errors k = countAt old k + 1 ∧
        (∀ j, j ≠ k → countAt x.errors j = countAt old j ∧ (j ∈ x.lasting ↔ j ∈ l.lasting)) ∧ (k ∈ x.lasting ↔ k ∈ l.lasting ∨ 64 ≤ countAt old k)) ∧
      (2 ≤ countAt l.retries m → ∀ e : State, e = { s with links := s.links.set link { l with retries := eraseKey m l.retries } } →
        (∃ t r, exec (.flitCrcError link lane m) s = .next t ∧ r.typ = 3 ∧ r.code = 0x18 ∧
          (((∃ id err, msg.body = .ack id err) ∨ (∃ c, msg.body = .call c ∨ msg.body = .retry c) ∨ (∃ c, msg.body = .reply c) ∨
              (∃ id acc n g, msg.body = .posted id acc n g) ∨ (∃ uid core acc d, msg.body = .spad uid core acc d) ∨
              (∃ a b c d i, msg.body = .round a b c d i) ∨ (∃ a b c d i, msg.body = .flush a b c d i) ∨ (∃ a b c, msg.body = .joinCells a b c)) →
            (∀ la, messageLaunch s msg.body = some la → t.dram = (errorRecord e la { r with origin := la.node.regionId }).dram) ∧
            (messageLaunch s msg.body = none → t.dram = (rootRecord e r).dram))) ∧
        ((∃ id err, msg.body = .ack id err) ∨ (∃ c, msg.body = .call c ∨ msg.body = .retry c) ∨ (∃ c, msg.body = .reply c) ∨
            (∃ id acc n g, msg.body = .posted id acc n g) → ∃ t, exec (.flitCrcError link lane m) s = .next t ∧ t.net = (s.net.filter fun x => x.id != m) ∧
          t.units = s.units ∧ t.calls = s.calls ∧ t.posted = s.posted) ∧
        ((∃ a b c d i, msg.body = .round a b c d i) ∨ (∃ a b c d i, msg.body = .flush a b c d i) ∨ (∃ a b c, msg.body = .joinCells a b c) →
          ∃ t, exec (.flitCrcError link lane m) s = .next t ∧ t.net = s.net ∧ t.units = s.units) ∧
        (∀ uid core acc d g, msg.body = .spad uid core acc d → s.unit? uid = some g → ∃ t, exec (.flitCrcError link lane m) s = .next t ∧
          t.net = (s.net.filter fun x => x.id != m) ∧ t.unit? uid = some (bankAnswer g [] (some (0x18, (acc.strands.head?.map fun x => x.va).getD 0)))) ∧
        (∀ v g, msg.body = .move v.id → (s.moves.find? fun x => x.id == v.id) = some v → owedUnit s v.gid v.mask = some g → s.unit? g.uid = some g →
          g.loc = .resident → g.core = v.core → v.flag < 12 → ∃ t h f, exec (.flitCrcError link lane m) s = .next t ∧ t.moves = (s.moves.filter fun x => x.id != v.id) ∧
            t.unit? g.uid = some h ∧ h.flag v.flag = { set := false, pending := some f } ∧ f.code = 0x51 ∧ f.inner = 0x18))) ∧
    (∀ bad, ∃ x, exec (.laneSampleWindow link bad) s = .next { s with links := s.links.set link x } ∧ x.state = l.state ∧ x.spares = l.spares ∧ x.half = l.half ∧
      x.errors = (if s.now / 1000000 = l.windowAt / 1000000 then l.errors else []) ∧ x.windowAt / 1000000 = s.now / 1000000 ∧
      ∀ k, k ∈ x.lasting ↔ k ∈ l.lasting ∨ (k ∈ bad ∧ k < 512 ∧ k % 256 < linkLanes link + spareLanes link)) ∧
    (lane ∈ l.lasting → l.state ≠ 2 → link < 42 → ∀ spares, spares = (if lane / 256 = 0 then l.spares.1 else l.spares.2) →
      (0 < spares → exec (.laneSpareSwap link lane) s = .next { s with links := s.links.set link { l with
          lasting := l.lasting.filter fun k => k != lane
          spares := if lane / 256 = 0 then (l.spares.1 - 1, l.spares.2) else (l.spares.1, l.spares.2 - 1) } }) ∧
      (spares = 0 → lane / 256 ∉ l.half → ∃ t, exec (.laneSpareSwap link lane) s = .next t ∧ Tells { s with links := s.links.set link { l with
          lasting := l.lasting.filter fun k => k != lane
          half := lane / 256 :: l.half
          state := 1 } } t 0x0005 (link + 256 * (linkLanes link / 2))) ∧
      (spares = 0 → lane / 256 ∈ l.half → ∃ t, exec (.laneSpareSwap link lane) s = .next t ∧ Tells { s with links := s.links.set link { l with
          lasting := l.lasting.filter fun k => k != lane
          state := 2 } } t 0x0006 link)) ∧
    (lane ∉ l.lasting ∨ l.state = 2 ∨ 42 ≤ link → exec (.laneSpareSwap link lane) s = .next s)

/-- R346: a message gives the servo an estimate and a slew of at most 200 ppm, `PTIME` itself being set by the first (log 35); the clock is locked after the estimate
has stayed within 100 ns for 1 s, and no longer once it exceeds 125 ns. -/
def Sys2Proof.Claims.TimeIsKept : Prop :=
  ∀ (s : State),
    (∀ port slew offset, port < 2 → ∃ t, exec (.ieee1588Message port slew offset) s = .next t ∧ t.ptimeSet = true ∧ -200 ≤ t.slew ∧ t.slew ≤ 200 ∧
      (-200 ≤ slew → slew ≤ 200 → t.slew = slew) ∧ t.locked = s.locked ∧ t.now = s.now ∧ t.units = s.units ∧
      (s.ptimeSet = true → t.ptime = s.ptime ∧ t.offset = offset ∧
        ((-100 ≤ offset ∧ offset ≤ 100) → t.lockSince = some (s.lockSince.getD s.now)) ∧ ((offset < -100 ∨ 100 < offset) → t.lockSince = none)) ∧
      (s.ptimeSet = false → (t.ptime : Int) = max 0 ((s.ptime : Int) - offset) ∧ t.offset = 0)) ∧
    (∀ port slew offset, 2 ≤ port → exec (.ieee1588Message port slew offset) s = .next s) ∧
    (∀ t0, s.lockSince = some t0 → s.locked = false → t0 + 1000000000 ≤ s.now → s.pending = [] →
      ∃ t, exec (.timeLocked (BitVec.ofInt 32 s.offset)) s = .next t ∧ Tells { s with locked := true } t 0x0003 (BitVec.ofInt 32 s.offset).toNat) ∧
    (∀ w, s.lockSince = none ∨ (∃ t0, s.lockSince = some t0 ∧ s.now < t0 + 1000000000) → exec (.timeLocked w) s = .next s) ∧
    (s.locked = true → s.offset < -125 ∨ 125 < s.offset →
      ∃ t, exec (.timeLockLost (BitVec.ofInt 32 s.offset)) s = .next t ∧ Tells { s with locked := false } t 0x0004 (BitVec.ofInt 32 s.offset).toNat) ∧
    (∀ w, s.locked = false ∨ (-125 ≤ s.offset ∧ s.offset ≤ 125) → exec (.timeLockLost w) s = .next s)

/-- R257, R351, R352: the loss of a cooling loop writes event 0x0007, the loss of the bottom one changes clocks alone, that of the top one halts the holders of licences on upper dies; with both lost every launch is pre-empted, and the
stacks with power lose it, and their contents, once they pass their limit; a loop comes back with event 0x0008. A parked stack that an access waits for wakes. -/
def Sys2Proof.Claims.CoolingAndWaking : Prop :=
  ∀ (s : State),
    (s.bottomLost = false → s.topLost = false → ∃ t, exec (.coolingLoopLost true) s = .next t ∧ Tells { s with bottomLost := true } t 0x0007 1) ∧
    (s.bottomLost = false → s.topLost = false → ∃ t, exec (.coolingLoopLost false) s = .next t ∧ t.topLost = true ∧ t.bottomLost = false ∧ t.service = s.service ∧
      t.dram = s.dram ∧ (∃ u, Tells { s with topLost := true } u 0x0007 0 ∧ t.hostOut = u.hostOut ∧ t.qps = u.qps) ∧
      ∀ g ∈ s.units, (∀ h ∈ s.units, h.uid = g.uid → h = g) →
        ((∀ p ∈ s.pairs, p.holder ≠ some g.gid) → g.halting = false → g ∈ t.units) ∧
        ((∃ p ∈ s.pairs, p.holder = some g.gid ∧ isUpper p.core = true) → g.loc = .resident → ∃ h ∈ t.units, h.uid = g.uid ∧ h.halting = true)) ∧
    ((s.bottomLost = false ∧ s.topLost = true) ∨ (s.bottomLost = true ∧ s.topLost = false) → ∀ b, b = s.topLost →
      ∃ t, exec (.coolingLoopLost b) s = .next t ∧ t.topLost = true ∧ t.bottomLost = true ∧
        ∀ l ∈ s.launches, l.ended = false → l.killed = none → (∃ n ∈ l.chain, n.addr = 0) → { l with preempted := true } ∈ t.launches) ∧
    (s.bottomLost = true → exec (.coolingLoopLost true) s = .next s) ∧ (s.topLost = true → exec (.coolingLoopLost false) s = .next s) ∧
    (s.pending = [] → s.bottomLost = true → ∃ t, exec (.coolingLoopRestored true) s = .next t ∧ Tells { s with bottomLost := false } t 0x0008 1) ∧
    (s.pending = [] → s.topLost = true → ∃ t, exec (.coolingLoopRestored false) s = .next t ∧ Tells { s with topLost := false } t 0x0008 0) ∧
    (s.topLost = false ∨ s.bottomLost = false → exec .dramOverLimit s = .next s) ∧
    (s.topLost = true → s.bottomLost = true → s.dies.length = 16 → ∃ t, exec .dramOverLimit s = .next t ∧
      (∀ h, h < 8 → s.dies.getD (8 + h) 2 ≤ 1 → t.dies.getD (8 + h) 0 = 2 ∧ ∀ c ∈ t.dram, c.1 / 2 ^ 36 ≠ h) ∧
      (∀ c ∈ s.dram, 2 ≤ s.dies.getD (8 + c.1 / 2 ^ 36) 2 → c ∈ t.dram) ∧ (∀ d, d < 8 → t.dies.getD d 0 = s.dies.getD d 0)) ∧
    (∀ h, s.dies.getD (8 + h) 0 = 1 → (∃ m ∈ s.net, m.dst = 8 + h) → exec (.stackWake h) s = .next { s with dies := s.dies.set (8 + h) 0 }) ∧
    (∀ h, s.dies.getD (8 + h) 0 ≠ 1 ∨ (∀ m ∈ s.net, m.dst ≠ 8 + h) → exec (.stackWake h) s = .next s)

/-- R348, R350: reset leaves S0, no session, no launch, no lattice region, no peer; the contents of the memories stay (log 37), and no record is written. -/
def Sys2Proof.Claims.ResetDiscards : Prop :=
  ∀ (s : State), ∃ t, exec .deviceReset s = .next t ∧ t.service = 0 ∧ t.sessionRoot = none ∧ t.devNum = 0 ∧ t.units = [] ∧ t.slots = [] ∧ t.launches = [] ∧
    t.latRegions = [] ∧ t.lat = [] ∧ t.peers = [] ∧ t.qps = [] ∧ t.net = [] ∧ t.owners = [] ∧ t.tlb = [] ∧ t.now = 0 ∧ t.window = State.reset.window ∧
    t.dram = s.dram ∧ t.spad = s.spad ∧ t.hostOut = s.hostOut ∧ t.frameOut = s.frameOut

/-- R270, R273, R353, R354: corrected errors are counted per row for 10 minutes, the fourth uses a spare row of its bank, of 16, then marks the row lasting with event
0x000B; uncorrectable errors poison their granule, restore a lattice word from its replica's neighbour, kill the domain of the unit they hit, or degrade
a stack; a scrub changes nothing. -/
def Sys2Proof.Claims.MemoryErrorsAreHandled : Prop :=
  ∀ (s : State) (stack bank row : Nat), stack < 8 → ∀ hit, hit = (fun r : RowCount => r.stack == stack && r.bank == bank && r.row == row) →
    (∀ old, old = (((s.rowCounts.find? hit).map fun r => r.times).getD []).filter (fun t => decide (s.now < t + 600000000000)) →
      (∀ r, s.rowCounts.find? hit = some r → r.lasting = true → exec (.dramCorrectedError stack bank row) s = .next s) ∧
      ((∀ r, s.rowCounts.find? hit = some r → r.lasting = false) →
        (old.length < 3 → exec (.dramCorrectedError stack bank row) s = .next { s with
            rowCounts := { stack, bank, row, times := s.now :: old, lasting := false } :: s.rowCounts.filter fun r => !hit r }) ∧
        (3 ≤ old.length → sparesUsed s stack bank < 16 → ∃ t, exec (.dramCorrectedError stack bank row) s = .next t ∧
          t.rowCounts = (s.rowCounts.filter fun r => !hit r) ∧ t.dram = s.dram ∧ t.hostOut = s.hostOut) ∧
        (3 ≤ old.length → 16 ≤ sparesUsed s stack bank → ∃ t, exec (.dramCorrectedError stack bank row) s = .next t ∧
          Tells { s with rowCounts := { stack, bank, row, times := [], lasting := true } :: s.rowCounts.filter fun r => !hit r } t 0x000B
            (stack + 256 * (Config.rowAddr stack bank row % 2 ^ 36))))) ∧
    (∀ g, g < 2 ^ 34 → exec (.uncorrectableError 0 g) s = .next { s with dramPoison := insertNat g s.dramPoison }) ∧
    (∀ b, exec (.uncorrectableError 1 b) s = .next { s with spadPoison := insertNat b s.spadPoison }) ∧
    (∀ die off d c, die < 2 ^ 20 → off < 2 ^ 24 → (ringPartners s die).head? = some d → (s.lat.find? fun c => c.key == latKey d off) = some c →
      ∃ t, exec (.uncorrectableError 2 (die * 2 ^ 24 + off)) s = .next t ∧ { c with
        key := die * 2 ^ 24 + off
        changed := s.now } ∈ t.lat ∧ (t.lat.filter fun x => x.key != die * 2 ^ 24 + off) = s.lat.filter fun x => x.key != die * 2 ^ 24 + off) ∧
    (∀ g, s.unit? g.uid = some g → g.loc ≠ .away → g.visitor = none → ∃ t, exec (.uncorrectableError 3 g.uid) s = .next t ∧
      Killed s t (domainOf s (launchOf s g)) 0x7F) ∧
    (∀ entry, entry < 2 ^ 16 → ∃ t, exec (.uncorrectableError 4 (stack * 2 ^ 16 + entry)) s = .next t ∧ t.degraded = insertNat stack s.degraded ∧
      (∀ g ∈ Config.remapGranules stack entry, g / 2 ^ 31 = stack → g ∈ t.dramPoison) ∧ t.dram = s.dram) ∧
    (∀ a b c, exec (.patrolScrub a b c) s = .next s)

end Services

namespace Sys2Proof.Claims
open Sys2Proof.Machine

/-- The FP formats of R107. -/
def formats : List Fmt := [.fp32, .fp16, .bf16, .e4m3, .e5m2, .e3m2, .e2m3, .e2m1]

/-- The rational number that an exact value denotes; infinities and NaN denote none. -/
def ratOf : FVal → Option Rat
  | .fin neg m e => some ((if neg then -1 else 1) * (m : Rat) * (2 : Rat) ^ e)
  | _ => none

/-- The magnitude of a code without its sign (R107). -/
def magnitude (f : Fmt) (k : Nat) : Rat := ((ratOf (f.value k)).getD 0)

/-- The distance between two rational numbers. -/
def gap (x y : Rat) : Rat := if x ≤ y then y - x else x - y

/-- A rounding mode rounds a number of a sign toward zero (R109). -/
def towardZero (rm : Nat) (neg : Bool) : Prop := rm = 1 ∨ (rm = 2 ∧ neg = true) ∨ (rm = 3 ∧ neg = false)

/-- A rounding mode rounds a number of a sign away from zero. -/
def awayFromZero (rm : Nat) (neg : Bool) : Prop := (rm = 2 ∧ neg = false) ∨ (rm = 3 ∧ neg = true)

/-- A pending write that an instruction with these distances sees for one strand of a register (R82). -/
def seen (r : Reg) (j : Nat) (e : PendWrite) : Prop := e.reg = r ∧ inMask e.mask j = true ∧ e.cls ≤ e.k

/-- The bundle in which a unit's pc stands, entered or just read under one translation, and the state with it (R78, R80). -/
def Entered (v : State) (g : Group) (b : Bundle) (base : State) : Prop :=
  (g.bundle = some b ∧ b.addr = g.pc / 16 * 16 ∧ b.words ≠ [] ∧ base = v) ∨
  (g.bundle = none ∧ ∃ lo hi t, readBundle v g (g.pc / 16 * 16) = .ok (lo, hi, t) ∧ base = t.putUnit { g with bundle := some b } ∧ b = {
    addr := g.pc / 16 * 16
    hallmark := lowWord lo
    words := [highWord lo, lowWord hi, highWord hi]
    entry := g.pc / 4 % 4
    waited := false })

/-- An instruction ends in a fault; one that accesses memory or another core may meet one of step 4 of R91 before it: a far home at S1 (0x42), or one that a load into a
twin register leads to (0x43). -/
def Meets (s : State) (c : Ctx) (i : Instr) (t : State) : Prop :=
  exec i s = .next t ∨ (i.heldByAcquire = true ∧ (c.s.service = 1 ∨ ∃ o ∈ i.opnds c.uni, Ctx.namesTwin o = true) ∧
    (exec i s = .next (c.fail i 0x42 0) ∨ exec i s = .next (c.fail i 0x43 0)))

end Sys2Proof.Claims

section Machine
open Sys2Proof Sys2Proof.Machine Sys2Proof.Claims

/-- THE INVARIANT holds after reset, with what R25, R348 and R350 state of it: S0, no session, nothing launched, time at zero. -/
def Obligations.InvariantAtReset : Prop :=
  State.reset.Inv ∧ State.reset.service = 0 ∧ State.reset.sessionRoot = none ∧ State.reset.devNum = 0 ∧ State.reset.now = 0 ∧ State.reset.launches = [] ∧
    State.reset.units = [] ∧ State.reset.latRegions = [] ∧ State.reset.dram = [] ∧ State.reset.qps = [] ∧ State.reset.peers = []

/-- THE INVARIANT (Safety.lean): both memories in canonical form, a service level and die states that exist, a slew within 200 ppm, a window length of R347, a
SERVICE in progress at a level that exists. Every step keeps it, from every state. -/
def Obligations.InvariantKept : Prop := ∀ s t : State, s.Inv → step s = .next t → t.Inv

/-- R86 to R90: an encoded instruction decodes to itself, with every operand, and a word decodes to at most the instruction that encodes to it; the rows of the table
with a word are those of a major opcode. -/
def Obligations.DecodeAndEncodeAgree : Prop :=
  (∀ (i : Instr) (w : Word), encode i = some w → decodeWord w = .ok i) ∧ (∀ (i : Instr) (w : Word), decodeWord w = .ok i → encode i = some w) ∧
    (∀ w : Word, w.extractLsb' 25 7 ∈ [0x00#7, 0x3E#7, 0x3F#7, 0x67#7, 0x7F#7] → ∃ e, decodeWord w = .error e)

/-- R86 to R90: words written out from the encoding tables decode to their instructions, and words with reserved opcodes or fields to none. -/
def Obligations.DecodeWords : Prop :=
  decodeTableWord 32 0x20142030 = some (.iadd 5 4 3 0) ∧ decodeTableWord 32 0x84101000 = some (.ldw 4 2 0 0) ∧ decodeTableWord 32 0x941C1018 = some (.stw 7 2 1 1 0) ∧
    decodeTableWord 32 0x10000000 = some (.exit 0 0) ∧ decodeTableWord 32 0xDC0C1856 = some (.barSync 3 3 5 1) ∧ decodeTableWord 32 0xC8141002 = some (.lstx 5 2 0 2) ∧
    decodeTableWord 32 0xA1C031E5 = some (.aadd 112 6 7 4 2 1) ∧ decodeTableWord 32 0xF0100030 = some (.csrr 4 0x30) ∧ decodeTableWord 32 0xEC140003 = some (.mlicQry 5) ∧
    decodeTableWord 32 0x500C0821 = some (.fadd 3 1 2 1) ∧ decodeTableWord 32 0 = none ∧ decodeTableWord 32 0xFE000000 = none ∧ decodeTableWord 32 0x02000001 = none

/-- R77 to R81, R85, R317 to R319: when the partition served is that of a unit first in its order, whose trap is not due, and the word at its pc in its bundle decodes to
an instruction, a step is that instruction's meaning at that state, with the hallmark's fields of its slot and its pipe occupied; one that does not issue leaves the
pipes as they were. -/
def Obligations.StepRunsInstruction : Prop :=
  ∀ (s u v base : State) (part uid : Nat) (rest : List Nat) (g : Group) (b : Bundle) (k : Nat) (w : Word) (i : Instr),
    u = tick s → u.env.agenda = [] → u.turn % 2 = 1 → nextPart u = some part → inOrder u part = uid :: rest →
    v = { u with
      lastSeat := part
      env := { u.env with seats := if u.env.seats.head? = some part then u.env.seats.drop 1 else u.env.seats } } →
    v.unit? uid = some g → trapDue v g = false → g.visitor = none → k = g.pc / 4 % 4 → k ≠ 0 → g.pc % 4 = 0 → g.pc < 2 ^ 56 →
    Entered v g b base → b.words[k - 1]? = some w → decodeWord w = .ok i →
    ∃ iss, iss.uid = uid ∧ iss.uni = hallBit b.hallmark k 0 ∧ iss.stay = hallBit b.hallmark k 3 ∧ iss.holdA = hallBit b.hallmark k 2 ∧
      iss.holdB = hallBit b.hallmark k 1 ∧ iss.dist = hallDist b.hallmark k ∧ iss.held = false ∧
      iss.waitMask = (if hallWaitSlot b.hallmark ≠ 0 ∧ b.waited = false ∧ k = max (hallWaitSlot b.hallmark) b.entry then hallWaitFlags b.hallmark else []) ∧
      ∀ x, x = { base with
          cur := iss
          pipes := if g.wait = .none then (base.pipes.filter fun p => p.1 != seatOf g) ++
            [(seatOf g, base.acOf g.core, base.acOf g.core + if iss.uni = true ∧ i.uniForm = 2 then 1 else 4)] else base.pipes } →
        (∀ t, exec i x = .next t → t.cur.held = false → step s = .next { t with cur := Issue.void }) ∧
        (∀ t, exec i x = .next t → t.cur.held = true → rest = [] → step s = .next { t.modUnit uid fun h => { h with holding := true } with
          cur := Issue.void
          pipes := v.pipes }) ∧
        (∀ f, exec i x = .fault f → step s = .fault f)

/-- R139, R317, R320, R322: the unit served first in a partition is one that no other candidate precedes: it holds a reserved pipe, else stands in the pause class only where
every other does, else has the highest class, then the greatest age, then the lowest slot, then the lowest strand. -/
def Obligations.PipesAreServedInOrder : Prop :=
  ∀ (s : State) (part uid : Nat) (rest : List Nat), inOrder s part = uid :: rest →
    ∃ g ∈ candidates s part, g.uid = uid ∧ ∀ h ∈ candidates s part,
      ¬(reserves h = true ∧ reserves g = false) ∧
      (reserves h = reserves g → paused s g = true → paused s h = true) ∧
      (reserves h = reserves g → paused s g = false → paused s h = false → (launchOf s g).node.priority ≤ 7 → (launchOf s h).node.priority ≤ 7 →
        (launchOf s h).node.priority ≤ (launchOf s g).node.priority ∧
        ((launchOf s h).node.priority = (launchOf s g).node.priority → g.age ≤ 65535 → h.age ≤ 65535 → h.age ≤ g.age ∧
          (h.age = g.age → g.slot ≤ h.slot ∧ (h.slot = g.slot → lowest g.mask ≤ lowest h.mask))))

/-- The model stops nowhere: every row of the table answers a next state, in every state; a word issued for no unit of the machine is the model's only fault (a state that no run
reaches; two events that issue their unit's instruction again could meet it). -/
def Obligations.EveryRowAnswers : Prop :=
  ∀ (i : Instr) (s : State),
    (encode i ≠ none → ctx? s ≠ none → ∃ t, exec i s = .next t) ∧ (encode i ≠ none → ctx? s = none → exec i s = .fault .noGroup) ∧
    (encode i = none → (∀ u, i ≠ .callSequenceReuseWait u ∧ i ≠ .latticeWaitLimit u) → ∃ t, exec i s = .next t)

/-- The forms named here complete, each with its own effect, in every state and for all operands that meet the conditions given: EXIT (R136), LATTICE_WAIT_LIMIT (R228), the
rows of control writes (R67, R261, R279, R335), REPLY_OVERDUE (R218), PROMISE_MISSED (R241), REMOTE_BUDGET_EXCEEDED (R214), EXIT_REMOVAL_MESSAGE (R37), RETRY_ARRIVAL (R219),
the licence rows (R246, R255). -/
def Sys2Proof.Claims.InternalFormsComplete : Prop :=
  ∀ s : State,
    (∀ c n p, Issues s (.exit n p) c → exits c n p ≠ 0 → exits c n p = c.g.mask → owed s c.g = [] → pendingOf c.g c.g.awaited = none → c.g.rejoin = 0 → homeOf c.g.gid = none →
      ∃ t, exec (.exit n p) s = .next t ∧ (∀ h ∈ t.units, h.uid ≠ c.g.uid) ∧ t.dram = s.dram ∧ t.spad = s.spad) ∧
    (∀ u st w iss g c d a b f t addr l, s.unit? u = some g → g.wait = .lldw st → slotIssue g = some (w, iss) → latLimit s g ≤ s.now - st →
      decodeWord w = .ok (.lldw d a b f) → Issues { s with cur := iss } (.lldw d a b f) c → s.replicas.getD (dieOf c.g.core) false = true →
      latticeOf c (.lldw d a b f) = some (t, addr, c.active) → c.cells t addr c.active = .ok l →
      (∀ x ∈ l, latLeq t (c.latVal t b.toNat x.1) (latGet s x.2.1.typ (dieOf c.g.core) x.2.2) = true) →
      ∃ y, exec (.latticeWaitLimit u) s = .next y ∧ Done { c with g := { c.g with wait := .none } } y
        (latEffect c t d.toNat (l.map fun x => (x.1, latGet s x.2.1.typ (dieOf c.g.core) x.2.2)))) ∧
    (∀ c, ctx? s = some c →
      (∀ v, (launchOf s c.g).node.persistent = true → (launchOf s c.g).node.hbeatInt ≠ 0 → ∃ t h, exec (.hbeat v) s = .next t ∧ h ∈ t.hearts ∧
        h.region = (launchOf s c.g).node.regionId ∧ h.deadline = s.now + 1000 * (launchOf s c.g).node.hbeatInt ∧ t.units = s.units) ∧
      (∀ (a : DWord) p, a.toNat < 2 ^ 56 → translate s c.g.core (rootOf s c.g) (supervisor s c.g) .locate a.toNat = .ok p →
        ∃ t, exec (.pgreq a) s = .next t ∧ (c.g.core, a.toNat / p.size * p.size) ∈ t.pageReqs ∧ t.units = s.units) ∧
      (∀ n v l, supervisor s c.g = true → s.launch? c.g.launch = some l → ∃ t x, exec (.spadDescriptorWrite n v) s = .next t ∧ t.launch? c.g.launch = some x ∧
        x.spads.getD n.toNat 0 = v &&& 0x7FFFFFFF03FFFFFF#64 ∧ (∀ k, k < 16 → k ≠ n.toNat → x.spads.getD k 0 = l.spads.getD k 0) ∧ t.units = s.units) ∧
      (∀ b v l, supervisor s c.g = true → s.launch? c.g.launch = some l → ∃ t, exec (.trapvec b v) s = .next t ∧ t.units = s.units ∧
        t.launch? c.g.launch = some (if b then { l with rTimeout := max 1 (v.toNat % 65536) } else { l with trapVec := v.toNat }))) ∧
    (∀ k, (s.calls.find? fun x => x.id == k.id) = some k → k.overdue = false → k.deadline ≤ s.now → (∀ g, owedUnit s k.gid k.mask = some g → g.loc ≠ .away) →
      ∃ t, exec (.replyOverdue k.id) s = .next t ∧ { k with overdue := true } ∈ t.calls ∧ t.units = s.units) ∧
    (∀ v, (s.moves.find? fun x => x.id == v.id) = some v → v.missed = false → v.stage < 3 → v.promise ≤ s.now →
      (∀ g, owedUnit s v.gid v.mask = some g → g.loc ≠ .away) →
      ∃ t, exec (.promiseMissed v.id) s = .next t ∧ { v with missed := true, delivered := tmQuiet v.desc } ∈ t.moves ∧ t.units = s.units) ∧
    (∀ u g v, s.unit? u = some g → g.visitor = some v → 4096 ≤ v.issued → g.loc = .resident → g.wait = .none →
      (∀ k ∈ s.cache, ¬(k.stack = v.stack ∧ k.dev = v.srcDev ∧ k.core = v.srcCore ∧ k.seq = v.seq ∧ k.reply = none)) →
      ∃ t, exec (.remoteBudgetExceeded u) s = .next t ∧ t.units = (s.units.filter fun h => h.uid != g.uid) ∧ t.slot? g.core g.slot = none ∧
        t.net = s.net ++ [{ id := s.nextId, cls := .reply, src := g.core, dst := if v.srcDev = 0 then dieOf v.srcCore else 16, body := .reply (bodyFault s g v 0x24 0) }]) ∧
    (∀ m msg gid core bar mask after x r, s.ready? m = some msg → msg.body = .exitRemove gid core bar mask after → bar ≠ 0 →
      recordSlot s gid core bar mask = some (x, r) → r.outerBar = 0 → r.parent &&& ~~~mask ≠ 0 → r.parent &&& ~~~mask ≠ r.arrived →
      ∃ t, exec (.exitRemovalMessage m) s = .next t ∧ t.net = (s.net.filter fun y => y.id != m) ∧ t.units = s.units ∧
        x.putRecord r.bar (some { r with parent := r.parent &&& ~~~mask }) ∈ t.slots) ∧
    (∀ m msg q e rp, s.ready? m = some msg → msg.body = .retry q → stackUp s (stackOf q.dstCore) = true → routeUp s msg.src msg.dst = true →
      s.dies.getD (dieOf q.dstCore) 0 ≠ 1 → moveOver s q.pa = none → moveInto s q.pa = none →
      (s.cache.find? fun e => cacheHit e (stackOf q.dstCore) q) = some e → e.reply = some rp →
      ∃ t, exec (.retryArrival m) s = .next t ∧ t.units = s.units ∧ t.net = (s.net.filter fun y => y.id != m) ++
        [{ id := s.nextId, cls := .reply, src := q.dstCore, dst := if rp.dstDev = 0 then dieOf rp.dstCore else 16, body := .reply rp }]) ∧
    (∀ lower u k g, (s.pair lower).holder = none → (s.pair lower).dying = false → nextWaiter s (s.pair lower) = some (u, k) → s.unit? u = some g →
      ∃ t, exec (.licenceGrant lower) s = .next t ∧ (t.pair lower).holder = some g.gid ∧ (t.pair lower).core = g.core ∧ t.dram = s.dram) ∧
    (∀ lower u g, s.unit? u = some g → wantsLicence s g = true → lower = pairOf g.core → isStackCore g.core = false → licenceFault s g = none →
      (s.pair lower).holder = none → (s.pair lower).waiters = [] →
      ∃ t, exec (.licenceReacquire u) s = .next t ∧ (t.pair lower).holder = some g.gid ∧ (t.pair lower).core = g.core ∧ t.dram = s.dram) ∧
    (∀ lower, (s.pair lower).dying = true → ∃ t, exec (.licenceFreeAfterKill lower) s = .next t ∧ (t.pair lower).holder = none ∧ (t.pair lower).dying = false ∧
      (t.array (s.pair lower).core).m = Matrix.zeroImage ∧ t.units = s.units) ∧
    (∀ m msg lower gid, s.ready? m = some msg → msg.body = .licRelease lower gid → (s.pair lower).holder = some gid → (s.array (s.pair lower).core).ops = [] →
      ∃ t, exec (.licenceReleaseMessage m) s = .next t ∧ (t.pair lower).holder = none ∧ t.net = (s.net.filter fun y => y.id != m) ∧ t.units = s.units)

/-- The forms named here complete, each with its own effect, in every state and for all operands that meet the conditions given: the commands LAUNCH, RESUME, RESUMEENTRY,
CLROVR, LATRET, SETWIN, INVENTORY and SESSION and an unknown command (R333, R342, R343), INVALIDATION_ACK, PAGE_COPY_COMPLETE and PAGE_MOVE_MARKER (R280, R284),
LAUNCH_COMPLETION of a killed launch (R329), ROCE_ATOMIC (R340), PATROL_SCRUB (R353). -/
def Sys2Proof.Claims.HostFormsComplete : Prop :=
  ∀ (s u : State) (qp : Nat) (bs : List Byte), u = takeUp s qp →
    (∀ l lat, Takes s qp 0x01 bs → launchOfRecord u qp bs = .ok (l, lat) → ∃ t, exec (.launch qp) s = .next t ∧ t.launches = s.launches ++ [l]) ∧
    (∀ ls, Takes s qp 0x03 bs → ls = ((coveredBy u (nodeKey u (field bs 0x10 8))).filter fun l => l.preempted) → noteNode u (field bs 0x10 8) = u →
      (∀ p ∈ s.preempts, p.saveTold = true) → (∀ x ∈ s.saved, x.kind ≠ 2 ∧ (x.used = true → ∀ l ∈ ls, l.idx ≠ x.launch)) →
      ∃ t, exec (.resume qp) s = .next t ∧ t.units = s.units ∧
        ∀ l ∈ s.launches, ∃ x ∈ t.launches, x = (if ∃ m ∈ ls, m.idx = l.idx then { l with preempted := false } else l)) ∧
    (∀ p c img g, Takes s qp 0x04 bs → s.pending = [] → parkedAt u (nodeKey u (field bs 0x18 8)) (field bs 0x20 4) = some p → p.u.carried = some c → p.u.image = none →
      field bs 0x10 8 % 16 = 0 → readImage u (launchOf u p.u).ptRoot (field bs 0x10 8) p.u c = some img →
      readIngot p.u (headInfo u p.u) c img = some g → p.move = none → s.unit? p.u.uid ≠ none →
      ∃ t h, exec (.resumeentry qp) s = .next t ∧ p ∉ t.parked ∧ t.unit? p.u.uid = some h ∧ h.loc = .inFlight ∧ h.pc = g.pc ∧ h.mask = g.mask) ∧
    (Takes s qp 0x08 bs → ∃ t, exec (.clrovr qp) s = .next t ∧ t.overruns = (s.overruns.filter fun r => r.1 != field bs 0x10 4) ∧ t.units = s.units) ∧
    (∀ r, Takes s qp 0x09 bs → (s.latRegions.filter fun r => r.base == field bs 0x10 4) = [r] →
      (∀ l ∈ s.launches, l.ended = false → l.killed = none → field bs 0x10 4 ∉ l.regions) →
      ∃ t, exec (.latret qp) s = .next t ∧ t.latRegions = (s.latRegions.filter fun r => r.base != field bs 0x10 4) ∧ t.units = s.units) ∧
    (Takes s qp 0x0A bs → 1 ≤ field bs 0x10 1 → field bs 0x10 1 ≤ 16 → (∀ l ∈ s.launches, l.ended = false → l.killed ≠ none) →
      ∃ t, exec (.setwin qp) s = .next t ∧ t.window = field bs 0x10 1 ∧ t.units = s.units) ∧
    (∀ v, Takes s qp 0x0D bs → field bs 0x10 8 % 4096 = 0 → hostWrite { u with freeCtr := u.freeCtr + 1 } u.noSession (field bs 0x10 8) (inventoryBytes u) = some v →
      ∃ t, exec (.inventory qp) s = .next t ∧ t.dram = v.dram ∧ t.units = v.units) ∧
    (∀ node, Takes s qp 0x10 bs → s.sessionRoot = none → field bs 0x10 8 % 256 = 0 → 0 < field bs 0x18 2 → field bs 0x18 2 ≤ 4095 →
      hostRead u true (field bs 0x10 8) 256 = some node → field node 8 8 = 0 → field node 4 1 = 1 →
      ∃ t, exec (.session qp) s = .next t ∧ t.sessionRoot = some (field bs 0x10 8) ∧ t.ptRoot = BitVec.ofNat 64 (field node 16 8) ∧ t.devNum = field bs 0x18 2 ∧
        t.sessionId = field bs 0x1C 4 ∧ t.units = s.units) ∧
    (∀ q, s.qp? qp = some q → q.error = false → q.busy = false → q.held = [] → q.cmdTail ≠ q.cmdHead →
      hostRead s q.physical (q.cmdBase + 64 * (q.cmdHead % q.cmdCount)) 64 = some bs → (bs.getD 0 0).toNat = 0 ∨ 16 < (bs.getD 0 0).toNat →
      exec (.unknownCommand qp) s = .next (complete u qp (record 2 (bs.getD 0 0).toNat 0x08 0 (cmdTag bs) 0))) ∧
    (∀ v buffer, (s.invals.filter fun x => x.id == v.id) = [v] → buffer ∈ v.left → loadsInRange s v buffer = false →
      ∃ t, exec (.invalidationAck v.id buffer) s = .next t ∧
        t.tlb = (s.tlb.filter fun e => !(e.buffer == buffer && rangesMeet v.base (v.pages * 2 ^ 16) e.base e.size)) ∧ t.dram = s.dram ∧ t.units = s.units) ∧
    (∀ p, (s.pageMoves.find? fun q => q.id == p.id && !q.copied) = some p →
      ∃ t, exec (.pageCopyComplete p.id) s = .next t ∧ t.units = s.units ∧
        t.pageMoves = s.pageMoves.map fun q => if q.id = p.id then { q with copied := true } else q) ∧
    (∀ m msg p core, s.ready? m = some msg → msg.body = .marker p.id core → (s.pageMoves.find? fun q => q.id == p.id) = some p → routeUp s msg.src msg.dst = true →
      msg.dst = 8 + p.newPa / 2 ^ 36 → p.copied = true → (∃ c ∈ p.cores, c ≠ core) →
      ∃ t, exec (.pageMoveMarker m) s = .next t ∧ t.net = (s.net.filter fun x => x.id != m) ∧ { p with cores := p.cores.filter fun c => c != core } ∈ t.pageMoves) ∧
    (∀ l code, s.launch? l.idx = some l → l.killed = some code → launchQuiet s l = true → s.pending = [] →
      ∃ x, exec (.launchCompletion l.idx) s = .next (complete x l.qp (record 4 0x01 code l.node.regionId l.tag 0)) ∧ x.launch? l.idx = some { l with ended := true } ∧
        x.units = s.units) ∧
    (∀ q, s.qp? qp = some q → exec (.roceAtomic qp) s = .next { s with hostOut := s.hostOut ++ [.nakInvalid qp] }) ∧
    (∀ a b c, exec (.patrolScrub a b c) s = .next s)

/-- R91: the faults that precede an instruction's own, in their order, for every row with a word; a set flag that its hallmark waits for, or that it would set,
keeps it from issuing. -/
def Obligations.FaultsInOrder : Prop :=
  ∀ (s : State) (c : Ctx) (i : Instr), ctx? s = some c → encode i ≠ none → c.g.homeFault = none → c.g.deferred = none → c.g.visitor = none →
    ((∃ k ∈ c.s.cur.waitMask ++ i.asyncFlag.toList, (c.g.flag k).set = true) → exec i s = .next (hold s)) ∧
    ((∀ k ∈ c.s.cur.waitMask ++ i.asyncFlag.toList, (c.g.flag k).set = false) → (i.heldByAcquire = true → ∀ k ∈ c.g.acqFlags, (c.g.flag k).set = false) →
      (i.legal c.uni = false → exec i s = .next (c.fail i 0x01 0)) ∧
      (i.legal c.uni = true →
        (i.needsMatrix = true ∧ isStackCore c.g.core = true) ∨ (i.isLattice = true ∧ c.s.service = 1) → exec i s = .next (c.fail i 0x42 0)) ∧
      (i.legal c.uni = true → (i.needsMatrix = true → isStackCore c.g.core = false) → (i.isLattice = true → c.s.service ≠ 1) →
        (i.isXsig = true → c.twin? = none → exec i s = .next (c.fail i 0x43 0)) ∧
        ((∀ h r l a p e, i ≠ .rcall h r l a p e ∧ i ≠ .rcallRetry h r l a p e) → (∀ a, i ≠ .rret a) →
          ((∃ o ∈ i.opnds c.uni, Ctx.namesTwin o = true) → c.twin? = none → Meets s c i (c.fail i 0x43 0)) ∧
          (c.twin? ≠ none ∨ (i.isXsig = false ∧ ∀ o ∈ i.opnds c.uni, Ctx.namesTwin o = false) →
            (∀ k, (i.opnds c.uni).findSome? c.outside = some k → Meets s c i (c.fail i 0x06 k)) ∧
            (∀ f, (i.opnds c.uni).findSome? c.outside = none → (i.opnds c.uni).findSome? c.voidLatch = some f → Meets s c i (c.fail i 0x07 f)) ∧
            (∀ k f, (i.opnds c.uni).findSome? c.outside = none → (i.opnds c.uni).findSome? c.voidLatch = none →
              pendingOf c.g (c.s.cur.waitMask ++ i.raisesFlag.toList ++ if i.heldByAcquire = true then c.g.acqFlags else []) = some (k, f) →
              Meets s c i (c.failFlag i k f))))))

/-- R60, R61, R82, R83: an instruction of the arithmetic tables with its stay bit clear, or the sixth of its chain, ends its chain: every pending write is final and every
latch void; else the chain goes on, its result in b0, the bypass latches moved on, captured sources in hold latches, its write pending. A register read sees the
last write, in program order, that the distances make visible, or the earlier value; p0 reads as all ones. -/
def Obligations.StayChains : Prop :=
  (∀ (s : State) (c : Ctx) (i : Instr) d a b f, arith i = some (d, a, b, f) → Issues s i c → ∃ t h, exec i s = .next t ∧ t.unit? c.g.uid = some h ∧
    (c.s.cur.stay = false ∨ 5 ≤ c.g.chainLen → h.chainLen = 0 ∧ h.pend = [] ∧ h.bypass = [] ∧ h.holds = [] ∧ h.holdPtr = 0) ∧
    (c.s.cur.stay = true → c.g.chainLen < 5 → h.chainLen = c.g.chainLen + 1 ∧ t.slots = c.s.slots ∧ h.preds = c.g.preds ∧
      (∃ vals, h.bypass = (some vals :: c.g.bypass).take 5 ∧ (∀ j, j < 32 → laneAt vals j = f (c.src a.toNat j) (c.src b.toNat j)) ∧
        (d.toNat < 112 → ∃ m, h.pend = c.g.pend ++
          [{ reg := if c.uni then .scal (c.g.swb + d.toNat) else .vec (c.g.vwb + d.toNat), mask := m, vals := if c.uni then [laneAt vals 0] else vals, cls := i.cls, k := 0 }]) ∧
        (d.toNat = 112 → h.pend = c.g.pend)) ∧
      (c.s.cur.holdA = true → c.s.cur.holdB = false → c.g.holdPtr < 3 → h.holdPtr = (c.g.holdPtr + 1) % 3 ∧
        ∃ vals, h.holds.getD c.g.holdPtr none = some (0, vals) ∧ ∀ j, j < 32 → laneAt vals j = c.src a.toNat j) ∧
      (c.s.cur.holdA = false → c.s.cur.holdB = false → h.holdPtr = c.g.holdPtr ∧
        ∀ k, k < 3 → h.holds.getD k none = (c.g.holds.getD k none).map fun x => (x.1 + 1, x.2)))) ∧
  (∀ (p q : List PendWrite) (e : PendWrite) (r : Reg) (j : Nat) (old : Word), seen r j e → (∀ x ∈ q, ¬seen r j x) → visible (p ++ [e] ++ q) r j old = laneAt e.vals j) ∧
  (∀ (p : List PendWrite) (r : Reg) (j : Nat) (old : Word), (∀ x ∈ p, ¬seen r j x) → visible p r j old = old) ∧
  (∀ c : Ctx, c.pred 0 = 0xFFFFFFFF#32)

/-- R3, R4, R6: a value of n bytes written to memory reads back as it was, its low byte at the lowest address; every other byte is as it was; the canonical form is kept, and
memories in canonical form that read alike are equal. -/
def Obligations.MemoryHoldsBytes : Prop :=
  ∀ (m : List Host.Cell) (a n x : Nat), Memory.wf m = true →
    Memory.readLE (Memory.writeBytes m a (bytesLE n x)) a n = x % 2 ^ (8 * n) ∧
    (∀ k, k < n → (Memory.read (Memory.writeBytes m a (bytesLE n x)) (a + k)).toNat = x / 2 ^ (8 * k) % 256) ∧
    (∀ b, b < a ∨ a + n ≤ b → Memory.read (Memory.writeBytes m a (bytesLE n x)) b = Memory.read m b) ∧
    Memory.wf (Memory.writeBytes m a (bytesLE n x)) = true ∧
    (∀ l, Memory.wf l = true → (∀ b, Memory.read l b = Memory.read m b) → l = m)

/-- R107, R109, R110, R112: without FTZ and saturation, a number within a format's range rounds to the code of the nearest magnitude, ties to the even code, or of the
neighbour toward zero or away from it; above the range it goes to the largest finite value or to infinity. -/
def Sys2Proof.Claims.RoundingIsCorrect : Prop :=
  ∀ f ∈ formats, ∀ (rm m : Nat) (neg : Bool) (e : Int) (x : Rat), rm < 4 → 0 < m → x = (m : Rat) * (2 : Rat) ^ e →
    (x ≤ magnitude f f.maxCode → ∃ k, f.round rm (.fin neg m e) = f.signed neg k ∧ k ≤ f.maxCode ∧
      (rm = 0 → ∀ j, j ≤ f.maxCode → gap (magnitude f k) x < gap (magnitude f j) x ∨ j = k ∨ (gap (magnitude f k) x = gap (magnitude f j) x ∧ k % 2 = 0)) ∧
      (towardZero rm neg → magnitude f k ≤ x ∧ ∀ j, j ≤ f.maxCode → magnitude f j ≤ x → j ≤ k) ∧
      (awayFromZero rm neg → x ≤ magnitude f k ∧ ∀ j, j ≤ f.maxCode → x ≤ magnitude f j → k ≤ j)) ∧
    (magnitude f f.maxCode < x → f.hasInf = true →
      (towardZero rm neg → f.round rm (.fin neg m e) = f.signed neg f.maxCode) ∧
      (awayFromZero rm neg → f.round rm (.fin neg m e) = f.signed neg (f.maxCode + 1)) ∧
      (rm = 0 → f.round rm (.fin neg m e) =
        f.signed neg (if x - magnitude f f.maxCode < magnitude f f.maxCode - magnitude f (f.maxCode - 1) - (x - magnitude f f.maxCode) then f.maxCode else f.maxCode + 1)))

/-- R113: sums and products before rounding are exact; an infinity minus itself, or zero times an infinity, is NaN. -/
def Sys2Proof.Claims.ArithmeticIsExact : Prop :=
  (∀ (rd : Bool) (x y : FVal) (p q : Rat), ratOf x = some p → ratOf y = some q → ratOf (FVal.add rd x y) = some (p + q) ∧ ratOf (FVal.mul x y) = some (p * q)) ∧
  (∀ (rd a : Bool), FVal.add rd (.inf a) (.inf (!a)) = .nan ∧ FVal.add rd (.inf a) (.inf a) = .inf a) ∧
  (∀ (a b : Bool) (m : Nat) (e : Int), FVal.mul (.inf a) (.fin b m e) = if m = 0 then .nan else .inf (a ^^ b)) ∧
  (∀ (rd b : Bool) (m : Nat) (e : Int), 0 < m → FVal.add rd (.fin b m e) (.fin (!b) m e) = .fin rd 0 0)

/-- R71 to R73: the ingot of a unit read back gives the unit again, with the registers that travel on the strands of its mask, and every other strand zero. -/
def Obligations.ImagesReadBack : Prop :=
  ∀ (g : Group) (h : HeadInfo) (c : Carried), g.pc % 4 = 0 → g.pc < 2 ^ 56 → c.destV = [] ∨ c.destS = [] →
    ∃ u d, readIngot g h c (ingotBytes g h c) = some u ∧ u.carried = some d ∧ { u with carried := g.carried } = g ∧ d.s = c.s ∧ d.destS = c.destS ∧
      d.v.map (fun r => r.1) = c.v.map (fun r => r.1) ∧ d.destV.map (fun r => r.1) = c.destV.map (fun r => r.1) ∧
      (∀ (k : Nat) (r q : Nat × List Word), c.v[k]? = some r → d.v[k]? = some q → ∀ j, j < 32 → laneAt q.2 j = if inMask g.mask j = true then laneAt r.2 j else 0) ∧
      (∀ (k : Nat) (r q : Nat × List Word), c.destV[k]? = some r → d.destV[k]? = some q → ∀ j, j < 32 → laneAt q.2 j = if inMask g.mask j = true then laneAt r.2 j else 0)

end Machine

section Statements
open Sys2Proof

/-- Sums and products are exact and the one rounding is correct (the claims ArithmeticIsExact, RoundingIsCorrect). -/
def Obligations.ExactThenRounded : Prop :=
  Claims.ArithmeticIsExact ∧ Claims.RoundingIsCorrect

/-- Moves, indices, predicates, votes, shuffles, reductions, NOP and PAD (the claims LaneResults, IndexOutsideFaults, NopAndPadDoNothing). -/
def Obligations.LaneAndIndexResults : Prop :=
  Claims.LaneResults ∧ Claims.IndexOutsideFaults ∧ Claims.NopAndPadDoNothing

/-- BRA, CALL, RET, LOOP and JTAB (the claims TargetChecks, JumpsGoToTheirTarget, LoopCountsDown, JumpTableGoesToItsEntry). -/
def Obligations.ControlTransfers : Prop :=
  Claims.TargetChecks ∧ Claims.JumpsGoToTheirTarget ∧ Claims.LoopCountsDown ∧ Claims.JumpTableGoesToItsEntry

/-- BRC converged and divergent (the claims ConditionalBranch, DivergentBranchSplits). -/
def Obligations.BranchesOnStrands : Prop :=
  Claims.ConditionalBranch ∧ Claims.DivergentBranchSplits

/-- WINB, SWINB, LIVE, PAUSE and SLEEP (the claims WindowBases, LiveDeclaration, PauseAndSleep). -/
def Obligations.WindowsAndWaits : Prop :=
  Claims.WindowBases ∧ Claims.LiveDeclaration ∧ Claims.PauseAndSleep

/-- CSRR, CSRW, CYCLE, TRACEM and the rows of control writes (the claims CountersAndControlReads, ControlWrites, ControlWriteRows, TraceMarkers). -/
def Obligations.ControlRegisters : Prop :=
  Claims.CountersAndControlReads ∧ Claims.ControlWrites ∧ Claims.ControlWriteRows ∧ Claims.TraceMarkers

/-- Loads, stores and atomics performed on their own core (the claims StrandsPerformedHere, FlaggedAndAbsentLoads, GuardedStoreOfNoStrand). -/
def Obligations.MemoryAccessHere : Prop :=
  Claims.StrandsPerformedHere ∧ Claims.FlaggedAndAbsentLoads ∧ Claims.GuardedStoreOfNoStrand

/-- What loads, stores and atomics do to memory, byte by byte (the claims AtomicOperations, StoresWriteTheirBytes, StrandsInOrder, AccessesArePerformedWhole). -/
def Obligations.StoresAndAtomics : Prop :=
  Claims.AtomicOperations ∧ Claims.StoresWriteTheirBytes ∧ Claims.StrandsInOrder ∧ Claims.AccessesArePerformedWhole

/-- Faults of memory accesses are precise (the claims StrandChecks, MemoryFaultsArePrecise). -/
def Obligations.MemoryFaults : Prop :=
  Claims.StrandChecks ∧ Claims.MemoryFaultsArePrecise

/-- Posted stores and atomics leave their core (the claims PostedOperationsLeave, PostedRecords). -/
def Obligations.PostedOperations : Prop :=
  Claims.PostedOperationsLeave ∧ Claims.PostedRecords

/-- Completions of accesses (the claims InlineAccessEnds, ShippedScratchpadAccess, FlaggedLoadEnds, ForwardedCompletions). -/
def Obligations.AccessesEnd : Prop :=
  Claims.InlineAccessEnds ∧ Claims.ShippedScratchpadAccess ∧ Claims.FlaggedLoadEnds ∧ Claims.ForwardedCompletions

/-- Posted operations are performed, acknowledged and timed; held releases are sent (the claims PostedOperationsArrive, ReleasesSentAndWindowsPassed). -/
def Obligations.PostedOperationsEnd : Prop :=
  Claims.PostedOperationsArrive ∧ Claims.ReleasesSentAndWindowsPassed

/-- Accesses elsewhere, MIGR and HOME (the claims AccessElsewhereMigrates, DepartureFormsAnIngot, MigrMovesTheUnit, HomeReportsPlaces). -/
def Obligations.Migration : Prop :=
  Claims.AccessElsewhereMigrates ∧ Claims.DepartureFormsAnIngot ∧ Claims.MigrMovesTheUnit ∧ Claims.HomeReportsPlaces

/-- Arrival and admission of an ingot (the claims IngotArrives, IngotAdmitted). -/
def Obligations.IngotsArriveAndEnter : Prop :=
  Claims.IngotArrives ∧ Claims.IngotAdmitted

/-- REJOIN and the merge of fragments (the claims RejoinArrives, RecordsMerge). -/
def Obligations.RejoinMerges : Prop :=
  Claims.RejoinArrives ∧ Claims.RecordsMerge

/-- BAR and the generations of a barrier (the claims BarriersOfATeam, BarrierGenerations). -/
def Obligations.Barriers : Prop :=
  Claims.BarriersOfATeam ∧ Claims.BarrierGenerations

/-- FENCE and the conditions of a release (the claims ReleaseConditions, FenceWaitsForItsHalves, WaitsEndWithTheirAcquire). -/
def Obligations.FencesAndReleases : Prop :=
  Claims.ReleaseConditions ∧ Claims.FenceWaitsForItsHalves ∧ Claims.WaitsEndWithTheirAcquire

/-- Lattice types are lattices, their checks, and cells only rise (the claims LatticeTypes, LatticeChecks, CellsOnlyRise). -/
def Obligations.LatticeValues : Prop :=
  Claims.LatticeTypes ∧ Claims.LatticeChecks ∧ Claims.CellsOnlyRise

/-- LJOIN, LJOINR, LLD, LLDW, LSTX, LFLUSH and LEPOCH (the claims JoinsAndReads, StoresFlushesEpochs, LatticeWaitLimit). -/
def Obligations.LatticeInstructions : Prop :=
  Claims.JoinsAndReads ∧ Claims.StoresFlushesEpochs ∧ Claims.LatticeWaitLimit

/-- RCALL, its retry and RRET (the claims CallsAreSent, CallsAreRetried, BodiesEnd). -/
def Obligations.RemoteCalls : Prop :=
  Claims.CallsAreSent ∧ Claims.CallsAreRetried ∧ Claims.BodiesEnd

/-- Arrivals, replies, retries and deadlines of remote calls (the claims CallsArriveAndReturn, CallRecords). -/
def Obligations.RemoteReplies : Prop :=
  Claims.CallsArriveAndReturn ∧ Claims.CallRecords

/-- TMOVE, the tile engines, RSTAT and TSTAT (the claims TileMovesIssue, TileMovesRun, StatusReads). -/
def Obligations.TileMoves : Prop :=
  Claims.TileMovesIssue ∧ Claims.TileMovesRun ∧ Claims.StatusReads

/-- MLIC and the events of licences (the claims LicenceInstructions, LicenceEvents). -/
def Obligations.Licences : Prop :=
  Claims.LicenceInstructions ∧ Claims.LicenceEvents

/-- MLDW, MSTREAM, MDRAIN, MSWAP and the sequencer (the claims MatrixInstructions, SequencerRows). -/
def Obligations.MatrixRows : Prop :=
  Claims.MatrixInstructions ∧ Claims.SequencerRows

/-- Delivery of asynchronous traps, and chains cut by a long wait (the claims TrapsAreDelivered, LongWaitsEndChains). -/
def Obligations.TrapsAndChains : Prop :=
  Claims.TrapsAreDelivered ∧ Claims.LongWaitsEndChains

/-- A fault swaps its unit out into the queue of its domain (the claims FaultsAreEntered, HeldEntriesAreWritten). -/
def Obligations.TakingAFault : Prop :=
  Claims.FaultsAreEntered ∧ Claims.HeldEntriesAreWritten

/-- LAUNCH (the claims LaunchCreatesAContext, LaunchContextIsChecked). -/
def Obligations.Launching : Prop :=
  Claims.LaunchCreatesAContext ∧ Claims.LaunchContextIsChecked

/-- Placement of a team and the end of a launch (the claims TeamsArePlaced, LaunchesComplete). -/
def Obligations.TeamsRunAndEnd : Prop :=
  Claims.TeamsArePlaced ∧ Claims.LaunchesComplete

/-- PREEMPT, the saving of a unit, RESUME (the claims PreemptHalts, CheckpointsSwapOut, ResumeReenters). -/
def Obligations.Preemption : Prop :=
  Claims.PreemptHalts ∧ Claims.CheckpointsSwapOut ∧ Claims.ResumeReenters

/-- Command records; SESSION, SETWIN, CLROVR, LATRET, SETSPILL and PEER (the claims RecordsAreTakenUp, SessionWindowAndRegionCommands, SpillAndPeerCommands). -/
def Obligations.CommandRecords : Prop :=
  Claims.RecordsAreTakenUp ∧ Claims.SessionWindowAndRegionCommands ∧ Claims.SpillAndPeerCommands

/-- INVENTORY, POWER, SERVICE and self-tests (the claims PowerAndServiceCommands, SelfTestsEnd). -/
def Obligations.PowerAndService : Prop :=
  Claims.PowerAndServiceCommands ∧ Claims.SelfTestsEnd

/-- Queue pairs, doorbells and RDMA; frames of other modules (the claims HostAccesses, FramesArriveInOrder, FramesAreSentAgain). -/
def Obligations.HostAndPeers : Prop :=
  Claims.HostAccesses ∧ Claims.FramesArriveInOrder ∧ Claims.FramesAreSentAgain

/-- Links, time, cooling and the waking of a stack (the claims LinksFailInSteps, TimeIsKept, CoolingAndWaking). -/
def Obligations.DeviceServices : Prop :=
  Claims.LinksFailInSteps ∧ Claims.TimeIsKept ∧ Claims.CoolingAndWaking

/-- Memory errors and device reset (the claims MemoryErrorsAreHandled, ResetDiscards). -/
def Obligations.ErrorsAndReset : Prop :=
  Claims.MemoryErrorsAreHandled ∧ Claims.ResetDiscards

/-- EXIT, the events inside the module and the commands of the host complete with their own effect (the claims InternalFormsComplete, HostFormsComplete). -/
def Obligations.FormsComplete : Prop :=
  Claims.InternalFormsComplete ∧ Claims.HostFormsComplete

end Statements
end

