-- ==== Sys2Proof/Laws/Memory.lean ====
section
/-! SUPPORT. The laws of byte memories: reads after writes, and that every operation keeps the canonical form. -/

namespace Sys2Proof.Machine

/-- Every address of a memory lies above a. -/
def Memory.above (a : Nat) (m : List Host.Cell) : Prop := ∀ c ∈ m, a < c.1

theorem Memory.wf_cons {k : Nat} {b : Byte} {t : List Host.Cell} :
    Memory.wf ((k, b) :: t) = true ↔ b ≠ Memory.blank ∧ Memory.above k t ∧ Memory.wf t = true := by
  induction t generalizing k b with
  | nil => simp [Memory.wf, Memory.above]
  | cons c u ih =>
    obtain ⟨k', b'⟩ := c
    rw [Memory.wf]
    simp only [Bool.and_eq_true, bne_iff_ne, decide_eq_true_eq, Memory.above, List.mem_cons, forall_eq_or_imp, ih]
    constructor
    · rintro ⟨⟨hb, hk⟩, hb', hab, hu⟩
      exact ⟨hb, ⟨hk, fun c hc => Nat.lt_trans hk (hab c hc)⟩, hb', hab, hu⟩
    · rintro ⟨hb, ⟨hk, -⟩, hb', hab, hu⟩
      exact ⟨⟨hb, hk⟩, hb', hab, hu⟩

theorem Memory.wf_nil : Memory.wf [] = true := rfl

theorem Memory.write_mem {m : List Host.Cell} {a : Nat} {b : Byte} {c : Host.Cell} (h : c ∈ Memory.write m a b) : c ∈ m ∨ c = (a, b) := by
  induction m with
  | nil => unfold Memory.write at h; split at h <;> simp_all
  | cons d t ih =>
    obtain ⟨k, e⟩ := d
    unfold Memory.write at h
    split at h
    · split at h
      · exact .inl h
      · rcases List.mem_cons.1 h with h | h
        · exact .inr h
        · exact .inl h
    · split at h
      · split at h
        · exact .inl (List.mem_cons_of_mem _ h)
        · rcases List.mem_cons.1 h with h | h
          · exact .inr h
          · exact .inl (List.mem_cons_of_mem _ h)
      · simp only [List.mem_cons] at h ⊢
        rcases h with h | h
        · exact .inl (.inl h)
        · rcases ih h with h | h
          · exact .inl (.inr h)
          · exact .inr h

/-- A write keeps the canonical form. -/
theorem Memory.write_wf {m : List Host.Cell} {a : Nat} {b : Byte} (h : Memory.wf m = true) : Memory.wf (Memory.write m a b) = true := by
  induction m with
  | nil =>
    unfold Memory.write
    split
    · rfl
    · simp_all [Memory.wf]
  | cons d t ih =>
    obtain ⟨k, e⟩ := d
    have hw := Memory.wf_cons.1 h
    unfold Memory.write
    split
    · rename_i hlt
      split
      · exact h
      · rename_i hb
        refine Memory.wf_cons.2 ⟨hb, ?_, h⟩
        intro c hc
        rcases List.mem_cons.1 hc with rfl | hc
        · exact hlt
        · exact Nat.lt_trans hlt (hw.2.1 c hc)
    · split
      · rename_i hak
        split
        · exact hw.2.2
        · rename_i hb
          exact Memory.wf_cons.2 ⟨hb, hak ▸ hw.2.1, hw.2.2⟩
      · refine Memory.wf_cons.2 ⟨hw.1, ?_, ih hw.2.2⟩
        intro c hc
        rcases Memory.write_mem hc with hc | rfl
        · exact hw.2.1 c hc
        · simp only; omega

/-- Writing a run of bytes keeps the canonical form. -/
theorem Memory.writeBytes_wf {m : List Host.Cell} {a : Nat} {bs : List Byte} (h : Memory.wf m = true) :
    Memory.wf (Memory.writeBytes m a bs) = true := by
  induction bs generalizing m a with
  | nil => exact h
  | cons b t ih => exact ih (Memory.write_wf h)

/-- Cells taken out of a memory leave it canonical. -/
theorem Memory.filter_wf {m : List Host.Cell} (p : Host.Cell → Bool) (h : Memory.wf m = true) : Memory.wf (m.filter p) = true := by
  induction m with
  | nil => rfl
  | cons d t ih =>
    obtain ⟨k, e⟩ := d
    have hw := Memory.wf_cons.1 h
    rw [List.filter_cons]
    split
    · exact Memory.wf_cons.2 ⟨hw.1, fun c hc => hw.2.1 c (List.mem_filter.1 hc).1, ih hw.2.2⟩
    · exact ih hw.2.2

/-- A byte not listed reads as the blank byte. -/
theorem Memory.read_above {m : List Host.Cell} {a k : Nat} (h : Memory.above k m) (hak : a ≤ k) : Memory.read m a = Memory.blank := by
  induction m with
  | nil => rfl
  | cons d t ih =>
    obtain ⟨j, e⟩ := d
    have hj : k < j := h (j, e) (by simp)
    rw [Memory.read, if_neg (by omega)]
    exact ih fun c hc => h c (List.mem_cons_of_mem _ hc)

/-- Reading back the byte written. -/
theorem Memory.read_write_same {m : List Host.Cell} {a : Nat} {b : Byte} (h : Memory.wf m = true) : Memory.read (Memory.write m a b) a = b := by
  induction m with
  | nil => unfold Memory.write; split <;> simp_all [Memory.read]
  | cons d t ih =>
    obtain ⟨k, e⟩ := d
    have hw := Memory.wf_cons.1 h
    unfold Memory.write
    split
    · rename_i hlt
      split
      · rename_i hb
        rw [hb]
        refine Memory.read_above (k := a) (fun c hc => ?_) (Nat.le_refl a)
        rcases List.mem_cons.1 hc with rfl | hc
        · exact hlt
        · exact Nat.lt_trans hlt (hw.2.1 c hc)
      · simp [Memory.read]
    · split
      · rename_i hak
        split
        · rename_i hb
          rw [hb]
          exact Memory.read_above hw.2.1 (Nat.le_of_eq hak)
        · simp [Memory.read]
      · rename_i hak
        rw [Memory.read, if_neg hak]
        exact ih hw.2.2

/-- A write leaves every other byte alone. -/
theorem Memory.read_write_other {m : List Host.Cell} {a c : Nat} {b : Byte} (h : Memory.wf m = true) (hne : c ≠ a) :
    Memory.read (Memory.write m a b) c = Memory.read m c := by
  induction m with
  | nil => unfold Memory.write; split <;> simp_all [Memory.read]
  | cons d t ih =>
    obtain ⟨k, e⟩ := d
    have hw := Memory.wf_cons.1 h
    unfold Memory.write
    split
    · split
      · rfl
      · rw [Memory.read, if_neg hne]
    · split
      · rename_i hak
        split
        · rw [Memory.read, if_neg (by omega)]
        · rw [Memory.read, if_neg hne, Memory.read, if_neg (by omega)]
      · rw [Memory.read, Memory.read, ih hw.2.2]

/-- Writing a run of bytes leaves every byte outside it alone. -/
theorem Memory.read_writeBytes_other {m : List Host.Cell} {a c : Nat} {bs : List Byte} (h : Memory.wf m = true)
    (hne : c < a ∨ a + bs.length ≤ c) : Memory.read (Memory.writeBytes m a bs) c = Memory.read m c := by
  induction bs generalizing m a with
  | nil => rfl
  | cons b t ih =>
    rw [Memory.writeBytes, ih (Memory.write_wf h) (by simp at hne; omega), Memory.read_write_other h (by simp at hne; omega)]

/-- Reading back the run of bytes written. -/
theorem Memory.readBytes_writeBytes {m : List Host.Cell} {a : Nat} {bs : List Byte} (h : Memory.wf m = true) :
    Memory.readBytes (Memory.writeBytes m a bs) a bs.length = bs := by
  induction bs generalizing m a with
  | nil => rfl
  | cons b t ih =>
    rw [Memory.writeBytes, List.length_cons, Memory.readBytes, ih (Memory.write_wf h),
      Memory.read_writeBytes_other (Memory.write_wf h) (by omega), Memory.read_write_same h]

end Sys2Proof.Machine
end

