-- ==== Sys2Proof/Laws/Inv.lean ====
section
/-! SUPPORT. How the invariant of Safety.lean passes through record updates and folds. -/

namespace Sys2Proof.Machine

/-- The invariant looks at ten fields of the state only: it passes through every update of the others. -/
@[simp] theorem State.inv_mk
    {now} {acMilli} {ptime} {ptimeFrac} {ptimeSet} {slew} {offset} {lockSince} {locked} {freeCtr} {turn} {lastSeat} {pipes} {env}
    {cur} {dram} {dramPoison} {spad} {spadPoison} {owners} {lat} {latRegions} {flushes} {nextId} {launches} {teams} {units}
    {slots} {twins} {pairs} {arrays} {cores} {net} {queue} {crucible} {posted} {floads} {calls} {moves} {cache} {watermarks}
    {parked} {heldEntries} {preempts} {saved} {hearts} {pageReqs} {overruns} {tlb} {invals} {pageMoves} {noAtomic} {qps}
    {hostOut} {sessionRoot} {ptRoot} {sessionId} {devNum} {window} {peers} {paths} {frameOut} {mismatched} {service} {topLost}
    {bottomLost} {dies} {replicas} {links} {rowCounts} {spareRows} {degraded} {pending} :
    State.Inv (State.mk
      now acMilli ptime ptimeFrac ptimeSet slew offset lockSince locked freeCtr turn lastSeat pipes env cur dram dramPoison spad
      spadPoison owners lat latRegions flushes nextId launches teams units slots twins pairs arrays cores net queue crucible
      posted floads calls moves cache watermarks parked heldEntries preempts saved hearts pageReqs overruns tlb invals pageMoves
      noAtomic qps hostOut sessionRoot ptRoot sessionId devNum window peers paths frameOut mismatched service topLost bottomLost
      dies replicas links rowCounts spareRows degraded pending) ↔
    Sound dram spad service slew dies links replicas acMilli window pending := Iff.rfl

/-- The facts of the invariant. -/
@[simp] theorem State.Inv.sound {s : State} (h : s.Inv) :
    Sound s.dram s.spad s.service s.slew s.dies s.links s.replicas s.acMilli s.window s.pending := h

/-- A fold keeps the invariant when each of its steps does. -/
@[simp] theorem foldl_inv {α : Type} {f : State → α → State} {s : State} {l : List α} (hf : ∀ t x, State.Inv t → State.Inv (f t x)) (h : s.Inv) :
    State.Inv (l.foldl f s) := by
  induction l generalizing s with
  | nil => exact h
  | cons a t ih => exact ih (hf s a h)

/-- A fold over a list keeps the invariant when each step for a member does. -/
theorem foldl_inv_mem {α : Type} {f : State → α → State} {s : State} {l : List α} (hf : ∀ x ∈ l, ∀ t, State.Inv t → State.Inv (f t x))
    (h : s.Inv) : State.Inv (l.foldl f s) := by
  induction l generalizing s with
  | nil => exact h
  | cons a t ih => exact ih (fun x hx => hf x (List.mem_cons_of_mem _ hx)) (hf a (List.mem_cons_self ..) s h)

/-- A bound on every element of a list stays when one element is replaced within it. -/
theorem modAt_le {l : List Nat} {k v b : Nat} (h : ∀ d ∈ l, d ≤ b) (hv : v ≤ b) : ∀ d ∈ modAt l k (fun _ => v), d ≤ b := by
  intro d hd
  obtain ⟨i, hi, rfl⟩ := List.mem_iff_getElem.1 hd
  simp only [modAt, List.getElem_modify]
  split
  · exact hv
  · exact h _ (List.getElem_mem _)

/-- A fold that carries a state beside another value. -/
theorem foldl_snd_inv {α β : Type} {f : β × State → α → β × State} {p : β × State} {l : List α}
    (hf : ∀ q x, q.2.Inv → (f q x).2.Inv) (h : p.2.Inv) : (l.foldl f p).2.Inv := by
  induction l generalizing p with
  | nil => exact h
  | cons a t ih => exact ih (hf p a h)

@[simp] theorem State.inv_ite {c : Prop} [Decidable c] {s t : State} : State.Inv (if c then s else t) ↔ if c then s.Inv else t.Inv := by
  split <;> rfl

/-- A meaning keeps the invariant: if it answers a next state, the invariant holds there. -/
def Keeps (o : Host.Outcome State Fault Refusal) : Prop := ∀ t, o = .next t → t.Inv

@[simp] theorem keeps_next {t : State} : Keeps (.next t) ↔ t.Inv :=
  ⟨fun h => h t rfl, fun h u e => by cases e; exact h⟩

@[simp] theorem keeps_fault {f : Fault} : Keeps (.fault f) ↔ True := ⟨fun _ => trivial, fun _ _ e => nomatch e⟩

@[simp] theorem keeps_refused {r : Refusal} : Keeps (.refused r) ↔ True := ⟨fun _ => trivial, fun _ _ e => nomatch e⟩

end Sys2Proof.Machine
end

