-- ==== Sys2Proof/Laws/InvOps.lean ====
section
/-! SUPPORT. The operations of Machine/Units, Translate, Scratch, Licence, MatrixArith, Area, Ops, Issue keep the invariant. -/

namespace Sys2Proof.Machine

/-! ## Units.lean -/

@[simp] theorem State.putUnit_inv {s : State} {g : Group} (h : s.Inv) :
    (State.putUnit s g).Inv := by
  unfold State.putUnit
  try dsimp only
  (repeat' split) <;> simp +contextual (maxDischargeDepth := 30) [h]

@[simp] theorem State.modUnit_inv {s : State} {uid : Nat} {f : Group → Group} (h : s.Inv) :
    (State.modUnit s uid f).Inv := by
  unfold State.modUnit
  try dsimp only
  (repeat' split) <;> simp +contextual (maxDischargeDepth := 30) [h]

@[simp] theorem State.dropUnit_inv {s : State} {uid : Nat} (h : s.Inv) :
    (State.dropUnit s uid).Inv := by
  unfold State.dropUnit
  try dsimp only
  (repeat' split) <;> simp +contextual (maxDischargeDepth := 30) [h]

@[simp] theorem State.addUnit_inv {s : State} {g : Group} (h : s.Inv) :
    (State.addUnit s g).Inv := by
  unfold State.addUnit
  try dsimp only
  (repeat' split) <;> simp +contextual (maxDischargeDepth := 30) [h]

@[simp] theorem State.putSlot_inv {s : State} {x : Slot} (h : s.Inv) :
    (State.putSlot s x).Inv := by
  unfold State.putSlot
  try dsimp only
  (repeat' split) <;> simp +contextual (maxDischargeDepth := 30) [h]

@[simp] theorem State.freeSlot_inv {s : State} {core slot : Nat} (h : s.Inv) :
    (State.freeSlot s core slot).Inv := by
  unfold State.freeSlot
  try dsimp only
  (repeat' split) <;> simp +contextual (maxDischargeDepth := 30) [h]

@[simp] theorem State.modLaunch_inv {s : State} {l : Nat} {f : Launch → Launch} (h : s.Inv) :
    (State.modLaunch s l f).Inv := by
  unfold State.modLaunch
  try dsimp only
  (repeat' split) <;> simp +contextual (maxDischargeDepth := 30) [h]

@[simp] theorem State.putCore_inv {s : State} {x : CoreState} (h : s.Inv) :
    (State.putCore s x).Inv := by
  unfold State.putCore
  try dsimp only
  (repeat' split) <;> simp +contextual (maxDischargeDepth := 30) [h]

@[simp] theorem State.takeId_inv {s : State} (h : s.Inv) : s.takeId.2.Inv := by simp [State.takeId, h]

@[simp] theorem State.send_inv {s : State} {cls : MsgClass} {src dst : Nat} {body : Payload} (h : s.Inv) :
    (State.send s cls src dst body).Inv := by
  unfold State.send
  try dsimp only
  (repeat' split) <;> simp +contextual (maxDischargeDepth := 30) [h]

@[simp] theorem State.dropMsg_inv {s : State} {m : Nat} (h : s.Inv) :
    (State.dropMsg s m).Inv := by
  unfold State.dropMsg
  try dsimp only
  (repeat' split) <;> simp +contextual (maxDischargeDepth := 30) [h]

@[simp] theorem State.putTwin_inv {s : State} {w : TwinWindow} (h : s.Inv) :
    (State.putTwin s w).Inv := by
  unfold State.putTwin
  try dsimp only
  (repeat' split) <;> simp +contextual (maxDischargeDepth := 30) [h]

@[simp] theorem State.takeFree_inv {s : State} (h : s.Inv) : s.takeFree.2.Inv := by simp [State.takeFree, h]

/-! ## Translate.lean -/

@[simp] theorem State.dramWrite_inv {s : State} {pa : Nat} {bs : List Byte} (h : s.Inv) :
    (State.dramWrite s pa bs).Inv := by
  simp only [State.dramWrite, State.inv_mk]
  exact { h with dramForm := Memory.writeBytes_wf h.dramForm }

@[simp] theorem State.notePage_inv {s : State} {buffer : Nat} {root : DWord} {a : Nat} (h : s.Inv) :
    (State.notePage s buffer root a).Inv := by
  unfold State.notePage
  try dsimp only
  (repeat' split) <;> simp +contextual (maxDischargeDepth := 30) [h]

theorem devWrite_inv {s t : State} {root : DWord} {a : Nat} {bs : List Byte} (e : devWrite s root a bs = some t) (h : s.Inv) : t.Inv := by
  unfold devWrite at e
  dsimp only at e
  split at e
  · cases e
    refine foldl_inv (fun t x ht => ?_) h
    split <;> simp [ht]
  · cases e

@[simp] theorem devWrite_getD_inv {s u : State} {root : DWord} {a : Nat} {bs : List Byte} (h : s.Inv) (hu : u.Inv) :
    ((devWrite s root a bs).getD u).Inv := by
  cases e : devWrite s root a bs with
  | none => exact hu
  | some t => exact devWrite_inv e h

/-! ## Scratch.lean -/

@[simp] theorem State.spadWrite_inv {s : State} {key : Nat} {bs : List Byte} (h : s.Inv) :
    (State.spadWrite s key bs).Inv := by
  simp only [State.spadWrite, State.inv_mk]
  exact { h with spadForm := Memory.writeBytes_wf h.spadForm }

/-! ## Licence.lean -/

@[simp] theorem State.putArray_inv {s : State} {a : MatArray} (h : s.Inv) :
    (State.putArray s a).Inv := by
  unfold State.putArray
  try dsimp only
  (repeat' split) <;> simp +contextual (maxDischargeDepth := 30) [h]

@[simp] theorem State.putPair_inv {s : State} {p : TwinPair} (h : s.Inv) :
    (State.putPair s p).Inv := by
  unfold State.putPair
  try dsimp only
  (repeat' split) <;> simp +contextual (maxDischargeDepth := 30) [h]

@[simp] theorem endWaits_inv {s : State} {gid : Nat} (h : s.Inv) :
    (endWaits s gid).Inv := by
  unfold endWaits
  try dsimp only
  (repeat' split) <;> simp +contextual (maxDischargeDepth := 30) [h]

@[simp] theorem grant_inv {s : State} {lower : Nat} {maps : List DWord} {g : Group} (h : s.Inv) :
    (grant s lower maps g).Inv := by
  unfold grant
  try dsimp only
  (repeat' split) <;> simp +contextual (maxDischargeDepth := 30) [h]

@[simp] theorem freeLicence_inv {s : State} {p : TwinPair} (h : s.Inv) :
    (freeLicence s p).Inv := by
  unfold freeLicence
  try dsimp only
  (repeat' split) <;> simp +contextual (maxDischargeDepth := 30) [h]

@[simp] theorem giveUpImage_inv {s : State} {g : Group} (h : s.Inv) : (giveUpImage s g).1.Inv := by
  unfold giveUpImage
  split <;> simp +contextual (maxDischargeDepth := 30) [h]

/-! ## MatrixArith.lean -/

@[simp] theorem spadPutAt_inv {s : State} {l : Launch} {core level o : Nat} {bs : List Byte} (h : s.Inv) :
    (spadPutAt s l core level o bs).Inv := by
  unfold spadPutAt
  try dsimp only
  (repeat' split) <;> simp +contextual (maxDischargeDepth := 30) [h]

@[simp] theorem seqStep_inv {s : State} {l : Launch} {core : Nat} {o : SeqOp} (h : s.Inv) : (seqStep s l core o).1.Inv := by
  unfold seqStep
  dsimp only
  (repeat' split) <;> simp +contextual (maxDischargeDepth := 30) [h]

@[simp] theorem seqFinish_inv {l : Launch} {core n : Nat} {s : State} {o : SeqOp} (h : s.Inv) : (seqFinish l core n s o).1.Inv := by
  induction n generalizing s o with
  | zero => exact h
  | succ n ih =>
    unfold seqFinish
    split
    · exact h
    · exact ih (seqStep_inv h)

/-! ## Area.lean -/

theorem writeAll_inv {root : DWord} {l : List (Nat × List Byte)} {s t : State} (e : writeAll root l s = some t) (h : s.Inv) : t.Inv := by
  induction l generalizing s with
  | nil => cases e; exact h
  | cons x l ih =>
    obtain ⟨a, bs⟩ := x
    unfold writeAll at e
    split at e
    · rename_i hw
      exact ih e (devWrite_inv hw h)
    · cases e

@[simp] theorem State.putSaved_inv {s : State} {x : Saved} (h : s.Inv) :
    (State.putSaved s x).Inv := by
  unfold State.putSaved
  try dsimp only
  (repeat' split) <;> simp +contextual (maxDischargeDepth := 30) [h]

@[simp] theorem saveImage_inv {s : State} {l : Launch} {u : Group} (h : s.Inv) :
    (saveImage s l u).Inv := by
  unfold saveImage
  split
  · exact h
  · split
    · exact h
    · split
      · exact h
      · rename_i hw
        exact State.putSaved_inv (writeAll_inv hw h)

/-! ## Ops.lean -/

@[simp] theorem endChain_inv {s : State} {g : Group} {sl : Slot} (h : s.Inv) :
    (endChain s g sl).Inv := by
  unfold endChain
  try dsimp only
  (repeat' split) <;> simp +contextual (maxDischargeDepth := 30) [h]

@[simp] theorem writeTwin_inv {s : State} {c : Ctx} {ws : List PendWrite} (h : s.Inv) :
    (writeTwin s c ws).Inv := by
  unfold writeTwin
  try dsimp only
  (repeat' split) <;> simp +contextual (maxDischargeDepth := 30) [h]

@[simp] theorem Ctx.retire_inv {c : Ctx} {i : Instr} {res : Option (List Word)} {ws : List PendWrite} {pc : Nat} {jump : Bool} (h : c.s.Inv) :
    (Ctx.retire c i res ws pc jump).Inv := by
  unfold Ctx.retire
  try dsimp only
  (repeat' split) <;> simp +contextual (maxDischargeDepth := 30) [h]

@[simp] theorem hold_inv {s : State} (h : s.Inv) :
    (hold s).Inv := by
  unfold hold
  try dsimp only
  (repeat' split) <;> simp +contextual (maxDischargeDepth := 30) [h]

@[simp] theorem putResult_inv {s : State} {g : Group} {r : Reg} {uni : Bool} {vals : List (Nat × Nat)} {hi : Bool} (h : s.Inv) :
    (putResult s g r uni vals hi).Inv := by
  unfold putResult
  try dsimp only
  (repeat' split) <;> simp +contextual (maxDischargeDepth := 30) [h]

@[simp] theorem putResults_inv {s : State} {uid : Nat} {r : Results} (h : s.Inv) :
    (putResults s uid r).Inv := by
  unfold putResults
  try dsimp only
  (repeat' split) <;> simp +contextual (maxDischargeDepth := 30) [h]

@[simp] theorem endAbsent_inv {s : State} {uid : Nat} {d : Dest} (h : s.Inv) :
    (endAbsent s uid d).Inv := by
  unfold endAbsent
  try dsimp only
  (repeat' split) <;> simp +contextual (maxDischargeDepth := 30) [h]

@[simp] theorem applyCompletion_inv {s : State} {uid flag : Nat} {res : List Results} {fault : Option FlagFault} (h : s.Inv) :
    (applyCompletion s uid flag res fault).Inv := by
  unfold applyCompletion
  try dsimp only
  (repeat' split) <;> simp +contextual (maxDischargeDepth := 30) [h]

@[simp] theorem deliver_inv {s : State} {core gid flag : Nat} {mask : Word} {res : List Results} {fault : Option FlagFault} (h : s.Inv) :
    (deliver s core gid flag mask res fault).Inv := by
  unfold deliver
  try dsimp only
  (repeat' split) <;> simp +contextual (maxDischargeDepth := 30) [h]

@[simp] theorem complete_inv {s : State} {qp : Nat} {c : Completion} (h : s.Inv) :
    (complete s qp c).Inv := by
  unfold complete
  try dsimp only
  (repeat' split) <;> simp +contextual (maxDischargeDepth := 30) [h]

@[simp] theorem moduleEvent_inv {s : State} {code detail : Nat} (h : s.Inv) :
    (moduleEvent s code detail).Inv := by
  unfold moduleEvent
  try dsimp only
  (repeat' split) <;> simp +contextual (maxDischargeDepth := 30) [h]

theorem queuePut_inv {s t : State} {root : DWord} {q tail entry : Nat} {bytes : List Byte} (e : queuePut s root q tail entry bytes = some t)
    (h : s.Inv) : t.Inv := by
  unfold queuePut at e
  split at e
  · cases e
  · rename_i hw
    exact devWrite_inv e (devWrite_inv hw h)

@[simp] theorem announce_inv {s : State} {l : Launch} {e : EntryInfo} {tail : Nat} (h : s.Inv) :
    (announce s l e tail).Inv := by
  unfold announce
  try dsimp only
  (repeat' split) <;> simp +contextual (maxDischargeDepth := 30) [h]

@[simp] theorem sweepCrucibles_inv {s : State} (h : s.Inv) :
    (sweepCrucibles s).Inv := by
  unfold sweepCrucibles
  try dsimp only
  (repeat' split) <;> simp +contextual (maxDischargeDepth := 30) [h]

@[simp] theorem offerEntries_inv {core n : Nat} {s : State} (h : s.Inv) : (offerEntries core n s).Inv := by
  induction n generalizing s with
  | zero => exact h
  | succ n ih =>
    unfold offerEntries
    dsimp only
    split
    · split <;> simp [h]
    · split
      · simp [h]
      · exact ih (by simp (maxDischargeDepth := 30) [h])

@[simp] theorem offerAll_inv {s : State} (h : s.Inv) : (offerAll s).Inv := foldl_inv (fun _ _ ht => offerEntries_inv ht) h

@[simp] theorem freeEntries_inv {s : State} {dead : CacheEntry → Bool} (h : s.Inv) :
    (freeEntries s dead).Inv := by
  unfold freeEntries
  try dsimp only
  (repeat' split) <;> simp +contextual (maxDischargeDepth := 30) [h]

@[simp] theorem killLaunches_inv {s : State} {ls : List Nat} {code : Nat} (h : s.Inv) : (killLaunches s ls code).Inv := by
  refine offerAll_inv ?_
  simp [h]

@[simp] theorem errorRecord_inv {s : State} {l : Launch} {e : EntryInfo} (h : s.Inv) :
    (errorRecord s l e).Inv := by
  unfold errorRecord
  dsimp only
  split
  · exact h
  · split
    · exact devWrite_getD_inv h h
    · exact h
  · split
    · rename_i hq
      exact announce_inv (queuePut_inv hq h)
    · exact h

@[simp] theorem walkRecord_inv {s : State} {g : Group} {code a : Nat} {w : WalkErr} (h : s.Inv) :
    (walkRecord s g code a w).Inv := by
  unfold walkRecord
  try dsimp only
  (repeat' split) <;> simp +contextual (maxDischargeDepth := 30) [h]

@[simp] theorem heldRecord_inv {s : State} {l : Launch} {e : EntryInfo} {body : List Byte} (h : s.Inv) :
    (heldRecord s l e body).Inv := by
  unfold heldRecord
  dsimp only
  split
  · exact h
  · simp [h]
  · split
    · rename_i hq
      exact announce_inv (queuePut_inv hq h)
    · exact h

@[simp] theorem vacate_inv {s : State} {core slot uid : Nat} (h : s.Inv) :
    (vacate s core slot uid).Inv := by
  unfold vacate
  try dsimp only
  (repeat' split) <;> simp +contextual (maxDischargeDepth := 30) [h]

@[simp] theorem finishShort_inv {s : State} {g : Group} {p : TwinPair} (h : s.Inv) :
    (finishShort s g p).Inv := by
  unfold finishShort
  refine foldl_inv (fun t o ht => ?_) h
  dsimp only
  simp (maxDischargeDepth := 30) [ht]

@[simp] theorem visitorFault_inv {s : State} {g : Group} {v : Visitor} {code addr : Nat} (h : s.Inv) :
    (visitorFault s g v code addr).Inv := by
  unfold visitorFault
  try dsimp only
  (repeat' split) <;> simp +contextual (maxDischargeDepth := 30) [h]

@[simp] theorem leaveLicence_inv {s : State} {g : Group} (h : s.Inv) : (leaveLicence s g).1.Inv := by
  unfold leaveLicence
  dsimp only
  split <;> simp (maxDischargeDepth := 30) [h]

@[simp] theorem parkUnit_inv {s : State} {g : Group} {r : FaultReq} {dest : Bool × List Nat} (h : s.Inv) :
    (parkUnit s g r dest).Inv := by
  unfold parkUnit
  dsimp only
  split
  · exact State.putCore_inv h
  · split
    · simp (maxDischargeDepth := 30) [h]
    · simp (maxDischargeDepth := 30) [h]
    · split
      · simp (maxDischargeDepth := 30) [h]
      · rename_i hq
        have hq := queuePut_inv hq (State.putCore_inv h)
        simp (maxDischargeDepth := 30) [hq]

@[simp] theorem takeFault_inv {s : State} {g : Group} {r : FaultReq} {dest : Bool × List Nat} (h : s.Inv) :
    (takeFault s g r dest).Inv := by
  unfold takeFault
  split <;> simp (maxDischargeDepth := 30) [h]

@[simp] theorem raise_inv {s : State} {g : Group} {sl : Slot} {dest : Bool × List Nat} {r : FaultReq} (h : s.Inv) :
    (raise s g sl dest r).Inv := by
  unfold raise
  try dsimp only
  (repeat' split) <;> simp +contextual (maxDischargeDepth := 30) [h]

@[simp] theorem Ctx.fault_inv {c : Ctx} {i : Instr} {r : FaultReq} (h : c.s.Inv) :
    (Ctx.fault c i r).Inv := by
  unfold Ctx.fault
  try dsimp only
  (repeat' split) <;> simp +contextual (maxDischargeDepth := 30) [h]

@[simp] theorem Ctx.fail_inv {c : Ctx} {i : Instr} {code addr : Nat} (h : c.s.Inv) :
    (Ctx.fail c i code addr).Inv := by
  unfold Ctx.fail
  try dsimp only
  (repeat' split) <;> simp +contextual (maxDischargeDepth := 30) [h]

@[simp] theorem Ctx.failFlag_inv {c : Ctx} {i : Instr} {k : Nat} {f : FlagFault} (h : c.s.Inv) :
    (Ctx.failFlag c i k f).Inv := by
  unfold Ctx.failFlag
  try dsimp only
  (repeat' split) <;> simp +contextual (maxDischargeDepth := 30) [h]

@[simp] theorem Ctx.failTarget_inv {c : Ctx} {i : Instr} {t : Nat} {e : Nat × Option WalkErr} (h : c.s.Inv) :
    (Ctx.failTarget c i t e).Inv := by
  unfold Ctx.failTarget
  try dsimp only
  (repeat' split) <;> simp +contextual (maxDischargeDepth := 30) [h]

/-! ## Issue.lean -/

/-- The issuing unit's view is of the state itself. -/
theorem ctx?_state {s : State} {c : Ctx} (e : ctx? s = some c) : c.s = s := by
  unfold ctx? at e
  (repeat' split at e) <;> cases e
  rfl

theorem issueOps_keeps {i : Instr} {ops : Ctx → List Opnd} {body : Ctx → State} {s : State}
    (hb : ∀ c : Ctx, c.s.Inv → (body c).Inv) (h : s.Inv) : Keeps (issueOps i ops body s) := by
  unfold issueOps
  split
  · simp
  · rename_i e
    have hc := ctx?_state e ▸ h
    split
    · simp [h]
    · simp [hc]
    · simp [hc]
    · simp [hb, hc]

theorem issue_keeps {i : Instr} {body : Ctx → State} {s : State} (hb : ∀ c : Ctx, c.s.Inv → (body c).Inv) (h : s.Inv) :
    Keeps (issue i body s) := issueOps_keeps hb h

theorem farFault_inv {i : Instr} {ops : Ctx → List Opnd} {code : Ctx → Option Nat} {s t : State} (e : farFault i ops code s = some t) (h : s.Inv) :
    t.Inv := by
  unfold farFault at e
  obtain ⟨c, ec, e⟩ := Option.bind_eq_some_iff.1 e
  obtain ⟨k, -, e⟩ := Option.bind_eq_some_iff.1 e
  have hc := ctx?_state ec ▸ h
  split at e <;> cases e <;> exact Ctx.fail_inv hc

theorem issueFar_keeps {i : Instr} {ops : Ctx → List Opnd} {code : Ctx → Option Nat} {run : State → Host.Outcome State Fault Refusal} {s : State}
    (hr : Keeps (run s)) (h : s.Inv) : Keeps (issueFar i ops code run s) := by
  unfold issueFar
  split
  · rename_i e
    simp [farFault_inv e h]
  · exact hr

@[simp] theorem Ctx.regOp_inv {c : Ctx} {i : Instr} {d : Nat} {f : Nat → Word} (h : c.s.Inv) : (c.regOp i d f).Inv := by
  simp [Ctx.regOp, h]

@[simp] theorem Ctx.predOp_inv {c : Ctx} {i : Instr} {p : Nat} {f : Nat → Bool} (h : c.s.Inv) : (c.predOp i p f).Inv := by
  simp [Ctx.predOp, h]

@[simp] theorem regOp1_keeps {i : Instr} {d a : BitVec 7} {f : Word → Word} {s : State} (h : s.Inv) : Keeps (regOp1 i d a f s) :=
  issue_keeps (fun _ hc => Ctx.regOp_inv hc) h

@[simp] theorem regOp2_keeps {i : Instr} {d a b : BitVec 7} {f : Word → Word → Word} {s : State} (h : s.Inv) : Keeps (regOp2 i d a b f s) :=
  issue_keeps (fun _ hc => Ctx.regOp_inv hc) h

@[simp] theorem regOp3_keeps {i : Instr} {d a b : BitVec 7} {f : Word → Word → Word → Word} {s : State} (h : s.Inv) :
    Keeps (regOp3 i d a b f s) := issue_keeps (fun _ hc => Ctx.regOp_inv hc) h

@[simp] theorem Ctx.pass_inv {c : Ctx} {i : Instr} (h : c.s.Inv) : (c.pass i).Inv := by simp [Ctx.pass, h]

end Sys2Proof.Machine
end

