-- ==== Sys2Proof/Laws/InvLanes.lean ====
section
/-! SUPPORT. The operations of Machine/Integer, Floating, Lane keep the invariant. -/

namespace Sys2Proof.Machine

/-! ## Integer.lean -/

@[simp] theorem execIadd_keeps {d a b : BitVec 7} {f : BitVec 4} {st : State} (h : st.Inv) :
    Keeps (execIadd d a b f st) := by
  unfold execIadd
  simp (maxDischargeDepth := 30) [h]

@[simp] theorem execIsub_keeps {d a b : BitVec 7} {f : BitVec 4} {st : State} (h : st.Inv) :
    Keeps (execIsub d a b f st) := by
  unfold execIsub
  simp (maxDischargeDepth := 30) [h]

@[simp] theorem execImul_keeps {d a b : BitVec 7} {f : BitVec 4} {st : State} (h : st.Inv) :
    Keeps (execImul d a b f st) := by
  unfold execImul
  simp (maxDischargeDepth := 30) [h]

@[simp] theorem execImad_keeps {d a b : BitVec 7} {f : BitVec 4} {st : State} (h : st.Inv) :
    Keeps (execImad d a b f st) := by
  unfold execImad
  simp (maxDischargeDepth := 30) [h]

@[simp] theorem execImnx_keeps {d a b : BitVec 7} {f : BitVec 4} {st : State} (h : st.Inv) :
    Keeps (execImnx d a b f st) := by
  unfold execImnx
  simp (maxDischargeDepth := 30) [h]

@[simp] theorem execIsetp_keeps {p : BitVec 3} {a b : BitVec 7} {f : BitVec 4} {st : State} (h : st.Inv) :
    Keeps (execIsetp p a b f st) := by
  unfold execIsetp
  exact issue_keeps (fun c h => by simp +contextual (maxDischargeDepth := 30) [h]) h

@[simp] theorem execSel_keeps {d a b : BitVec 7} {s : BitVec 1} {p : BitVec 3} {st : State} (h : st.Inv) :
    Keeps (execSel d a b s p st) := by
  unfold execSel
  refine issue_keeps (fun c h => ?_) h
  try dsimp only
  (repeat' split) <;> simp +contextual (maxDischargeDepth := 30) [h]

@[simp] theorem execIaddc_keeps {d a b : BitVec 7} {s : BitVec 1} {p : BitVec 3} {st : State} (h : st.Inv) :
    Keeps (execIaddc d a b s p st) := by
  unfold execIaddc
  exact issue_keeps (fun c h => by simp +contextual (maxDischargeDepth := 30) [h]) h

@[simp] theorem execLand_keeps {d a b : BitVec 7} {st : State} (h : st.Inv) :
    Keeps (execLand d a b st) := by
  unfold execLand
  simp (maxDischargeDepth := 30) [h]

@[simp] theorem execLor_keeps {d a b : BitVec 7} {st : State} (h : st.Inv) :
    Keeps (execLor d a b st) := by
  unfold execLor
  simp (maxDischargeDepth := 30) [h]

@[simp] theorem execLxor_keeps {d a b : BitVec 7} {st : State} (h : st.Inv) :
    Keeps (execLxor d a b st) := by
  unfold execLxor
  simp (maxDischargeDepth := 30) [h]

@[simp] theorem execAndn_keeps {d a b : BitVec 7} {st : State} (h : st.Inv) :
    Keeps (execAndn d a b st) := by
  unfold execAndn
  simp (maxDischargeDepth := 30) [h]

@[simp] theorem execShl_keeps {d a b : BitVec 7} {f : BitVec 4} {st : State} (h : st.Inv) :
    Keeps (execShl d a b f st) := by
  unfold execShl
  simp (maxDischargeDepth := 30) [h]

@[simp] theorem execShr_keeps {d a b : BitVec 7} {f : BitVec 4} {st : State} (h : st.Inv) :
    Keeps (execShr d a b f st) := by
  unfold execShr
  simp (maxDischargeDepth := 30) [h]

@[simp] theorem execBfx_keeps {d a b : BitVec 7} {f : BitVec 4} {st : State} (h : st.Inv) :
    Keeps (execBfx d a b f st) := by
  unfold execBfx
  simp (maxDischargeDepth := 30) [h]

@[simp] theorem execBitop_keeps {d a : BitVec 7} {f : BitVec 4} {st : State} (h : st.Inv) :
    Keeps (execBitop d a f st) := by
  unfold execBitop
  simp (maxDischargeDepth := 30) [h]

@[simp] theorem execIaddi_keeps {d a : BitVec 7} {i : BitVec 11} {st : State} (h : st.Inv) :
    Keeps (execIaddi d a i st) := by
  unfold execIaddi
  simp (maxDischargeDepth := 30) [h]

@[simp] theorem execAndi_keeps {d a : BitVec 7} {i : BitVec 11} {st : State} (h : st.Inv) :
    Keeps (execAndi d a i st) := by
  unfold execAndi
  simp (maxDischargeDepth := 30) [h]

@[simp] theorem execOri_keeps {d a : BitVec 7} {i : BitVec 11} {st : State} (h : st.Inv) :
    Keeps (execOri d a i st) := by
  unfold execOri
  simp (maxDischargeDepth := 30) [h]

@[simp] theorem execXori_keeps {d a : BitVec 7} {i : BitVec 11} {st : State} (h : st.Inv) :
    Keeps (execXori d a i st) := by
  unfold execXori
  simp (maxDischargeDepth := 30) [h]

@[simp] theorem execShi_keeps {d a : BitVec 7} {k : BitVec 2} {n : BitVec 5} {st : State} (h : st.Inv) :
    Keeps (execShi d a k n st) := by
  unfold execShi
  simp (maxDischargeDepth := 30) [h]

@[simp] theorem execMovi_keeps {d : BitVec 7} {i : BitVec 18} {st : State} (h : st.Inv) :
    Keeps (execMovi d i st) := by
  unfold execMovi
  exact issue_keeps (fun c h => by simp +contextual (maxDischargeDepth := 30) [h]) h

@[simp] theorem execMovhi_keeps {d : BitVec 7} {i : BitVec 18} {st : State} (h : st.Inv) :
    Keeps (execMovhi d i st) := by
  unfold execMovhi
  exact issue_keeps (fun c h => by simp +contextual (maxDischargeDepth := 30) [h]) h

@[simp] theorem execIsetpi_keeps {p : BitVec 3} {a : BitVec 7} {cc : BitVec 3} {i : BitVec 8} {st : State} (h : st.Inv) :
    Keeps (execIsetpi p a cc i st) := by
  unfold execIsetpi
  exact issue_keeps (fun c h => by simp +contextual (maxDischargeDepth := 30) [h]) h

/-! ## Floating.lean -/

@[simp] theorem execFadd_keeps {d a b : BitVec 7} {f : BitVec 4} {st : State} (h : st.Inv) :
    Keeps (execFadd d a b f st) := by
  unfold execFadd
  simp (maxDischargeDepth := 30) [h]

@[simp] theorem execFmul_keeps {d a b : BitVec 7} {f : BitVec 4} {st : State} (h : st.Inv) :
    Keeps (execFmul d a b f st) := by
  unfold execFmul
  simp (maxDischargeDepth := 30) [h]

@[simp] theorem execFfma_keeps {d a b : BitVec 7} {f : BitVec 4} {st : State} (h : st.Inv) :
    Keeps (execFfma d a b f st) := by
  unfold execFfma
  simp (maxDischargeDepth := 30) [h]

@[simp] theorem execFmnx_keeps {d a b : BitVec 7} {f : BitVec 4} {st : State} (h : st.Inv) :
    Keeps (execFmnx d a b f st) := by
  unfold execFmnx
  simp (maxDischargeDepth := 30) [h]

@[simp] theorem execFsetp_keeps {p : BitVec 3} {a b : BitVec 7} {f : BitVec 4} {st : State} (h : st.Inv) :
    Keeps (execFsetp p a b f st) := by
  unfold execFsetp
  exact issue_keeps (fun c h => by simp +contextual (maxDischargeDepth := 30) [h]) h

@[simp] theorem execFsfu_keeps {d a : BitVec 7} {f : BitVec 4} {st : State} (h : st.Inv) :
    Keeps (execFsfu d a f st) := by
  unfold execFsfu
  simp (maxDischargeDepth := 30) [h]

@[simp] theorem execFcvt_keeps {d a : BitVec 7} {g : BitVec 5} {r v : BitVec 1} {f : BitVec 4} {st : State} (h : st.Inv) :
    Keeps (execFcvt d a g r v f st) := by
  unfold execFcvt
  simp (maxDischargeDepth := 30) [h]

@[simp] theorem execFclass_keeps {d a : BitVec 7} {f : BitVec 4} {st : State} (h : st.Inv) :
    Keeps (execFclass d a f st) := by
  unfold execFclass
  simp (maxDischargeDepth := 30) [h]

@[simp] theorem execHadd2_keeps {d a b : BitVec 7} {f : BitVec 4} {st : State} (h : st.Inv) :
    Keeps (execHadd2 d a b f st) := by
  unfold execHadd2
  simp (maxDischargeDepth := 30) [h]

@[simp] theorem execHmul2_keeps {d a b : BitVec 7} {f : BitVec 4} {st : State} (h : st.Inv) :
    Keeps (execHmul2 d a b f st) := by
  unfold execHmul2
  simp (maxDischargeDepth := 30) [h]

@[simp] theorem execHfma2_keeps {d a b : BitVec 7} {f : BitVec 4} {st : State} (h : st.Inv) :
    Keeps (execHfma2 d a b f st) := by
  unfold execHfma2
  simp (maxDischargeDepth := 30) [h]

@[simp] theorem execBfma2_keeps {d a b : BitVec 7} {f : BitVec 4} {st : State} (h : st.Inv) :
    Keeps (execBfma2 d a b f st) := by
  unfold execBfma2
  simp (maxDischargeDepth := 30) [h]

@[simp] theorem execDot4_keeps {d a b : BitVec 7} {f : BitVec 4} {st : State} (h : st.Inv) :
    Keeps (execDot4 d a b f st) := by
  unfold execDot4
  simp (maxDischargeDepth := 30) [h]

@[simp] theorem execPcvt_keeps {d a b : BitVec 7} {f : BitVec 4} {st : State} (h : st.Inv) :
    Keeps (execPcvt d a b f st) := by
  unfold execPcvt
  simp (maxDischargeDepth := 30) [h]

/-! ## Lane.lean -/

@[simp] theorem execMov_keeps {d a : BitVec 7} {f : BitVec 4} {st : State} (h : st.Inv) :
    Keeps (execMov d a f st) := by
  unfold execMov
  refine issue_keeps (fun c h => ?_) h
  try dsimp only
  (repeat' split) <;> simp +contextual (maxDischargeDepth := 30) [h]

@[simp] theorem execIdx_keeps {d a b : BitVec 7} {f : BitVec 4} {st : State} (h : st.Inv) :
    Keeps (execIdx d a b f st) := by
  unfold execIdx
  refine issue_keeps (fun c h => ?_) h
  try dsimp only
  (repeat' split) <;> simp +contextual (maxDischargeDepth := 30) [h]

@[simp] theorem execPlop_keeps {d a b : BitVec 3} {f : BitVec 4} {st : State} (h : st.Inv) :
    Keeps (execPlop d a b f st) := by
  unfold execPlop
  exact issue_keeps (fun c h => by simp +contextual (maxDischargeDepth := 30) [h]) h

@[simp] theorem execPset_keeps {p : BitVec 3} {f : BitVec 4} {st : State} (h : st.Inv) :
    Keeps (execPset p f st) := by
  unfold execPset
  exact issue_keeps (fun c h => by simp +contextual (maxDischargeDepth := 30) [h]) h

@[simp] theorem execPmov_keeps {d a : BitVec 7} {f : BitVec 4} {st : State} (h : st.Inv) :
    Keeps (execPmov d a f st) := by
  unfold execPmov
  refine issue_keeps (fun c h => ?_) h
  try dsimp only
  (repeat' split) <;> simp +contextual (maxDischargeDepth := 30) [h]

@[simp] theorem execVote_keeps {d a : BitVec 7} {f : BitVec 4} {st : State} (h : st.Inv) :
    Keeps (execVote d a f st) := by
  unfold execVote
  refine issue_keeps (fun c h => ?_) h
  try dsimp only
  (repeat' split) <;> simp +contextual (maxDischargeDepth := 30) [h]

@[simp] theorem execShfl_keeps {d a b : BitVec 7} {f : BitVec 4} {st : State} (h : st.Inv) :
    Keeps (execShfl d a b f st) := by
  unfold execShfl
  refine issue_keeps (fun c h => ?_) h
  try dsimp only
  (repeat' split) <;> simp +contextual (maxDischargeDepth := 30) [h]

@[simp] theorem execRedux_keeps {d a : BitVec 7} {f : BitVec 4} {st : State} (h : st.Inv) :
    Keeps (execRedux d a f st) := by
  unfold execRedux
  refine issue_keeps (fun c h => ?_) h
  try dsimp only
  (repeat' split) <;> simp +contextual (maxDischargeDepth := 30) [h]

end Sys2Proof.Machine
end

