-- ==== Sys2Proof/Laws/InvGroups.lean ====
section
/-! SUPPORT. The operations of Machine/Net, Groups, Fetch, Control, Replica, Depart keep the invariant. -/

namespace Sys2Proof.Machine

/-! ## Net.lean -/

@[simp] theorem putPath_inv {s : State} {p : Path} (h : s.Inv) :
    (putPath s p).Inv := by
  unfold putPath
  try dsimp only
  (repeat' split) <;> simp +contextual (maxDischargeDepth := 30) [h]

@[simp] theorem State.transmit_inv {s : State} {fs : List Frame} (h : s.Inv) :
    (s.transmit fs).Inv := by
  unfold State.transmit
  try dsimp only
  (repeat' split) <;> simp +contextual (maxDischargeDepth := 30) [h]

@[simp] theorem sendPeer_inv {s : State} {dev cls : Nat} {body : Payload} (h : s.Inv) :
    (sendPeer s dev cls body).Inv := by
  unfold sendPeer
  try dsimp only
  (repeat' split) <;> simp +contextual (maxDischargeDepth := 30) [h]

@[simp] theorem stampWindow_inv {s : State} {uids : List Nat} {launch n : Nat} (h : s.Inv) :
    (stampWindow s uids launch n).Inv := by
  unfold stampWindow
  try dsimp only
  (repeat' split) <;> simp +contextual (maxDischargeDepth := 30) [h]

theorem hostLaunch_inv {s t : State} {dev region k : Nat} {lent : Option Launch} (e : hostLaunch s dev region lent = some (t, k)) (h : s.Inv) :
    t.Inv := by
  unfold hostLaunch at e
  dsimp only at e
  (repeat' split at e) <;> cases e <;> simp (maxDischargeDepth := 30) [h]

@[simp] theorem State.sendTo_inv {s : State} {dev : Option Nat} {cls : MsgClass} {src dst : Nat} {body : Payload} (h : s.Inv) :
    (State.sendTo s dev cls src dst body).Inv := by
  unfold State.sendTo
  try dsimp only
  (repeat' split) <;> simp +contextual (maxDischargeDepth := 30) [h]

@[simp] theorem dropPart_inv {s : State} {old : Option Group} {m : Word} (h : s.Inv) :
    (dropPart s old m).Inv := by
  unfold dropPart
  try dsimp only
  (repeat' split) <;> simp +contextual (maxDischargeDepth := 30) [h]

theorem takeIn_inv {s : State} {dev : Nat} {u : Group} {lent : Option Launch} {r : State × Group} (e : takeIn s dev u lent = .ok r) (h : s.Inv) :
    r.1.Inv := by
  unfold takeIn at e
  dsimp only at e
  split at e
  · split at e
    · cases e
      simp (maxDischargeDepth := 30) [h]
    · cases e
  · split at e
    · rename_i hl
      cases e
      have hl := hostLaunch_inv hl (by simp (maxDischargeDepth := 30) [h])
      simp [hl]
    · cases e

/-! ## Groups.lean -/

@[simp] theorem State.putTeam_inv {s : State} {t : Team} (h : s.Inv) :
    (State.putTeam s t).Inv := by
  unfold State.putTeam
  try dsimp only
  (repeat' split) <;> simp +contextual (maxDischargeDepth := 30) [h]

@[simp] theorem resumeWaiter_inv {s : State} {t : Team} {k gen : Nat} {u : Group} (h : s.Inv) :
    (resumeWaiter s t k gen u).Inv := by
  unfold resumeWaiter
  try dsimp only
  (repeat' split) <;> simp +contextual (maxDischargeDepth := 30) [h]

@[simp] theorem barSettle_inv {s : State} {launch team k : Nat} (h : s.Inv) :
    (barSettle s launch team k).Inv := by
  unfold barSettle
  try dsimp only
  (repeat' split) <;> simp +contextual (maxDischargeDepth := 30) [h]

@[simp] theorem barCover_inv {s : State} {launch team grp gid : Nat} (h : s.Inv) :
    (barCover s launch team grp gid).Inv := by
  unfold barCover
  dsimp only
  split
  · exact h
  · refine foldl_inv (fun x k h => ?_) (by simp (maxDischargeDepth := 30) [h])
    (repeat' split) <;> simp (maxDischargeDepth := 30) [h]

@[simp] theorem leaveTeam_inv {s : State} {launch team grp : Nat} (h : s.Inv) :
    (leaveTeam s launch team grp).Inv := by
  unfold leaveTeam
  try dsimp only
  (repeat' split) <;> simp +contextual (maxDischargeDepth := 30) [h]

theorem barArrive_inv {s : State} {g : Group} {t : Team} {k scope : Nat} {count : Option Nat} {r : Nat × State}
    (e : barArrive s g t k scope count = some r) (h : s.Inv) : r.2.Inv := by
  unfold barArrive at e
  dsimp only at e
  (repeat' split at e) <;> cases e <;> simp (maxDischargeDepth := 30) [h]

theorem barInit_inv {s u : State} {t : Team} {k c : Nat} (e : barInit s t k c = some u) (h : s.Inv) : u.Inv := by
  unfold barInit at e
  dsimp only at e
  (repeat' split at e) <;> cases e
  simp (maxDischargeDepth := 30) [h]

theorem barEffect_inv {s : State} {g : Group} {t : Team} {k scope kind : Nat} {count : Option Nat} {r : State × Option Nat}
    (e : barEffect s g t k scope kind count = some r) (h : s.Inv) : r.1.Inv := by
  unfold barEffect at e
  dsimp only at e
  split at e
  · obtain ⟨x, hx, rfl⟩ := Option.map_eq_some_iff.1 e
    exact barInit_inv hx h
  · split at e <;> cases e <;> exact h
  · split at e
    · cases e
    · rename_i hb
      cases e
      have hb := barArrive_inv hb h
      simp (maxDischargeDepth := 30) [hb]

@[simp] theorem discardLicence_inv {s : State} {p : TwinPair} (h : s.Inv) :
    (discardLicence s p).Inv := by
  unfold discardLicence
  try dsimp only
  (repeat' split) <;> simp +contextual (maxDischargeDepth := 30) [h]

@[simp] theorem releaseLicence_inv {s : State} {gid core : Nat} (h : s.Inv) :
    (releaseLicence s gid core).Inv := by
  unfold releaseLicence
  try dsimp only
  (repeat' split) <;> simp +contextual (maxDischargeDepth := 30) [h]

@[simp] theorem xsigWake_inv {s : State} {w : TwinWindow} {upper : Bool} {u : Group} (h : s.Inv) :
    (xsigWake s w upper u).Inv := by
  unfold xsigWake
  try dsimp only
  (repeat' split) <;> simp +contextual (maxDischargeDepth := 30) [h]

@[simp] theorem xsigSettle_inv {s : State} {launch lower slot : Nat} (h : s.Inv) :
    (xsigSettle s launch lower slot).Inv := by
  unfold xsigSettle
  refine foldl_inv (fun t u h => ?_) h
  (repeat' split) <;> simp (maxDischargeDepth := 30) [h]

@[simp] theorem xsigReturn_inv {s : State} {g : Group} {halted : Bool} (h : s.Inv) :
    (xsigReturn s g halted).Inv := by
  unfold xsigReturn
  try dsimp only
  (repeat' split) <;> simp +contextual (maxDischargeDepth := 30) [h]

@[simp] theorem cutUnit_inv {s : State} {g : Group} {sl : Slot} {b : Nat} {masks : List Word} (h : s.Inv) : (cutUnit s g sl b masks).1.Inv := by
  unfold cutUnit
  dsimp only
  split
  · exact h
  · simp +contextual (maxDischargeDepth := 30) [h]

@[simp] theorem completeRecord_inv {s : State} {x : Slot} {r : Rejoin} (h : s.Inv) :
    (completeRecord s x r).Inv := by
  unfold completeRecord
  try dsimp only
  (repeat' split) <;> simp +contextual (maxDischargeDepth := 30) [h]

@[simp] theorem settleRecord_inv {s : State} {x : Slot} {r : Rejoin} (h : s.Inv) :
    (settleRecord s x r).Inv := by
  unfold settleRecord
  try dsimp only
  (repeat' split) <;> simp +contextual (maxDischargeDepth := 30) [h]

@[simp] theorem passImage_inv {s : State} {u : Group} (h : s.Inv) :
    (passImage s u).Inv := by
  unfold passImage
  try dsimp only
  (repeat' split) <;> simp +contextual (maxDischargeDepth := 30) [h]

@[simp] theorem arriveRecord_inv {s : State} {u : Group} {regs : Option (List (Nat × List Word))} (h : s.Inv) :
    (arriveRecord s u regs).Inv := by
  unfold arriveRecord
  try dsimp only
  (repeat' split) <;> simp +contextual (maxDischargeDepth := 30) [h]

@[simp] theorem leaveRecords_inv {fuel : Nat} {s : State} {gid here dev core b : Nat} {m : Word} (h : s.Inv) :
    (leaveRecords fuel s gid here dev core b m).Inv := by
  induction fuel generalizing s dev core b with
  | zero => exact h
  | succ n ih =>
    unfold leaveRecords
    (repeat' split)
    · exact h
    · simp (maxDischargeDepth := 30) [h]
    · simp (maxDischargeDepth := 30) [h]
    · exact h
    · exact ih (by simp (maxDischargeDepth := 30) [h])

@[simp] theorem retireGroup_inv {s : State} {g : Group} (h : s.Inv) :
    (retireGroup s g).Inv := by
  unfold retireGroup
  try dsimp only
  (repeat' split) <;> simp +contextual (maxDischargeDepth := 30) [h]

@[simp] theorem afterExit_inv {s : State} {g : Group} (h : s.Inv) :
    (afterExit s g).Inv := by
  unfold afterExit
  try dsimp only
  (repeat' split) <;> simp +contextual (maxDischargeDepth := 30) [h]

@[simp] theorem exitStrands_inv {s : State} {g : Group} {e : Word} (h : s.Inv) :
    (exitStrands s g e).Inv := by
  unfold exitStrands
  dsimp only
  cases homeOf g.gid <;> (split <;> simp (maxDischargeDepth := 30) [h])

/-! ## Fetch.lean -/

theorem readOver_inv {s : State} {core a n : Nat} {p : Page} {r : Nat × State} (e : readOver s core p a n = .ok r) (h : s.Inv) : r.2.Inv := by
  unfold readOver at e
  dsimp only at e
  (repeat' split at e) <;> cases e <;> simp (maxDischargeDepth := 30) [h]

theorem readBundle_inv {s : State} {g : Group} {a lo hi : Nat} {t : State} (e : readBundle s g a = .ok (lo, hi, t)) (h : s.Inv) : t.Inv := by
  unfold readBundle at e
  split at e
  · cases e
  split at e
  · cases e
  rename_i e₁
  have h₁ := readOver_inv e₁ (State.notePage_inv h)
  revert e
  cases e₂ : readOver _ _ _ _ _ with
  | error _ => exact fun e => nomatch e
  | ok r => rintro ⟨⟩; exact readOver_inv e₂ h₁

theorem readFor_inv {s : State} {g : Group} {k : TKind} {a n : Nat} {r : Nat × State} (e : readFor s g k a n = .ok r) (h : s.Inv) :
    r.2.Inv := by
  unfold readFor at e
  (repeat' split at e) <;> first | cases e | exact readOver_inv e (State.notePage_inv h)

/-! ## Control.lean -/

@[simp] theorem Ctx.jump_inv {c : Ctx} {i : Instr} {t : Nat} {ws : List PendWrite} (h : c.s.Inv) :
    (Ctx.jump c i t ws).Inv := by
  unfold Ctx.jump
  try dsimp only
  (repeat' split) <;> simp +contextual (maxDischargeDepth := 30) [h]

@[simp] theorem execNop_keeps  {st : State} (h : st.Inv) :
    Keeps (execNop st) := by
  unfold execNop
  exact issue_keeps (fun c h => by simp +contextual (maxDischargeDepth := 30) [h]) h

@[simp] theorem execPad_keeps {r : BitVec 1} {l : BitVec 24} {st : State} (h : st.Inv) :
    Keeps (execPad r l st) := by
  unfold execPad
  exact issue_keeps (fun c h => by simp +contextual (maxDischargeDepth := 30) [h]) h

@[simp] theorem execBra_keeps {o : BitVec 16} {st : State} (h : st.Inv) :
    Keeps (execBra o st) := by
  unfold execBra
  exact issue_keeps (fun c h => by simp +contextual (maxDischargeDepth := 30) [h]) h

@[simp] theorem Ctx.splitBranch_inv {c : Ctx} {i : Instr} {t : Word} {b target : Nat} (h : c.s.Inv) :
    (Ctx.splitBranch c i t b target).Inv := by
  unfold Ctx.splitBranch
  dsimp only
  split
  · refine foldl_inv (fun x f h => ?_) (by simp (maxDischargeDepth := 30) [h])
    simp (maxDischargeDepth := 30) [h]
  · simp (maxDischargeDepth := 30) [h]

@[simp] theorem execBrc_keeps {p : BitVec 3} {s : BitVec 1} {b : BitVec 5} {o : BitVec 16} {st : State} (h : st.Inv) :
    Keeps (execBrc p s b o st) := by
  unfold execBrc
  refine issue_keeps (fun c h => ?_) h
  try dsimp only
  (repeat' split) <;> simp +contextual (maxDischargeDepth := 30) [h]

@[simp] theorem execCall_keeps {l : BitVec 3} {o : BitVec 16} {st : State} (h : st.Inv) :
    Keeps (execCall l o st) := by
  unfold execCall
  exact issue_keeps (fun c h => by simp +contextual (maxDischargeDepth := 30) [h]) h

@[simp] theorem execRet_keeps {a : BitVec 7} {st : State} (h : st.Inv) :
    Keeps (execRet a st) := by
  unfold execRet
  exact issue_keeps (fun c h => by simp +contextual (maxDischargeDepth := 30) [h]) h

@[simp] theorem execLoop_keeps {k : BitVec 4} {o : BitVec 16} {st : State} (h : st.Inv) :
    Keeps (execLoop k o st) := by
  unfold execLoop
  refine issue_keeps (fun c h => ?_) h
  try dsimp only
  (repeat' split) <;> simp +contextual (maxDischargeDepth := 30) [h]

@[simp] theorem Ctx.failRead_inv {c : Ctx} {i : Instr} {a : Nat} {e : ReadFault} (h : c.s.Inv) :
    (Ctx.failRead c i a e).Inv := by
  unfold Ctx.failRead
  try dsimp only
  (repeat' split) <;> simp +contextual (maxDischargeDepth := 30) [h]

@[simp] theorem execJtab_keeps {a b : BitVec 7} {st : State} (h : st.Inv) :
    Keeps (execJtab a b st) := by
  unfold execJtab
  refine issue_keeps (fun c h => ?_) h
  dsimp only
  split
  · split <;> simp (maxDischargeDepth := 30) [h]
  split
  · simp (maxDischargeDepth := 30) [h]
  split
  · simp [Ctx.failRead, h]
  rename_i e1
  have h := readFor_inv e1 h
  split
  · simp (maxDischargeDepth := 30) [h]
  split
  · simp [Ctx.failRead, h]
  rename_i e2
  have h := readFor_inv e2 h
  split
  · simp (maxDischargeDepth := 30) [h]
  split
  · simp [Ctx.failRead, h]
  rename_i e3
  have h := readFor_inv e3 h
  split <;> simp (maxDischargeDepth := 30) [h]

@[simp] theorem execExit_keeps {s : BitVec 1} {p : BitVec 3} {st : State} (h : st.Inv) :
    Keeps (execExit s p st) := by
  unfold execExit
  refine issue_keeps (fun c h => ?_) h
  try dsimp only
  (repeat' split) <;> simp +contextual (maxDischargeDepth := 30) [h]

@[simp] theorem execTrap_keeps {n : BitVec 11} {st : State} (h : st.Inv) :
    Keeps (execTrap n st) := by
  unfold execTrap
  refine issue_keeps (fun c h => ?_) h
  try dsimp only
  (repeat' split) <;> simp +contextual (maxDischargeDepth := 30) [h]

@[simp] theorem execPause_keeps {n : BitVec 11} {st : State} (h : st.Inv) :
    Keeps (execPause n st) := by
  unfold execPause
  refine issue_keeps (fun c h => ?_) h
  try dsimp only
  (repeat' split) <;> simp +contextual (maxDischargeDepth := 30) [h]

@[simp] theorem execSleep_keeps {a : BitVec 7} {st : State} (h : st.Inv) :
    Keeps (execSleep a st) := by
  unfold execSleep
  refine issue_keeps (fun c h => ?_) h
  try dsimp only
  (repeat' split) <;> simp +contextual (maxDischargeDepth := 30) [h]

@[simp] theorem execWinb_keeps {m : BitVec 1} {k : BitVec 11} {st : State} (h : st.Inv) :
    Keeps (execWinb m k st) := by
  unfold execWinb
  refine issue_keeps (fun c h => ?_) h
  try dsimp only
  (repeat' split) <;> simp +contextual (maxDischargeDepth := 30) [h]

@[simp] theorem execSwinb_keeps {m : BitVec 1} {k : BitVec 11} {st : State} (h : st.Inv) :
    Keeps (execSwinb m k st) := by
  unfold execSwinb
  refine issue_keeps (fun c h => ?_) h
  try dsimp only
  (repeat' split) <;> simp +contextual (maxDischargeDepth := 30) [h]

@[simp] theorem execLive_keeps {v : BitVec 7} {n : BitVec 6} {k : BitVec 6} {b : BitVec 5} {st : State} (h : st.Inv) :
    Keeps (execLive v n k b st) := by
  unfold execLive
  refine issue_keeps (fun c h => ?_) h
  try dsimp only
  (repeat' split) <;> simp +contextual (maxDischargeDepth := 30) [h]

/-! ## Replica.lean -/

@[simp] theorem latRaise_inv {s : State} {r : LatRegion} {die o v : Nat} {source : Option Nat} {time : Nat} (h : s.Inv) :
    (latRaise s r die o v source time).Inv := by
  unfold latRaise
  try dsimp only
  (repeat' split) <;> simp +contextual (maxDischargeDepth := 30) [h]

@[simp] theorem latReschedule_inv {s : State} (h : s.Inv) :
    (latReschedule s).Inv := by
  unfold latReschedule
  try dsimp only
  (repeat' split) <;> simp +contextual (maxDischargeDepth := 30) [h]

@[simp] theorem startFlush_inv {s : State} {uid die : Nat} {r : LatRegion} (h : s.Inv) : (startFlush s uid die r).2.Inv := by
  simp +contextual (maxDischargeDepth := 30) [startFlush, h]

@[simp] theorem settleFlush_inv {s : State} {id : Nat} (h : s.Inv) :
    (settleFlush s id).Inv := by
  unfold settleFlush
  try dsimp only
  (repeat' split) <;> simp +contextual (maxDischargeDepth := 30) [h]

/-! ## Depart.lean -/

@[simp] theorem locWrite_inv {s : State} {l : Loc} {bs : List Byte} (h : s.Inv) :
    (locWrite s l bs).Inv := by
  unfold locWrite
  try dsimp only
  (repeat' split) <;> simp +contextual (maxDischargeDepth := 30) [h]

@[simp] theorem performOne_inv {s : State} {k : AKind} {n : Nat} {x : StrandAcc} (h : s.Inv) : (performOne s k n x).2.Inv := by
  unfold performOne
  dsimp only
  split <;> simp (maxDischargeDepth := 30) [h]

@[simp] theorem performStrands_inv {s : State} {k : AKind} {n : Nat} {xs : List StrandAcc} (h : s.Inv) : (performStrands s k n xs).2.Inv := by
  unfold performStrands
  exact foldl_snd_inv (fun q x h => performOne_inv h) h

@[simp] theorem clearPoison_inv {s : State} {a : Access} (h : s.Inv) :
    (clearPoison s a).Inv := by
  unfold clearPoison
  try dsimp only
  (repeat' split) <;> simp +contextual (maxDischargeDepth := 30) [h]

theorem performAll_inv {s : State} {a : Access} {r : List (Nat × Nat) × State} (e : performAll s a = .ok r) (h : s.Inv) : r.2.Inv := by
  unfold performAll at e
  (repeat' split at e) <;> cases e
  exact clearPoison_inv (performStrands_inv h)

theorem performFor_inv {s : State} {region : Nat} {a : Access} {r : List (Nat × Nat) × State} (e : performFor s region a = .ok r) (h : s.Inv) :
    r.2.Inv := by
  unfold performFor at e
  split at e
  · cases e
  · exact performAll_inv e h

@[simp] theorem flushFor_inv {s : State} {g : Group} {bases : List Nat} (h : s.Inv) :
    (flushFor s g bases).Inv := by
  unfold flushFor
  refine foldl_inv (fun t b h => ?_) h
  (repeat' split) <;> simp (maxDischargeDepth := 30) [h]

theorem leaveWait_inv {s t : State} {g : Group} {dev die target : Nat} (e : leaveWait s g dev die target = some t) (h : s.Inv) : t.Inv := by
  unfold leaveWait at e
  dsimp only at e
  (repeat' split at e) <;> cases e <;> simp (maxDischargeDepth := 30) [h]

@[simp] theorem sendJoins_inv {s : State} {g : Group} {target : Nat} (h : s.Inv) : (sendJoins s g target).1.Inv := by
  unfold sendJoins
  dsimp only
  (repeat' split) <;> simp (maxDischargeDepth := 30) [h]

@[simp] theorem depart_inv {s : State} {g : Group} {d : Leaving} (h : s.Inv) :
    (depart s g d).Inv := by
  unfold depart
  dsimp only
  split
  · exact h
  · split <;> simp (maxDischargeDepth := 30) [h]

@[simp] theorem sendBack_inv {s : State} {u : Group} {src : Nat} {bare : Bool} {code addr : Nat} {home : Option (Nat × Nat)} (h : s.Inv) :
    (sendBack s u src bare code addr home).Inv := by
  unfold sendBack
  try dsimp only
  (repeat' split) <;> simp +contextual (maxDischargeDepth := 30) [h]

theorem enqueue_inv {s t : State} {core uid src : Nat} (e : enqueue s core uid src = some t) (h : s.Inv) : t.Inv := by
  unfold enqueue at e
  dsimp only at e
  (repeat' split at e) <;> cases e <;> simp (maxDischargeDepth := 30) [h]

@[simp] theorem leaveQueue_inv {s : State} {core uid : Nat} (h : s.Inv) :
    (leaveQueue s core uid).Inv := by
  unfold leaveQueue
  try dsimp only
  (repeat' split) <;> simp +contextual (maxDischargeDepth := 30) [h]

@[simp] theorem freeAnswered_inv {s : State} {uid flag : Nat} (h : s.Inv) :
    (freeAnswered s uid flag).Inv := by
  unfold freeAnswered
  try dsimp only
  (repeat' split) <;> simp +contextual (maxDischargeDepth := 30) [h]

@[simp] theorem landCompletion_inv {s : State} {g : Group} {flag : Nat} {res : List Results} {fault : Option FlagFault} (h : s.Inv) :
    (landCompletion s g flag res fault).Inv := by
  unfold landCompletion
  try dsimp only
  (repeat' split) <;> simp +contextual (maxDischargeDepth := 30) [h]

@[simp] theorem applyOne_inv {s : State} {uid : Nat} {m : Msg} (h : s.Inv) :
    (applyOne s uid m).Inv := by
  unfold applyOne
  try dsimp only
  (repeat' split) <;> simp +contextual (maxDischargeDepth := 30) [h]

@[simp] theorem applyHeld_inv {s : State} {uid : Nat} (h : s.Inv) : (applyHeld s uid).Inv := foldl_inv (fun _ _ ht => applyOne_inv ht) h

@[simp] theorem admitTo_inv {s : State} {u : Group} {slot : Nat} {share : Bool} {valloc salloc : Nat} (h : s.Inv) :
    (admitTo s u slot share valloc salloc).Inv := by
  unfold admitTo
  try dsimp only
  (repeat' split) <;> simp +contextual (maxDischargeDepth := 30) [h]

theorem admitHead_inv {s t : State} {core : Nat} (e : admitHead s core = some t) (h : s.Inv) : t.Inv := by
  unfold admitHead at e
  dsimp only at e
  (repeat' split at e) <;> cases e <;> simp (maxDischargeDepth := 30) [h]

@[simp] theorem execIngotAdmission_keeps {core : Nat} {s : State} (h : s.Inv) :
    Keeps (execIngotAdmission core s) := by
  unfold execIngotAdmission
  rw [keeps_next]
  cases e : admitHead s core with
  | none => exact h
  | some t => exact admitHead_inv e h

@[simp] theorem afterAccess_inv {s : State} {u : Group} {a : Access} {dest : Dest} {flag : Nat} {home : Nat} (h : s.Inv) :
    (afterAccess s u a dest flag home).Inv := by
  unfold afterAccess
  dsimp only
  split
  · split <;> simp (maxDischargeDepth := 30) [h]
  · rename_i e
    have h := performFor_inv e h
    split <;> simp (maxDischargeDepth := 30) [h]

@[simp] theorem refuseUnit_inv {s : State} {dev : Nat} {u : Group} {bare : Bool} {code addr : Nat} (h : s.Inv) :
    (refuseUnit s dev u bare code addr).Inv := by
  unfold refuseUnit
  try dsimp only
  (repeat' split) <;> simp +contextual (maxDischargeDepth := 30) [h]

@[simp] theorem ingotArrives_inv {s : State} {m : Msg} {u : Group} {acc : Option Access} {dest : Dest} {flag : Nat} (h : s.Inv) :
    (ingotArrives s m u acc dest flag).Inv := by
  unfold ingotArrives
  dsimp only
  split
  · split <;> simp (maxDischargeDepth := 30) [h]
  split
  · split <;> simp (maxDischargeDepth := 30) [h]
  split
  · exact h
  split
  · simp (maxDischargeDepth := 30) [h]
  split
  · exact h
  split
  · exact h
  · rename_i e
    have h := enqueue_inv e h
    split <;> simp (maxDischargeDepth := 30) [h]

@[simp] theorem execIngotArrival_keeps {m : Nat} {s : State} (h : s.Inv) :
    Keeps (execIngotArrival m s) := by
  unfold execIngotArrival
  try dsimp only
  (repeat' split) <;> simp +contextual (maxDischargeDepth := 30) [h]

end Sys2Proof.Machine
end

