-- ==== Sys2Proof/Laws/InvAccess.lean ====
section
/-! SUPPORT. The operations of Machine/Access, Memory, Sync keep the invariant. -/

namespace Sys2Proof.Machine

/-! ## Access.lean -/

@[simp] theorem Ctx.release_inv {c : Ctx} {i : Instr} {scope : Nat} {tile : Bool} {go : State} (h : c.s.Inv) (hgo : go.Inv) :
    (Ctx.release c i scope tile go).Inv := by
  unfold Ctx.release
  split
  · exact hgo
  · simp [h]
  · simp (maxDischargeDepth := 30) [h]
  · exact Ctx.fail_inv h

@[simp] theorem Ctx.flagFail_inv {c : Ctx} {i : Instr} {op : MemOp} {absent : Word} {mine : List StrandAcc} {code va : Nat}
    {home : Option (Nat × Nat)} (h : c.s.Inv) : (c.flagFail i op absent mine code va home).Inv := by
  simp (maxDischargeDepth := 30) [Ctx.flagFail, h]

@[simp] theorem Ctx.performHere_inv {c : Ctx} {i : Instr} {op : MemOp} {absent : Word} {local_ : List StrandAcc} {banks : List (Nat × StrandAcc)}
    {advance : Bool} {visits : List Access} {home : Option (Nat × Nat)} (h : c.s.Inv) :
    (Ctx.performHere c i op absent local_ banks advance visits home).Inv := by
  unfold Ctx.performHere
  dsimp only
  split
  · simp [h]
  split
  · split <;> simp [h]
  · rename_i e
    have h := performFor_inv e h
    exact State.modUnit_inv (foldl_inv (fun t b ht => State.send_inv ht) (Ctx.retire_inv h))

@[simp] theorem Ctx.flagHere_inv {c : Ctx} {i : Instr} {op : MemOp} {absent : Word} {ws : List PendWrite} {local_ : List StrandAcc}
    {banks : List (Nat × StrandAcc)} (h : c.s.Inv) : (Ctx.flagHere c i op absent ws local_ banks).Inv := by
  unfold Ctx.flagHere
  dsimp only
  split
  · simp [h]
  · exact foldl_inv (fun t b ht => State.send_inv ht) (by simp (maxDischargeDepth := 30) [h])

@[simp] theorem State.addPosted_inv {s : State} {p : Posted} (h : s.Inv) :
    (State.addPosted s p).Inv := by
  unfold State.addPosted
  try dsimp only
  (repeat' split) <;> simp +contextual (maxDischargeDepth := 30) [h]

@[simp] theorem launchPosted_inv {s : State} {p : Posted} {acc : Access} {region : Nat} (h : s.Inv) :
    (launchPosted s p acc region).Inv := by
  unfold launchPosted
  try dsimp only
  (repeat' split) <;> simp +contextual (maxDischargeDepth := 30) [h]

@[simp] theorem sendPosted_inv {s : State} {g : Group} {dev stack : Nat} {acc : Access} (h : s.Inv) : (sendPosted s g dev stack acc).Inv :=
  launchPosted_inv (State.addPosted_inv h)

@[simp] theorem holdPosted_inv {s : State} {g : Group} {dev stack scope : Nat} {acc : Access} {after : List Nat} (h : s.Inv) :
    (holdPosted s g dev stack scope acc after).Inv := State.addPosted_inv h

@[simp] theorem postTo_inv {s : State} {g : Group} {a : Access} (h : s.Inv) :
    (postTo s g a).Inv := by
  unfold postTo
  try dsimp only
  (repeat' split) <;> simp +contextual (maxDischargeDepth := 30) [h]

@[simp] theorem Ctx.post_inv {c : Ctx} {i : Instr} {op : MemOp} {accs : List Access} (h : c.s.Inv) : (Ctx.post c i op accs).Inv := by
  unfold Ctx.post
  dsimp only
  split
  · simp [h]
  · refine foldl_inv (fun t a ht => ?_) (Ctx.retire_inv h)
    split <;> simp [ht]

@[simp] theorem Ctx.visit_inv {c : Ctx} {i : Instr} {op : MemOp} {absent : Word} {a : Access} {rest : List Access} (h : c.s.Inv) :
    (Ctx.visit c i op absent a rest).Inv := by
  unfold Ctx.visit
  dsimp only
  split
  · simp [h]
  split
  · simp [h]
  split
  · simp [h]
  split
  · simp [h]
  split
  · rename_i e
    exact hold_inv (leaveWait_inv e h)
  · split <;> simp (maxDischargeDepth := 30) [h]

@[simp] theorem Ctx.splitMemory_inv {c : Ctx} {i : Instr} {op : MemOp} {absent : Word} {far : List Access} {here : List StrandAcc} {banks : List (Nat × StrandAcc)} (h : c.s.Inv) :
    (Ctx.splitMemory c i op absent far here banks).Inv := by
  unfold Ctx.splitMemory
  dsimp only
  split
  · simp [h]
  split
  · rename_i e
    obtain ⟨a, -, e⟩ := List.exists_of_findSome?_eq_some e
    exact hold_inv (leaveWait_inv e h)
  split
  · refine foldl_inv (fun t f h => ?_) ?_
    · split <;> simp [h]
    · split
      · simp (maxDischargeDepth := 30) [h]
      · split
        · simp (maxDischargeDepth := 30) [h]
        · split <;> simp (maxDischargeDepth := 30) [h]
  · simp [h]

@[simp] theorem Ctx.access_inv {c : Ctx} {i : Instr} {op : MemOp} {ps : List (Nat × Place)} (h : c.s.Inv) :
    (Ctx.access c i op ps).Inv := by
  unfold Ctx.access
  dsimp only
  (repeat' split) <;> simp [h]

@[simp] theorem Ctx.mem_inv {c : Ctx} {i : Instr} {op : MemOp} (h : c.s.Inv) :
    (Ctx.mem c i op).Inv := by
  unfold Ctx.mem
  try dsimp only
  (repeat' split) <;> simp +contextual (maxDischargeDepth := 30) [h]

/-! ## Memory.lean -/

@[simp] theorem issueMem_keeps {i : Instr} {op : MemOp} {st : State} (h : st.Inv) :
    Keeps (issueMem i op st) := by
  unfold issueMem
  exact issueFar_keeps (issue_keeps (fun c h => by simp +contextual (maxDischargeDepth := 30) [h]) h) h

@[simp] theorem execLdb_keeps {d a : BitVec 7} {o f : BitVec 4} {st : State} (h : st.Inv) :
    Keeps (execLdb d a o f st) := by
  unfold execLdb
  simp (maxDischargeDepth := 30) [h]

@[simp] theorem execLdh_keeps {d a : BitVec 7} {o f : BitVec 4} {st : State} (h : st.Inv) :
    Keeps (execLdh d a o f st) := by
  unfold execLdh
  simp (maxDischargeDepth := 30) [h]

@[simp] theorem execLdw_keeps {d a : BitVec 7} {o f : BitVec 4} {st : State} (h : st.Inv) :
    Keeps (execLdw d a o f st) := by
  unfold execLdw
  simp (maxDischargeDepth := 30) [h]

@[simp] theorem execLdd_keeps {d a : BitVec 7} {o f : BitVec 4} {st : State} (h : st.Inv) :
    Keeps (execLdd d a o f st) := by
  unfold execLdd
  simp (maxDischargeDepth := 30) [h]

@[simp] theorem execLdba_keeps {d a : BitVec 7} {s : BitVec 3} {o f : BitVec 4} {st : State} (h : st.Inv) :
    Keeps (execLdba d a s o f st) := by
  unfold execLdba
  simp (maxDischargeDepth := 30) [h]

@[simp] theorem execLdha_keeps {d a : BitVec 7} {s : BitVec 3} {o f : BitVec 4} {st : State} (h : st.Inv) :
    Keeps (execLdha d a s o f st) := by
  unfold execLdha
  simp (maxDischargeDepth := 30) [h]

@[simp] theorem execLdwa_keeps {d a : BitVec 7} {s : BitVec 3} {o f : BitVec 4} {st : State} (h : st.Inv) :
    Keeps (execLdwa d a s o f st) := by
  unfold execLdwa
  simp (maxDischargeDepth := 30) [h]

@[simp] theorem execLdda_keeps {d a : BitVec 7} {s : BitVec 3} {o f : BitVec 4} {st : State} (h : st.Inv) :
    Keeps (execLdda d a s o f st) := by
  unfold execLdda
  simp (maxDischargeDepth := 30) [h]

@[simp] theorem execStb_keeps {d a : BitVec 7} {o : BitVec 4} {p : BitVec 1} {g : BitVec 3} {st : State} (h : st.Inv) :
    Keeps (execStb d a o p g st) := by
  unfold execStb
  simp (maxDischargeDepth := 30) [h]

@[simp] theorem execSth_keeps {d a : BitVec 7} {o : BitVec 4} {p : BitVec 1} {g : BitVec 3} {st : State} (h : st.Inv) :
    Keeps (execSth d a o p g st) := by
  unfold execSth
  simp (maxDischargeDepth := 30) [h]

@[simp] theorem execStw_keeps {d a : BitVec 7} {o : BitVec 4} {p : BitVec 1} {g : BitVec 3} {st : State} (h : st.Inv) :
    Keeps (execStw d a o p g st) := by
  unfold execStw
  simp (maxDischargeDepth := 30) [h]

@[simp] theorem execStd_keeps {d a : BitVec 7} {o : BitVec 4} {p : BitVec 1} {g : BitVec 3} {st : State} (h : st.Inv) :
    Keeps (execStd d a o p g st) := by
  unfold execStd
  simp (maxDischargeDepth := 30) [h]

@[simp] theorem execStbl_keeps {d a : BitVec 7} {s : BitVec 3} {o : BitVec 4} {p : BitVec 1} {g : BitVec 3} {st : State} (h : st.Inv) :
    Keeps (execStbl d a s o p g st) := by
  unfold execStbl
  simp (maxDischargeDepth := 30) [h]

@[simp] theorem execSthl_keeps {d a : BitVec 7} {s : BitVec 3} {o : BitVec 4} {p : BitVec 1} {g : BitVec 3} {st : State} (h : st.Inv) :
    Keeps (execSthl d a s o p g st) := by
  unfold execSthl
  simp (maxDischargeDepth := 30) [h]

@[simp] theorem execStwl_keeps {d a : BitVec 7} {s : BitVec 3} {o : BitVec 4} {p : BitVec 1} {g : BitVec 3} {st : State} (h : st.Inv) :
    Keeps (execStwl d a s o p g st) := by
  unfold execStwl
  simp (maxDischargeDepth := 30) [h]

@[simp] theorem execStdl_keeps {d a : BitVec 7} {s : BitVec 3} {o : BitVec 4} {p : BitVec 1} {g : BitVec 3} {st : State} (h : st.Inv) :
    Keeps (execStdl d a s o p g st) := by
  unfold execStdl
  simp (maxDischargeDepth := 30) [h]

@[simp] theorem execStn_keeps {d a : BitVec 7} {o : BitVec 4} {p : BitVec 1} {g : BitVec 3} {st : State} (h : st.Inv) :
    Keeps (execStn d a o p g st) := by
  unfold execStn
  simp (maxDischargeDepth := 30) [h]

@[simp] theorem execStbm_keeps {d a b : BitVec 7} {p : BitVec 1} {g : BitVec 3} {st : State} (h : st.Inv) :
    Keeps (execStbm d a b p g st) := by
  unfold execStbm
  simp (maxDischargeDepth := 30) [h]

@[simp] theorem execAadd_keeps {d a : BitVec 7} {b : BitVec 5} {s : BitVec 3} {o : BitVec 2} {p : BitVec 1} {st : State} (h : st.Inv) :
    Keeps (execAadd d a b s o p st) := by
  unfold execAadd
  simp (maxDischargeDepth := 30) [h]

@[simp] theorem execAsub_keeps {d a : BitVec 7} {b : BitVec 5} {s : BitVec 3} {o : BitVec 2} {p : BitVec 1} {st : State} (h : st.Inv) :
    Keeps (execAsub d a b s o p st) := by
  unfold execAsub
  simp (maxDischargeDepth := 30) [h]

@[simp] theorem execAmins_keeps {d a : BitVec 7} {b : BitVec 5} {s : BitVec 3} {o : BitVec 2} {p : BitVec 1} {st : State} (h : st.Inv) :
    Keeps (execAmins d a b s o p st) := by
  unfold execAmins
  simp (maxDischargeDepth := 30) [h]

@[simp] theorem execAmaxs_keeps {d a : BitVec 7} {b : BitVec 5} {s : BitVec 3} {o : BitVec 2} {p : BitVec 1} {st : State} (h : st.Inv) :
    Keeps (execAmaxs d a b s o p st) := by
  unfold execAmaxs
  simp (maxDischargeDepth := 30) [h]

@[simp] theorem execAminu_keeps {d a : BitVec 7} {b : BitVec 5} {s : BitVec 3} {o : BitVec 2} {p : BitVec 1} {st : State} (h : st.Inv) :
    Keeps (execAminu d a b s o p st) := by
  unfold execAminu
  simp (maxDischargeDepth := 30) [h]

@[simp] theorem execAmaxu_keeps {d a : BitVec 7} {b : BitVec 5} {s : BitVec 3} {o : BitVec 2} {p : BitVec 1} {st : State} (h : st.Inv) :
    Keeps (execAmaxu d a b s o p st) := by
  unfold execAmaxu
  simp (maxDischargeDepth := 30) [h]

@[simp] theorem execAand_keeps {d a : BitVec 7} {b : BitVec 5} {s : BitVec 3} {o : BitVec 2} {p : BitVec 1} {st : State} (h : st.Inv) :
    Keeps (execAand d a b s o p st) := by
  unfold execAand
  simp (maxDischargeDepth := 30) [h]

@[simp] theorem execAor_keeps {d a : BitVec 7} {b : BitVec 5} {s : BitVec 3} {o : BitVec 2} {p : BitVec 1} {st : State} (h : st.Inv) :
    Keeps (execAor d a b s o p st) := by
  unfold execAor
  simp (maxDischargeDepth := 30) [h]

@[simp] theorem execAxor_keeps {d a : BitVec 7} {b : BitVec 5} {s : BitVec 3} {o : BitVec 2} {p : BitVec 1} {st : State} (h : st.Inv) :
    Keeps (execAxor d a b s o p st) := by
  unfold execAxor
  simp (maxDischargeDepth := 30) [h]

@[simp] theorem execAxch_keeps {d a : BitVec 7} {b : BitVec 5} {s : BitVec 3} {o : BitVec 2} {p : BitVec 1} {st : State} (h : st.Inv) :
    Keeps (execAxch d a b s o p st) := by
  unfold execAxch
  simp (maxDischargeDepth := 30) [h]

@[simp] theorem execAcas_keeps {d a : BitVec 7} {b : BitVec 5} {s : BitVec 3} {o : BitVec 2} {p : BitVec 1} {st : State} (h : st.Inv) :
    Keeps (execAcas d a b s o p st) := by
  unfold execAcas
  simp (maxDischargeDepth := 30) [h]

@[simp] theorem execAfadd_keeps {d a : BitVec 7} {b : BitVec 5} {s : BitVec 3} {o : BitVec 2} {p : BitVec 1} {st : State} (h : st.Inv) :
    Keeps (execAfadd d a b s o p st) := by
  unfold execAfadd
  simp (maxDischargeDepth := 30) [h]

@[simp] theorem execAfmin_keeps {d a : BitVec 7} {b : BitVec 5} {s : BitVec 3} {o : BitVec 2} {p : BitVec 1} {st : State} (h : st.Inv) :
    Keeps (execAfmin d a b s o p st) := by
  unfold execAfmin
  simp (maxDischargeDepth := 30) [h]

@[simp] theorem execAfmax_keeps {d a : BitVec 7} {b : BitVec 5} {s : BitVec 3} {o : BitVec 2} {p : BitVec 1} {st : State} (h : st.Inv) :
    Keeps (execAfmax d a b s o p st) := by
  unfold execAfmax
  simp (maxDischargeDepth := 30) [h]

@[simp] theorem execAincw_keeps {d a : BitVec 7} {b : BitVec 5} {s : BitVec 3} {o : BitVec 2} {p : BitVec 1} {st : State} (h : st.Inv) :
    Keeps (execAincw d a b s o p st) := by
  unfold execAincw
  simp (maxDischargeDepth := 30) [h]

@[simp] theorem execAdecw_keeps {d a : BitVec 7} {b : BitVec 5} {s : BitVec 3} {o : BitVec 2} {p : BitVec 1} {st : State} (h : st.Inv) :
    Keeps (execAdecw d a b s o p st) := by
  unfold execAdecw
  simp (maxDischargeDepth := 30) [h]

@[simp] theorem execInlineAccessCompletion_keeps {u : Nat} {s : State} (h : s.Inv) :
    Keeps (execInlineAccessCompletion u s) := by
  unfold execInlineAccessCompletion
  try dsimp only
  (repeat' split) <;> simp +contextual (maxDischargeDepth := 30) [h]

@[simp] theorem modLoad_inv {s : State} {id : Nat} {f : FLoad → FLoad} (h : s.Inv) :
    (modLoad s id f).Inv := by
  unfold modLoad
  try dsimp only
  (repeat' split) <;> simp +contextual (maxDischargeDepth := 30) [h]

@[simp] theorem bankAccess_inv {s : State} {uid : Nat} {acc : Access} {dest : Dest} (h : s.Inv) : (bankAccess s uid acc dest).Inv := by
  unfold bankAccess
  split
  · exact h
  split
  · simp [h]
  · rename_i e
    exact State.modUnit_inv (performFor_inv e h)

@[simp] theorem bankLoad_inv {s : State} {l : Nat} {acc : Access} (h : s.Inv) : (bankLoad s l acc).Inv := by
  unfold bankLoad
  split
  · exact h
  split
  · simp [h]
  · rename_i e
    exact modLoad_inv (performFor_inv e h)

@[simp] theorem execShippedScratchpadAccess_keeps {m : Nat} {s : State} (h : s.Inv) :
    Keeps (execShippedScratchpadAccess m s) := by
  unfold execShippedScratchpadAccess
  (repeat' split) <;> simp +contextual (maxDischargeDepth := 30) [h]

@[simp] theorem execFlaggedLoadCompletion_keeps {l : Nat} {s : State} (h : s.Inv) :
    Keeps (execFlaggedLoadCompletion l s) := by
  unfold execFlaggedLoadCompletion
  dsimp only
  split
  · simp [h]
  split
  · simp [h]
  split
  · simp (maxDischargeDepth := 30) [h]
  split
  · simp (maxDischargeDepth := 30) [h]
  · rename_i e
    have h := performFor_inv e h
    simp (maxDischargeDepth := 30) [h]

@[simp] theorem execForwardedCompletion_keeps {m : Nat} {s : State} (h : s.Inv) :
    Keeps (execForwardedCompletion m s) := by
  unfold execForwardedCompletion
  try dsimp only
  (repeat' split) <;> simp +contextual (maxDischargeDepth := 30) [h]

@[simp] theorem postedRecord_inv {s : State} {p : Posted} {code addr : Nat} {home : Option (Nat × Nat)} (h : s.Inv) :
    (postedRecord s p code addr home).Inv := by
  unfold postedRecord
  try dsimp only
  (repeat' split) <;> simp +contextual (maxDischargeDepth := 30) [h]

@[simp] theorem postedDone_inv {s : State} {p : Posted} {err : Option Nat} (h : s.Inv) :
    (postedDone s p err).Inv := by
  unfold postedDone
  try dsimp only
  (repeat' split) <;> simp +contextual (maxDischargeDepth := 30) [h]

@[simp] theorem execPostedAck_keeps {m : Nat} {s : State} (h : s.Inv) :
    Keeps (execPostedAck m s) := by
  unfold execPostedAck
  try dsimp only
  (repeat' split) <;> simp +contextual (maxDischargeDepth := 30) [h]

@[simp] theorem execPostedAckTimeout_keeps {p : Nat} {s : State} (h : s.Inv) :
    Keeps (execPostedAckTimeout p s) := by
  unfold execPostedAckTimeout
  try dsimp only
  (repeat' split) <;> simp +contextual (maxDischargeDepth := 30) [h]

@[simp] theorem markSent_inv {s : State} {p : Nat} {win : Option Nat} (h : s.Inv) :
    (markSent s p win).Inv := by
  unfold markSent
  try dsimp only
  (repeat' split) <;> simp +contextual (maxDischargeDepth := 30) [h]

@[simp] theorem execHeldReleaseSend_keeps {p : Nat} {s : State} (h : s.Inv) :
    Keeps (execHeldReleaseSend p s) := by
  unfold execHeldReleaseSend
  try dsimp only
  (repeat' split) <;> simp +contextual (maxDischargeDepth := 30) [h]

@[simp] theorem answer_inv {s : State} {m : Msg} {body : Payload} (h : s.Inv) :
    (answer s m body).Inv := by
  unfold answer
  try dsimp only
  (repeat' split) <;> simp +contextual (maxDischargeDepth := 30) [h]

@[simp] theorem overrunMark_inv {s : State} {region n addr : Nat} (h : s.Inv) :
    (overrunMark s region n addr).Inv := by
  unfold overrunMark
  try dsimp only
  (repeat' split) <;> simp +contextual (maxDischargeDepth := 30) [h]

@[simp] theorem execPostedOpArrival_keeps {m : Nat} {s : State} (h : s.Inv) :
    Keeps (execPostedOpArrival m s) := by
  unfold execPostedOpArrival
  dsimp only
  split
  · split
    · split
      · split <;> simp (maxDischargeDepth := 30) [h]
      split
      · simp [h]
      split
      · simp (maxDischargeDepth := 30) [h]
      split
      · simp [h]
      split
      · (repeat' split) <;> simp (maxDischargeDepth := 30) [h]
      · rename_i e
        have h := performAll_inv e (State.dropMsg_inv h)
        (repeat' split) <;> simp (maxDischargeDepth := 30) [h]
    · simp [h]
  · simp [h]

@[simp] theorem execWindowOverrunMark_keeps {region : Nat} {s : State} (h : s.Inv) :
    Keeps (execWindowOverrunMark region s) := by
  unfold execWindowOverrunMark
  try dsimp only
  (repeat' split) <;> simp +contextual (maxDischargeDepth := 30) [h]

@[simp] theorem execSystemReleaseWindowPassed_keeps {u : Nat} {s : State} (h : s.Inv) :
    Keeps (execSystemReleaseWindowPassed u s) := by
  unfold execSystemReleaseWindowPassed
  try dsimp only
  (repeat' split) <;> simp +contextual (maxDischargeDepth := 30) [h]

/-! ## Sync.lean -/

@[simp] theorem Ctx.migrate_inv {c : Ctx} {i : Instr} {dev die target : Nat} (h : c.s.Inv) :
    (Ctx.migrate c i dev die target).Inv := by
  unfold Ctx.migrate
  dsimp only
  split
  · rename_i e
    exact hold_inv (leaveWait_inv e h)
  · split <;> simp (maxDischargeDepth := 30) [h]

@[simp] theorem Ctx.migrateCore_inv {c : Ctx} {i : Instr} {target : Nat} (h : c.s.Inv) :
    (Ctx.migrateCore c i target).Inv := by
  unfold Ctx.migrateCore
  try dsimp only
  (repeat' split) <;> simp +contextual (maxDischargeDepth := 30) [h]

@[simp] theorem Ctx.migratePeer_inv {c : Ctx} {i : Instr} {dev die target : Nat} (h : c.s.Inv) :
    (Ctx.migratePeer c i dev die target).Inv := by
  unfold Ctx.migratePeer
  try dsimp only
  (repeat' split) <;> simp +contextual (maxDischargeDepth := 30) [h]

@[simp] theorem execMigrCore_keeps {a : BitVec 7} {st : State} (h : st.Inv) :
    Keeps (execMigrCore a st) := by
  unfold execMigrCore
  exact issue_keeps (fun c h => by simp +contextual (maxDischargeDepth := 30) [h]) h

@[simp] theorem execMigrAddr_keeps {a : BitVec 7} {st : State} (h : st.Inv) :
    Keeps (execMigrAddr a st) := by
  unfold execMigrAddr
  refine issueFar_keeps (issue_keeps (fun c h => ?_) h) h
  try dsimp only
  (repeat' split) <;> simp +contextual (maxDischargeDepth := 30) [h]

@[simp] theorem execMigrLaunch_keeps  {st : State} (h : st.Inv) :
    Keeps (execMigrLaunch st) := by
  unfold execMigrLaunch
  refine issueFar_keeps (issue_keeps (fun c h => ?_) h) h
  try dsimp only
  (repeat' split) <;> simp +contextual (maxDischargeDepth := 30) [h]

@[simp] theorem Ctx.homeRecords_inv {c : Ctx} {a : Nat} (h : c.s.Inv) : (c.homeRecords a).Inv := by
  refine foldl_inv (fun t k ht => ?_) h
  (repeat' split) <;> simp [ht]

@[simp] theorem execHome_keeps {d a : BitVec 7} {st : State} (h : st.Inv) :
    Keeps (execHome d a st) := by
  unfold execHome
  refine issue_keeps (fun c h => ?_) h
  dsimp only
  split
  · simp [h]
  · exact Ctx.retire_inv (Ctx.homeRecords_inv h)

@[simp] theorem rejoinHere_inv {s : State} {g : Group} (h : s.Inv) :
    (rejoinHere s g).Inv := by
  unfold rejoinHere
  try dsimp only
  (repeat' split) <;> simp +contextual (maxDischargeDepth := 30) [h]

@[simp] theorem execRejoin_keeps {b : BitVec 5} {st : State} (h : st.Inv) :
    Keeps (execRejoin b st) := by
  unfold execRejoin
  refine issue_keeps (fun c h => ?_) h
  dsimp only
  split
  · simp [h]
  split
  · simp [h]
  split
  · simp [h]
  split
  · simp [h]
  split
  · split <;> simp (maxDischargeDepth := 30) [h]
  generalize (if c.g.anchorDev = c.s.devNum then 0 else c.g.anchorDev) = dev
  split
  · simp [h]
  split
  · simp [h]
  split
  · rename_i e
    exact hold_inv (leaveWait_inv e h)
  · split <;> simp (maxDischargeDepth := 30) [h]

@[simp] theorem execExitRemovalMessage_keeps {m : Nat} {s : State} (h : s.Inv) :
    Keeps (execExitRemovalMessage m s) := by
  unfold execExitRemovalMessage
  try dsimp only
  (repeat' split) <;> simp +contextual (maxDischargeDepth := 30) [h]

@[simp] theorem Ctx.barGo_inv {c : Ctx} {i : Instr} {kind scope id : Nat} {count : Option Nat} (h : c.s.Inv) :
    (Ctx.barGo c i kind scope id count).Inv := by
  unfold Ctx.barGo
  dsimp only
  split
  · (repeat' split) <;> simp (maxDischargeDepth := 30) [h]
  · simp [h]
  split
  · split
    · simp [h]
    · rename_i e
      exact barEffect_inv e (Ctx.pass_inv h)
    · rename_i e
      exact State.modUnit_inv (barEffect_inv e (Ctx.pass_inv h))
  · simp (maxDischargeDepth := 30) [h]

@[simp] theorem Ctx.bar_inv {c : Ctx} {i : Instr} {kind scope id : Nat} {count : Option Nat} (h : c.s.Inv) :
    (Ctx.bar c i kind scope id count).Inv := by
  unfold Ctx.bar
  (repeat' split) <;> simp [h]

@[simp] theorem execBarArrive_keeps {s : BitVec 3} {i : BitVec 5} {b : BitVec 7} {k : BitVec 1} {st : State} (h : st.Inv) :
    Keeps (execBarArrive s i b k st) := by
  unfold execBarArrive
  exact issue_keeps (fun c h => by simp +contextual (maxDischargeDepth := 30) [h]) h

@[simp] theorem execBarWait_keeps {s : BitVec 3} {i : BitVec 5} {b : BitVec 7} {k : BitVec 1} {st : State} (h : st.Inv) :
    Keeps (execBarWait s i b k st) := by
  unfold execBarWait
  exact issue_keeps (fun c h => by simp +contextual (maxDischargeDepth := 30) [h]) h

@[simp] theorem execBarSync_keeps {s : BitVec 3} {i : BitVec 5} {b : BitVec 7} {k : BitVec 1} {st : State} (h : st.Inv) :
    Keeps (execBarSync s i b k st) := by
  unfold execBarSync
  exact issue_keeps (fun c h => by simp +contextual (maxDischargeDepth := 30) [h]) h

@[simp] theorem execBarInit_keeps {s : BitVec 3} {i : BitVec 5} {b : BitVec 7} {k : BitVec 1} {st : State} (h : st.Inv) :
    Keeps (execBarInit s i b k st) := by
  unfold execBarInit
  exact issue_keeps (fun c h => by simp +contextual (maxDischargeDepth := 30) [h]) h

@[simp] theorem cutAway_inv {s : State} {g : Group} {mask : Word} (h : s.Inv) : (cutAway s g mask).1.Inv := by
  unfold cutAway
  dsimp only
  split <;> simp (maxDischargeDepth := 30) [h]

@[simp] theorem failWaiter_inv {s : State} {gid : Nat} {mask : Word} (h : s.Inv) :
    (failWaiter s gid mask).Inv := by
  unfold failWaiter
  try dsimp only
  (repeat' split) <;> simp +contextual (maxDischargeDepth := 30) [h]

@[simp] theorem failAsker_inv {s : State} {m : Msg} {gid : Nat} {mask : Word} (h : s.Inv) :
    (failAsker s m gid mask).Inv := by
  unfold failAsker
  try dsimp only
  (repeat' split) <;> simp +contextual (maxDischargeDepth := 30) [h]

@[simp] theorem execBarrierArrivalMessage_keeps {m : Nat} {s : State} (h : s.Inv) :
    Keeps (execBarrierArrivalMessage m s) := by
  unfold execBarrierArrivalMessage
  dsimp only
  split
  · split
    · split
      · simp (maxDischargeDepth := 30) [h]
      split
      · simp (maxDischargeDepth := 30) [h]
      split
      · simp [h]
      split
      · split <;> simp (maxDischargeDepth := 30) [h]
      split
      · split <;> simp (maxDischargeDepth := 30) [h]
      · rename_i e
        have h := barEffect_inv e (cutAway_inv (State.dropMsg_inv h))
        split <;> simp (maxDischargeDepth := 30) [h]
      · rename_i e
        have h := barEffect_inv e (cutAway_inv (State.dropMsg_inv h))
        simp [h]
    · simp [h]
  · simp [h]

@[simp] theorem execBarrierReleaseMessage_keeps {m : Nat} {s : State} (h : s.Inv) :
    Keeps (execBarrierReleaseMessage m s) := by
  unfold execBarrierReleaseMessage
  try dsimp only
  (repeat' split) <;> simp +contextual (maxDischargeDepth := 30) [h]

@[simp] theorem execFence_keeps {sc : BitVec 3} {t : BitVec 1} {m : BitVec 2} {st : State} (h : st.Inv) :
    Keeps (execFence sc t m st) := by
  unfold execFence
  refine issue_keeps (fun c h => ?_) h
  try dsimp only
  (repeat' split) <;> simp +contextual (maxDischargeDepth := 30) [h]

@[simp] theorem execChainWaitCut_keeps {u : Nat} {s : State} (h : s.Inv) :
    Keeps (execChainWaitCut u s) := by
  unfold execChainWaitCut
  try dsimp only
  (repeat' split) <;> simp +contextual (maxDischargeDepth := 30) [h]

end Sys2Proof.Machine
end

