-- ==== Sys2Proof/Laws/InvLattice.lean ====
section
/-! SUPPORT. The operations of Machine/Lattice, Remote, Tile keep the invariant. -/

namespace Sys2Proof.Machine

/-! ## Lattice.lean -/

@[simp] theorem Ctx.lattice_inv {c : Ctx} {i : Instr} {t : Nat} {act : List Nat} {addr : Nat → Nat} {go : List (Nat × LatRegion × Nat) → State} (h : c.s.Inv) (hgo : ∀ l, (go l).Inv) :
    (Ctx.lattice c i t act addr go).Inv := by
  unfold Ctx.lattice
  split
  · simp [h]
  · split
    · simp [h]
    · exact hgo _

@[simp] theorem joinCells_inv {s : State} {uid die : Nat} {l : List (Nat × LatRegion × Nat)} {val : Nat → Nat} (h : s.Inv) :
    (joinCells s uid die l val).2.Inv := by
  unfold joinCells
  exact foldl_snd_inv (fun q x h => by simp (maxDischargeDepth := 30) [h]) h

@[simp] theorem Ctx.join_inv {c : Ctx} {i : Instr} {a b t : Nat} {d : Nat} (h : c.s.Inv) :
    (Ctx.join c i a b t d).Inv := by
  unfold Ctx.join
  try dsimp only
  (repeat' split) <;> simp +contextual (maxDischargeDepth := 30) [h]

@[simp] theorem execLjoin_keeps {a b : BitVec 7} {t : BitVec 4} {st : State} (h : st.Inv) :
    Keeps (execLjoin a b t st) := by
  unfold execLjoin
  exact issue_keeps (fun c h => by simp +contextual (maxDischargeDepth := 30) [h]) h

@[simp] theorem execLjoinr_keeps {d a b : BitVec 7} {t : BitVec 4} {st : State} (h : st.Inv) :
    Keeps (execLjoinr d a b t st) := by
  unfold execLjoinr
  exact issue_keeps (fun c h => by simp +contextual (maxDischargeDepth := 30) [h]) h

@[simp] theorem execLld_keeps {d a : BitVec 7} {o : BitVec 4} {t : BitVec 4} {st : State} (h : st.Inv) :
    Keeps (execLld d a o t st) := by
  unfold execLld
  exact issue_keeps (fun c h => by simp +contextual (maxDischargeDepth := 30) [h]) h

@[simp] theorem execLldw_keeps {d a b : BitVec 7} {t : BitVec 4} {st : State} (h : st.Inv) :
    Keeps (execLldw d a b t st) := by
  unfold execLldw
  refine issue_keeps (fun c h => ?_) h
  refine Ctx.lattice_inv h (fun l => ?_)
  dsimp only
  (repeat' split) <;> simp (maxDischargeDepth := 30) [h]

@[simp] theorem execLstx_keeps {d a : BitVec 7} {o : BitVec 4} {t : BitVec 4} {st : State} (h : st.Inv) :
    Keeps (execLstx d a o t st) := by
  unfold execLstx
  refine issue_keeps (fun c h => ?_) h
  dsimp only
  refine Ctx.lattice_inv h (fun l => ?_)
  split <;> simp (maxDischargeDepth := 30) [h]

@[simp] theorem execLflush_keeps {a : BitVec 7} {t : BitVec 4} {st : State} (h : st.Inv) :
    Keeps (execLflush a t st) := by
  unfold execLflush
  refine issue_keeps (fun c h => ?_) h
  refine Ctx.lattice_inv h (fun l => ?_)
  dsimp only
  (repeat' split) <;> simp (maxDischargeDepth := 30) [h]

@[simp] theorem execLepoch_keeps {d a : BitVec 7} {t : BitVec 4} {st : State} (h : st.Inv) :
    Keeps (execLepoch d a t st) := by
  unfold execLepoch
  refine issue_keeps (fun c h => ?_) h
  exact Ctx.lattice_inv h (fun l => Ctx.retire_inv h)

@[simp] theorem execLatticeWaitLimit_keeps {u : Nat} {s : State} (h : s.Inv) :
    Keeps (execLatticeWaitLimit u s) := by
  unfold execLatticeWaitLimit
  try dsimp only
  (repeat' split) <;> simp +contextual (maxDischargeDepth := 30) [h]

@[simp] theorem putRegion_inv {s : State} {r : LatRegion} (h : s.Inv) :
    (putRegion s r).Inv := by
  unfold putRegion
  try dsimp only
  (repeat' split) <;> simp +contextual (maxDischargeDepth := 30) [h]

@[simp] theorem execBurnishRoundStart_keeps {base : Nat} {s : State} (h : s.Inv) :
    Keeps (execBurnishRoundStart base s) := by
  unfold execBurnishRoundStart
  try dsimp only
  (repeat' split) <;> simp +contextual (maxDischargeDepth := 30) [h]

@[simp] theorem execRoundDelivery_keeps {m : Nat} {s : State} (h : s.Inv) :
    Keeps (execRoundDelivery m s) := by
  unfold execRoundDelivery
  try dsimp only
  (repeat' split) <;> simp +contextual (maxDischargeDepth := 30) [h]

@[simp] theorem execRoundCompletion_keeps {base : Nat} {s : State} (h : s.Inv) :
    Keeps (execRoundCompletion base s) := by
  unfold execRoundCompletion
  try dsimp only
  (repeat' split) <;> simp +contextual (maxDischargeDepth := 30) [h]

@[simp] theorem execLflushDelivery_keeps {m : Nat} {s : State} (h : s.Inv) :
    Keeps (execLflushDelivery m s) := by
  unfold execLflushDelivery
  try dsimp only
  (repeat' split) <;> simp +contextual (maxDischargeDepth := 30) [h]

@[simp] theorem execJoinListDelivery_keeps {m : Nat} {s : State} (h : s.Inv) :
    Keeps (execJoinListDelivery m s) := by
  unfold execJoinListDelivery
  dsimp only
  split
  · split
    · split
      · simp [h]
      rw [keeps_next]
      refine State.modUnit_inv (foldl_inv (fun t c h => ?_) (State.dropMsg_inv h))
      split <;> simp [h]
    · simp [h]
  · simp [h]

@[simp] theorem execReplicaReturnCopy_keeps {die : Nat} {s : State} (h : s.Inv) :
    Keeps (execReplicaReturnCopy die s) := by
  unfold execReplicaReturnCopy
  dsimp only
  split
  · simp [h]
  · rw [keeps_next]
    refine latReschedule_inv ?_
    rw [State.inv_mk]
    exact { h with replicaCount := by simp [modAt, h.replicaCount] }

/-! ## Remote.lean -/

@[simp] theorem takeSeq_inv {s : State} {cs : CoreState} (h : s.Inv) :
    (takeSeq s cs).Inv := by
  unfold takeSeq
  try dsimp only
  (repeat' split) <;> simp +contextual (maxDischargeDepth := 30) [h]

@[simp] theorem putCall_inv {s : State} {c : Call} (h : s.Inv) :
    (putCall s c).Inv := by
  unfold putCall
  try dsimp only
  (repeat' split) <;> simp +contextual (maxDischargeDepth := 30) [h]

@[simp] theorem sendCall_inv {s : State} {core dev : Nat} {retry : Bool} {m : CallMsg} (h : s.Inv) :
    (sendCall s core dev retry m).Inv := by
  unfold sendCall
  try dsimp only
  (repeat' split) <;> simp +contextual (maxDischargeDepth := 30) [h]

@[simp] theorem Ctx.call_inv {c : Ctx} {i : Instr} {fl : Nat} {r p : BitVec 5} {e : BitVec 4} {dev core pa : Nat} (h : c.s.Inv) :
    (Ctx.call c i fl r p e dev core pa).Inv := by
  unfold Ctx.call
  try dsimp only
  (repeat' split) <;> simp +contextual (maxDischargeDepth := 30) [h]

@[simp] theorem execRcall_keeps {hh : BitVec 2} {r : BitVec 5} {l : BitVec 2} {a p : BitVec 5} {e : BitVec 4} {s : State} (h : s.Inv) :
    Keeps (execRcall hh r l a p e s) := by
  unfold execRcall
  refine issueFar_keeps (issueOps_keeps (fun c h => ?_) h) h
  dsimp only
  (repeat' split) <;> simp [h]

@[simp] theorem execCallSequenceReuseWait_keeps {u : Nat} {s : State} (h : s.Inv) :
    Keeps (execCallSequenceReuseWait u s) := by
  unfold execCallSequenceReuseWait
  (repeat' split) <;> simp (maxDischargeDepth := 30) [h]

@[simp] theorem retryFrom_inv {s : State} {k : Call} {payload : List (List Word)} (h : s.Inv) :
    (retryFrom s k payload).Inv := by
  unfold retryFrom
  try dsimp only
  (repeat' split) <;> simp +contextual (maxDischargeDepth := 30) [h]

@[simp] theorem Ctx.ask_inv {c : Ctx} {i : Instr} {dev : Option Nat} {core : Nat} {dest : Dest} {body : Nat → Payload} (h : c.s.Inv) :
    (Ctx.ask c i dev core dest body).Inv := by
  unfold Ctx.ask
  try dsimp only
  (repeat' split) <;> simp +contextual (maxDischargeDepth := 30) [h]

@[simp] theorem execRcallRetry_keeps {hh : BitVec 2} {r : BitVec 5} {l : BitVec 2} {a p : BitVec 5} {e : BitVec 4} {s : State} (h : s.Inv) :
    Keeps (execRcallRetry hh r l a p e s) := by
  unfold execRcallRetry
  refine issueFar_keeps (issueOps_keeps (fun c h => ?_) h) h
  dsimp only
  (repeat' split) <;> simp (maxDischargeDepth := 30) [h]

@[simp] theorem execRstat_keeps {d : BitVec 7} {f : BitVec 4} {st : State} (h : st.Inv) :
    Keeps (execRstat d f st) := by
  unfold execRstat
  refine issue_keeps (fun c h => ?_) h
  try dsimp only
  (repeat' split) <;> simp +contextual (maxDischargeDepth := 30) [h]

@[simp] theorem raiseMark_inv {s : State} {stack : Nat} {m : CallMsg} (h : s.Inv) :
    (raiseMark s stack m).Inv := by
  unfold raiseMark
  try dsimp only
  (repeat' split) <;> simp +contextual (maxDischargeDepth := 30) [h]

@[simp] theorem sendReply_inv {s : State} {core : Nat} {r : Reply} (h : s.Inv) :
    (sendReply s core r).Inv := by
  unfold sendReply
  try dsimp only
  (repeat' split) <;> simp +contextual (maxDischargeDepth := 30) [h]

theorem admitCall_inv {s t : State} {id : Nat} {m : CallMsg} {src : Nat} (e : admitCall s id m src = some t) (h : s.Inv) : t.Inv := by
  unfold admitCall at e
  dsimp only at e
  split at e
  · split at e <;> cases e <;> simp (maxDischargeDepth := 30) [h]
  · split at e
    · cases e
    · split at e
      · cases e
      · rename_i hq
        have h := enqueue_inv hq (by simp [h])
        cases e
        simp (maxDischargeDepth := 30) [h]

@[simp] theorem admitCall_getD_inv {s : State} {id : Nat} {m : CallMsg} {src : Nat} (h : s.Inv) : ((admitCall s id m src).getD s).Inv := by
  cases e : admitCall s id m src with
  | none => exact h
  | some t => exact admitCall_inv e h

@[simp] theorem atExecutor_inv {s : State} {x : Msg} {m : CallMsg} {again : CallMsg → Payload} {go : State} (h : s.Inv) (hgo : go.Inv) :
    (atExecutor s x m again go).Inv := by
  unfold atExecutor
  (repeat' split) <;> simp [h, hgo]

@[simp] theorem execCallArrival_keeps {m : Nat} {s : State} (h : s.Inv) :
    Keeps (execCallArrival m s) := by
  unfold execCallArrival
  try dsimp only
  (repeat' split) <;> simp +contextual (maxDischargeDepth := 30) [h]

@[simp] theorem execRetryArrival_keeps {m : Nat} {s : State} (h : s.Inv) :
    Keeps (execRetryArrival m s) := by
  unfold execRetryArrival
  try dsimp only
  (repeat' split) <;> simp +contextual (maxDischargeDepth := 30) [h]

@[simp] theorem execRret_keeps {a : BitVec 7} {st : State} (h : st.Inv) :
    Keeps (execRret a st) := by
  unfold execRret
  refine issueOps_keeps (fun c h => ?_) h
  dsimp only
  (repeat' split) <;> simp +contextual (maxDischargeDepth := 30) [h]

@[simp] theorem execRemoteBudgetExceeded_keeps {u : Nat} {s : State} (h : s.Inv) :
    Keeps (execRemoteBudgetExceeded u s) := by
  unfold execRemoteBudgetExceeded
  try dsimp only
  (repeat' split) <;> simp +contextual (maxDischargeDepth := 30) [h]

@[simp] theorem keepCause_inv {s : State} {gid : Nat} {mask : Word} {flag code addr : Nat} (h : s.Inv) :
    (keepCause s gid mask flag code addr).Inv := by
  unfold keepCause
  try dsimp only
  (repeat' split) <;> simp +contextual (maxDischargeDepth := 30) [h]

@[simp] theorem takeReply_inv {s : State} {k : Call} {r : Reply} (h : s.Inv) : (takeReply s k r).Inv := by
  unfold takeReply
  dsimp only
  split
  all_goals (repeat' split) <;> simp (maxDischargeDepth := 30) [h]

@[simp] theorem execReplyArrival_keeps {m : Nat} {s : State} (h : s.Inv) :
    Keeps (execReplyArrival m s) := by
  unfold execReplyArrival
  try dsimp only
  (repeat' split) <;> simp +contextual (maxDischargeDepth := 30) [h]

@[simp] theorem settleCache_inv {s : State} (h : s.Inv) :
    (settleCache s).Inv := by
  unfold settleCache
  try dsimp only
  (repeat' split) <;> simp +contextual (maxDischargeDepth := 30) [h]

@[simp] theorem execReplyCacheExpiry_keeps {e : Nat} {s : State} (h : s.Inv) :
    Keeps (execReplyCacheExpiry e s) := by
  unfold execReplyCacheExpiry
  try dsimp only
  (repeat' split) <;> simp +contextual (maxDischargeDepth := 30) [h]

@[simp] theorem execWatermarkExpiry_keeps {stack dev core : Nat} {s : State} (h : s.Inv) :
    Keeps (execWatermarkExpiry stack dev core s) := by
  unfold execWatermarkExpiry
  try dsimp only
  (repeat' split) <;> simp +contextual (maxDischargeDepth := 30) [h]

/-! ## Tile.lean -/

@[simp] theorem bookPromise_inv {s : State} {core engine : Nat} (h : s.Inv) : (bookPromise s core engine).2.Inv := by
  simp [bookPromise, h]

@[simp] theorem execTmove_keeps {d a : BitVec 7} {f : BitVec 4} {st : State} (h : st.Inv) :
    Keeps (execTmove d a f st) := by
  unfold execTmove
  refine issue_keeps (fun c h => ?_) h
  dsimp only
  (repeat' split) <;> simp (maxDischargeDepth := 30) [h]

@[simp] theorem Ctx.tstat_inv {c : Ctx} {i : Instr} {d k : Nat} {prom : Bool} (h : c.s.Inv) :
    (Ctx.tstat c i d k prom).Inv := by
  unfold Ctx.tstat
  try dsimp only
  (repeat' split) <;> simp +contextual (maxDischargeDepth := 30) [h]

@[simp] theorem execTstat_keeps {d : BitVec 7} {f : BitVec 4} {st : State} (h : st.Inv) :
    Keeps (execTstat d f st) := by
  unfold execTstat
  exact issue_keeps (fun c h => by simp +contextual (maxDischargeDepth := 30) [h]) h

@[simp] theorem execTstatProm_keeps {d : BitVec 7} {f : BitVec 4} {st : State} (h : st.Inv) :
    Keeps (execTstatProm d f st) := by
  unfold execTstatProm
  exact issue_keeps (fun c h => by simp +contextual (maxDischargeDepth := 30) [h]) h

@[simp] theorem execIssuingCoreRequest_keeps {m : Nat} {s : State} (h : s.Inv) :
    Keeps (execIssuingCoreRequest m s) := by
  unfold execIssuingCoreRequest
  try dsimp only
  (repeat' split) <;> simp +contextual (maxDischargeDepth := 30) [h]

@[simp] theorem moveRow_inv {s : State} {src dst : List (Loc × Nat)} (h : s.Inv) :
    (moveRow s src dst).Inv := by
  unfold moveRow
  dsimp only
  generalize (src.flatMap fun x => locBytes s x.1 x.2) = bs
  induction dst generalizing s bs with
  | nil => exact h
  | cons x t ih => exact ih (by simp [h]) _

@[simp] theorem putMove_inv {s : State} {m : Move} (h : s.Inv) :
    (putMove s m).Inv := by
  unfold putMove
  try dsimp only
  (repeat' split) <;> simp +contextual (maxDischargeDepth := 30) [h]

@[simp] theorem dropMove_inv {s : State} {m : Move} (h : s.Inv) :
    (dropMove s m).Inv := by
  unfold dropMove
  try dsimp only
  (repeat' split) <;> simp +contextual (maxDischargeDepth := 30) [h]

@[simp] theorem failMove_inv {s : State} {m : Move} {inner addr : Nat} (h : s.Inv) :
    (failMove s m inner addr).Inv := by
  unfold failMove
  try dsimp only
  (repeat' split) <;> simp +contextual (maxDischargeDepth := 30) [h]

@[simp] theorem noteRow_inv {s : State} {l : Launch} {m : Move} (h : s.Inv) : (noteRow s l m).Inv := foldl_inv (fun _ _ ht => State.notePage_inv ht) h

@[simp] theorem rowRecord_inv {s : State} {l : Launch} {m : Move} {a : Nat} (h : s.Inv) :
    (rowRecord s l m a).Inv := by
  unfold rowRecord
  try dsimp only
  (repeat' split) <;> simp +contextual (maxDischargeDepth := 30) [h]

@[simp] theorem execTileMoveAccept_keeps {m : Nat} {s : State} (h : s.Inv) :
    Keeps (execTileMoveAccept m s) := by
  unfold execTileMoveAccept
  try dsimp only
  (repeat' split) <;> simp +contextual (maxDischargeDepth := 30) [h]

@[simp] theorem execTileMoveCompletion_keeps {t : Nat} {s : State} (h : s.Inv) :
    Keeps (execTileMoveCompletion t s) := by
  unfold execTileMoveCompletion
  try dsimp only
  (repeat' split) <;> simp +contextual (maxDischargeDepth := 30) [h]

@[simp] theorem execTileMoveFault_keeps {t : Nat} {s : State} (h : s.Inv) :
    Keeps (execTileMoveFault t s) := by
  unfold execTileMoveFault
  try dsimp only
  (repeat' split) <;> simp +contextual (maxDischargeDepth := 30) [h]

@[simp] theorem execPromiseMissed_keeps {t : Nat} {s : State} (h : s.Inv) :
    Keeps (execPromiseMissed t s) := by
  unfold execPromiseMissed
  try dsimp only
  (repeat' split) <;> simp +contextual (maxDischargeDepth := 30) [h]

@[simp] theorem execReplyOverdue_keeps {c : Nat} {s : State} (h : s.Inv) :
    Keeps (execReplyOverdue c s) := by
  unfold execReplyOverdue
  try dsimp only
  (repeat' split) <;> simp +contextual (maxDischargeDepth := 30) [h]

end Sys2Proof.Machine
end

