-- ==== Sys2Proof/Laws/InvSystem.lean ====
section
/-! SUPPORT. The operations of Machine/Matrix, Twin, System, Traps keep the invariant. -/

namespace Sys2Proof.Machine

/-! ## Matrix.lean -/

@[simp] theorem Ctx.joinWaiters_inv {c : Ctx} {i : Instr} (h : c.s.Inv) :
    (Ctx.joinWaiters c i).Inv := by
  unfold Ctx.joinWaiters
  try dsimp only
  (repeat' split) <;> simp +contextual (maxDischargeDepth := 30) [h]

@[simp] theorem afterGrant_inv {s : State} {g : Group} (h : s.Inv) :
    (afterGrant s g).Inv := by
  unfold afterGrant
  try dsimp only
  (repeat' split) <;> simp +contextual (maxDischargeDepth := 30) [h]

@[simp] theorem granted_inv {s : State} {lower : Nat} {g : Group} (h : s.Inv) : (granted s lower g).Inv := afterGrant_inv (grant_inv h)

@[simp] theorem execMlicAcq_keeps {st : State} (h : st.Inv) : Keeps (execMlicAcq st) := by
  unfold execMlicAcq
  refine issue_keeps (fun c h => ?_) h
  dsimp only
  (repeat' split) <;> simp [h]

@[simp] theorem execMlicTry_keeps {p : BitVec 3} {st : State} (h : st.Inv) : Keeps (execMlicTry p st) := by
  unfold execMlicTry
  refine issue_keeps (fun c h => ?_) h
  dsimp only
  split
  · simp [h]
  split
  · simp [h]
  · exact Ctx.retire_inv h
  · split
    · exact granted_inv (Ctx.retire_inv h)
    · exact Ctx.retire_inv h

@[simp] theorem dropImage_inv {s : State} {gid : Nat} (h : s.Inv) :
    (dropImage s gid).Inv := by
  unfold dropImage
  try dsimp only
  (repeat' split) <;> simp +contextual (maxDischargeDepth := 30) [h]

@[simp] theorem execMlicRel_keeps  {st : State} (h : st.Inv) :
    Keeps (execMlicRel st) := by
  unfold execMlicRel
  refine issue_keeps (fun c h => ?_) h
  try dsimp only
  (repeat' split) <;> simp +contextual (maxDischargeDepth := 30) [h]

@[simp] theorem execMlicQry_keeps {d : BitVec 7} {st : State} (h : st.Inv) :
    Keeps (execMlicQry d st) := by
  unfold execMlicQry
  exact issue_keeps (fun c h => by simp +contextual (maxDischargeDepth := 30) [h]) h

@[simp] theorem Ctx.licensed_inv {c : Ctx} {i : Instr} {go : MatArray → State} (h : c.s.Inv) (hgo : ∀ a, (go a).Inv) :
    (Ctx.licensed c i go).Inv := by
  unfold Ctx.licensed
  (repeat' split) <;> simp (maxDischargeDepth := 30) [h, hgo]

@[simp] theorem Ctx.matrix_inv {c : Ctx} {i : Instr} {kind : Nat} {a b : BitVec 7} {f : BitVec 4} {dest : Dest} (h : c.s.Inv) :
    (Ctx.matrix c i kind a b f dest).Inv := by
  unfold Ctx.matrix
  dsimp only
  refine Ctx.licensed_inv h (fun arr => ?_)
  (repeat' split) <;> simp (maxDischargeDepth := 30) [h]

@[simp] theorem execMldw_keeps {a b : BitVec 7} {f : BitVec 4} {st : State} (h : st.Inv) :
    Keeps (execMldw a b f st) := by
  unfold execMldw
  exact issue_keeps (fun c h => by simp +contextual (maxDischargeDepth := 30) [h]) h

@[simp] theorem execMswap_keeps  {st : State} (h : st.Inv) :
    Keeps (execMswap st) := by
  unfold execMswap
  refine issue_keeps (fun c h => ?_) h
  dsimp only
  refine Ctx.licensed_inv h (fun arr => ?_)
  (repeat' split) <;> simp (maxDischargeDepth := 30) [h]

@[simp] theorem execMstream_keeps {a b : BitVec 7} {f : BitVec 4} {st : State} (h : st.Inv) :
    Keeps (execMstream a b f st) := by
  unfold execMstream
  exact issue_keeps (fun c h => by simp +contextual (maxDischargeDepth := 30) [h]) h

@[simp] theorem execMdrain_keeps {d a b : BitVec 7} {f : BitVec 4} {st : State} (h : st.Inv) :
    Keeps (execMdrain d a b f st) := by
  unfold execMdrain
  exact issue_keeps (fun c h => by simp +contextual (maxDischargeDepth := 30) [h]) h

@[simp] theorem seqDone_inv {s : State} {core : Nat} {o : SeqOp} (h : s.Inv) :
    (seqDone s core o).Inv := by
  unfold seqDone
  try dsimp only
  (repeat' split) <;> simp +contextual (maxDischargeDepth := 30) [h]

@[simp] theorem seqTurn_inv {s : State} {core : Nat} {o : SeqOp} (h : s.Inv) :
    (seqTurn s core o).Inv := by
  unfold seqTurn
  try dsimp only
  (repeat' split) <;> simp +contextual (maxDischargeDepth := 30) [h]

@[simp] theorem execMatrixCompletion_keeps {core : Nat} {s : State} (h : s.Inv) :
    Keeps (execMatrixCompletion core s) := by
  unfold execMatrixCompletion
  try dsimp only
  (repeat' split) <;> simp +contextual (maxDischargeDepth := 30) [h]

@[simp] theorem execLicenceGrant_keeps {pair : Nat} {s : State} (h : s.Inv) :
    Keeps (execLicenceGrant pair s) := by
  unfold execLicenceGrant
  try dsimp only
  (repeat' split) <;> simp +contextual (maxDischargeDepth := 30) [h]

@[simp] theorem reacquire_inv {s : State} {g : Group} (h : s.Inv) :
    (reacquire s g).Inv := by
  unfold reacquire
  try dsimp only
  (repeat' split) <;> simp +contextual (maxDischargeDepth := 30) [h]

@[simp] theorem settleRequests_inv {s : State} (h : s.Inv) : (settleRequests s).Inv := by
  refine foldl_inv (fun t g ht => ?_) h
  split
  · split <;> simp [ht]
  · exact ht

@[simp] theorem execLicenceReacquire_keeps {u : Nat} {s : State} (h : s.Inv) :
    Keeps (execLicenceReacquire u s) := by
  unfold execLicenceReacquire
  try dsimp only
  (repeat' split) <;> simp +contextual (maxDischargeDepth := 30) [h]

@[simp] theorem execLicenceFreeAfterKill_keeps {pair : Nat} {s : State} (h : s.Inv) :
    Keeps (execLicenceFreeAfterKill pair s) := by
  unfold execLicenceFreeAfterKill
  try dsimp only
  (repeat' split) <;> simp +contextual (maxDischargeDepth := 30) [h]

@[simp] theorem execLicenceReleaseMessage_keeps {m : Nat} {s : State} (h : s.Inv) :
    Keeps (execLicenceReleaseMessage m s) := by
  unfold execLicenceReleaseMessage
  try dsimp only
  (repeat' split) <;> simp +contextual (maxDischargeDepth := 30) [h]

/-! ## Twin.lean -/

@[simp] theorem Ctx.xsigWait_inv {c : Ctx} {i : Instr} {scope : Nat} {waiting ended : Bool} (h : c.s.Inv) :
    (Ctx.xsigWait c i scope waiting ended).Inv := by
  unfold Ctx.xsigWait
  try dsimp only
  (repeat' split) <;> simp +contextual (maxDischargeDepth := 30) [h]

@[simp] theorem Ctx.xsigTake_inv {c : Ctx} {i : Instr} {w : TwinWindow} {up : Bool} {scope : Nat} {signalled : Bool} (h : c.s.Inv) :
    (Ctx.xsigTake c i w up scope signalled).Inv := by
  unfold Ctx.xsigTake
  try dsimp only
  (repeat' split) <;> simp +contextual (maxDischargeDepth := 30) [h]

@[simp] theorem Ctx.xsig_inv {c : Ctx} {i : Instr} {kind scope : Nat} (h : c.s.Inv) :
    (Ctx.xsig c i kind scope).Inv := by
  unfold Ctx.xsig
  try dsimp only
  (repeat' split) <;> simp +contextual (maxDischargeDepth := 30) [h]

@[simp] theorem execXsigSig_keeps {s : BitVec 3} {st : State} (h : st.Inv) :
    Keeps (execXsigSig s st) := by
  unfold execXsigSig
  exact issue_keeps (fun c h => by simp +contextual (maxDischargeDepth := 30) [h]) h

@[simp] theorem execXsigWait_keeps {s : BitVec 3} {st : State} (h : st.Inv) :
    Keeps (execXsigWait s st) := by
  unfold execXsigWait
  exact issue_keeps (fun c h => by simp +contextual (maxDischargeDepth := 30) [h]) h

@[simp] theorem execXsigSync_keeps {s : BitVec 3} {st : State} (h : st.Inv) :
    Keeps (execXsigSync s st) := by
  unfold execXsigSync
  exact issue_keeps (fun c h => by simp +contextual (maxDischargeDepth := 30) [h]) h

/-! ## System.lean -/

@[simp] theorem execCsrr_keeps {d : BitVec 7} {n : BitVec 11} {st : State} (h : st.Inv) :
    Keeps (execCsrr d n st) := by
  unfold execCsrr
  exact issue_keeps (fun c h => by simp +contextual (maxDischargeDepth := 30) [h]) h

@[simp] theorem writeTrapvec_inv {s : State} {launch : Nat} {reply : Bool} {v : Nat} (h : s.Inv) :
    (writeTrapvec s launch reply v).Inv := by
  unfold writeTrapvec
  try dsimp only
  (repeat' split) <;> simp +contextual (maxDischargeDepth := 30) [h]

@[simp] theorem writeSpad_inv {s : State} {launch n : Nat} {v : DWord} (h : s.Inv) :
    (writeSpad s launch n v).Inv := by
  unfold writeSpad
  try dsimp only
  (repeat' split) <;> simp +contextual (maxDischargeDepth := 30) [h]

@[simp] theorem setHeart_inv {s : State} {nd : Node} {beat : Bool} (h : s.Inv) :
    (setHeart s nd beat).Inv := by
  unfold setHeart
  try dsimp only
  (repeat' split) <;> simp +contextual (maxDischargeDepth := 30) [h]

theorem pageRequest_inv {s t : State} {g : Group} {strand a : Nat} (e : pageRequest s g strand a = .ok t) (h : s.Inv) : t.Inv := by
  unfold pageRequest at e
  dsimp only at e
  (repeat' split at e) <;> cases e <;> simp (maxDischargeDepth := 30) [h]

@[simp] theorem execCsrw_keeps {a : BitVec 7} {n : BitVec 11} {st : State} (h : st.Inv) :
    Keeps (execCsrw a n st) := by
  unfold execCsrw
  refine issue_keeps (fun c h => ?_) h
  dsimp only
  split
  · simp [h]
  split
  · simp [h]
  split
  all_goals first
    | (split
       · simp [h]
       · rename_i e
         exact Ctx.pass_inv (pageRequest_inv e h))
    | (split <;> simp (maxDischargeDepth := 30) [h])
    | simp (maxDischargeDepth := 30) [h]

@[simp] theorem execHbeat_keeps {x0 : Word} {s : State} (h : s.Inv) :
    Keeps (execHbeat x0 s) := by
  unfold execHbeat
  try dsimp only
  (repeat' split) <;> simp +contextual (maxDischargeDepth := 30) [h]

@[simp] theorem execPgreq_keeps {addr : DWord} {s : State} (h : s.Inv) :
    Keeps (execPgreq addr s) := by
  unfold execPgreq
  split
  · simp [h]
  · split
    · simp [h]
    · rename_i e
      exact keeps_next.2 (pageRequest_inv e h)

@[simp] theorem execSpadDescriptorWrite_keeps {n : BitVec 4} {v : DWord} {s : State} (h : s.Inv) :
    Keeps (execSpadDescriptorWrite n v s) := by
  unfold execSpadDescriptorWrite
  try dsimp only
  (repeat' split) <;> simp +contextual (maxDischargeDepth := 30) [h]

@[simp] theorem execTrapvec_keeps {reply : Bool} {v : DWord} {s : State} (h : s.Inv) :
    Keeps (execTrapvec reply v s) := by
  unfold execTrapvec
  try dsimp only
  (repeat' split) <;> simp +contextual (maxDischargeDepth := 30) [h]

@[simp] theorem execEret_keeps  {st : State} (h : st.Inv) :
    Keeps (execEret st) := by
  unfold execEret
  refine issue_keeps (fun c h => ?_) h
  try dsimp only
  (repeat' split) <;> simp +contextual (maxDischargeDepth := 30) [h]

@[simp] theorem execCycle_keeps {d : BitVec 7} {f : BitVec 4} {st : State} (h : st.Inv) :
    Keeps (execCycle d f st) := by
  unfold execCycle
  refine issue_keeps (fun c h => ?_) h
  try dsimp only
  (repeat' split) <;> simp +contextual (maxDischargeDepth := 30) [h]

@[simp] theorem postMarker_inv {s : State} {g : Group} {a : Nat} {bs : List Byte} (h : s.Inv) :
    (postMarker s g a bs).Inv := by
  unfold postMarker
  try dsimp only
  (repeat' split) <;> simp +contextual (maxDischargeDepth := 30) [h]

@[simp] theorem traceMark_inv {s : State} {g : Group} {n value : Nat} (h : s.Inv) :
    (traceMark s g n value).Inv := by
  unfold traceMark
  dsimp only
  split
  · exact h
  · have ht : State.Inv (if (launchOf s g).traceRecs ≤ (launchOf s g).traceTail then s
        else postMarker s g ((launchOf s g).traceBase + 32 + 32 * (launchOf s g).traceTail) (markerBytes s g n value)) := by
      split <;> simp [h]
    exact State.modLaunch_inv (devWrite_getD_inv ht ht)

@[simp] theorem execTracem_keeps {a : BitVec 7} {n : BitVec 11} {st : State} (h : st.Inv) :
    Keeps (execTracem a n st) := by
  unfold execTracem
  exact issue_keeps (fun c h => by simp +contextual (maxDischargeDepth := 30) [h]) h

/-! ## Traps.lean -/

@[simp] theorem markDelivered_inv {s : State} {g : Group} {flag code : Nat} (h : s.Inv) :
    (markDelivered s g flag code).Inv := by
  unfold markDelivered
  try dsimp only
  (repeat' split) <;> simp +contextual (maxDischargeDepth := 30) [h]

@[simp] theorem execTrapDelivery_keeps {u : Nat} {s : State} (h : s.Inv) :
    Keeps (execTrapDelivery u s) := by
  unfold execTrapDelivery
  try dsimp only
  (repeat' split) <;> simp +contextual (maxDischargeDepth := 30) [h]

@[simp] theorem execPauseEnd_keeps {u : Nat} {s : State} (h : s.Inv) :
    Keeps (execPauseEnd u s) := by
  unfold execPauseEnd
  try dsimp only
  (repeat' split) <;> simp +contextual (maxDischargeDepth := 30) [h]

@[simp] theorem execSleepWake_keeps {u : Nat} {s : State} (h : s.Inv) :
    Keeps (execSleepWake u s) := by
  unfold execSleepWake
  try dsimp only
  (repeat' split) <;> simp +contextual (maxDischargeDepth := 30) [h]

@[simp] theorem tellHeld_inv {s : State} {hh : HeldEntry} {tail : Nat} (h : s.Inv) :
    (tellHeld s hh tail).Inv := by
  unfold tellHeld
  try dsimp only
  (repeat' split) <;> simp +contextual (maxDischargeDepth := 30) [h]

theorem writeHeld_inv {s t : State} {x : HeldEntry} {tail entry : Nat} (e : writeHeld s x tail entry = some t) (h : s.Inv) : t.Inv := by
  unfold writeHeld at e
  dsimp only at e
  split at e
  · obtain ⟨u, hu, rfl⟩ := Option.map_eq_some_iff.1 e
    exact tellHeld_inv (queuePut_inv hu h)
  · split at e
    · cases e; exact h
    · split at e
      · cases e; exact h
      · split at e
        · cases e
        · rename_i hq
          have h := queuePut_inv hq h
          cases e
          simp (maxDischargeDepth := 30) [h]

@[simp] theorem writeHeld_getD_inv {s u : State} {x : HeldEntry} {tail entry : Nat} (h : s.Inv) (hu : u.Inv) :
    ((writeHeld s x tail entry).getD u).Inv := by
  cases e : writeHeld s x tail entry with
  | none => exact hu
  | some t => exact writeHeld_inv e h

@[simp] theorem loseHeld_inv {s t : State} {hh : HeldEntry} (h' : t.Inv) :
    (loseHeld s t hh).Inv := by
  unfold loseHeld
  split <;> simp (maxDischargeDepth := 30) [h']

@[simp] theorem execFaultEntryRetry_keeps {k : Nat} {s : State} (h : s.Inv) :
    Keeps (execFaultEntryRetry k s) := by
  unfold execFaultEntryRetry
  try dsimp only
  (repeat' split) <;> simp +contextual (maxDischargeDepth := 30) [h]

@[simp] theorem killWith_inv {s : State} {l : Launch} {code : Nat} {e : EntryInfo} {body : List Byte} (h : s.Inv) :
    (killWith s l code e body).Inv := by
  unfold killWith
  try dsimp only
  (repeat' split) <;> simp +contextual (maxDischargeDepth := 30) [h]

@[simp] theorem machineCheck_inv {s : State} {g : Group} (h : s.Inv) :
    (machineCheck s g).Inv := by
  unfold machineCheck
  try dsimp only
  (repeat' split) <;> simp +contextual (maxDischargeDepth := 30) [h]

@[simp] theorem execBarrierTimeout_keeps {t b : Nat} {s : State} (h : s.Inv) :
    Keeps (execBarrierTimeout t b s) := by
  unfold execBarrierTimeout
  try dsimp only
  (repeat' split) <;> simp +contextual (maxDischargeDepth := 30) [h]

@[simp] theorem execXsigTimeout_keeps {u : Nat} {s : State} (h : s.Inv) :
    Keeps (execXsigTimeout u s) := by
  unfold execXsigTimeout
  try dsimp only
  (repeat' split) <;> simp +contextual (maxDischargeDepth := 30) [h]

@[simp] theorem execHeartbeatMissed_keeps {region : Nat} {s : State} (h : s.Inv) :
    Keeps (execHeartbeatMissed region s) := by
  unfold execHeartbeatMissed
  dsimp only
  split
  · simp [h]
  · rw [keeps_next]
    exact killWith_inv (by simp [h])

end Sys2Proof.Machine
end

