-- ==== Sys2Proof/Laws/InvCommand.lean ====
section
/-! SUPPORT. The operations of Machine/Command, Launches keep the invariant. -/

namespace Sys2Proof.Machine

/-! ## Command.lean -/

theorem hostWrite_inv {s t : State} {physical : Bool} {a : Nat} {bs : List Byte} (e : hostWrite s physical a bs = some t) (h : s.Inv) : t.Inv := by
  unfold hostWrite at e
  split at e
  · split at e
    · cases e
      simp (maxDischargeDepth := 30) [h]
    · cases e
  · exact devWrite_inv e h

@[simp] theorem State.modQp_inv {s : State} {id : Nat} {f : QueuePair → QueuePair} (h : s.Inv) :
    (State.modQp s id f).Inv := by
  unfold State.modQp
  try dsimp only
  (repeat' split) <;> simp +contextual (maxDischargeDepth := 30) [h]

@[simp] theorem breakQp_inv {s : State} {id : Nat} {out : List HostOut} (h : s.Inv) :
    (breakQp s id out).Inv := by
  unfold breakQp
  try dsimp only
  (repeat' split) <;> simp +contextual (maxDischargeDepth := 30) [h]

@[simp] theorem flushHeld_inv {s : State} {id : Nat} (h : s.Inv) :
    (flushHeld s id).Inv := by
  unfold flushHeld
  try dsimp only
  (repeat' split) <;> simp +contextual (maxDischargeDepth := 30) [h]

@[simp] theorem setCmdTail_inv {s : State} {qp tail : Nat} (h : s.Inv) :
    (setCmdTail s qp tail).Inv := by
  unfold setCmdTail
  try dsimp only
  (repeat' split) <;> simp +contextual (maxDischargeDepth := 30) [h]

@[simp] theorem setCqHead_inv {s : State} {qp head : Nat} (h : s.Inv) :
    (setCqHead s qp head).Inv := by
  unfold setCqHead
  try dsimp only
  (repeat' split) <;> simp +contextual (maxDischargeDepth := 30) [h]

@[simp] theorem execCmdTail_keeps {qp : Nat} {tail : Word} {s : State} (h : s.Inv) :
    Keeps (execCmdTail qp tail s) := by
  unfold execCmdTail
  try dsimp only
  (repeat' split) <;> simp +contextual (maxDischargeDepth := 30) [h]

@[simp] theorem execCqHead_keeps {qp : Nat} {head : Word} {s : State} (h : s.Inv) :
    Keeps (execCqHead qp head s) := by
  unfold execCqHead
  try dsimp only
  (repeat' split) <;> simp +contextual (maxDischargeDepth := 30) [h]

@[simp] theorem execQueuePairSetup_keeps {qp : Nat} {bytes : List Byte} {s : State} (h : s.Inv) :
    Keeps (execQueuePairSetup qp bytes s) := by
  unfold execQueuePairSetup
  try dsimp only
  (repeat' split) <;> simp +contextual (maxDischargeDepth := 30) [h]

@[simp] theorem doorbellWrite_inv {s : State} {q : QueuePair} {off : Nat} {bytes : List Byte} (h : s.Inv) :
    (doorbellWrite s q off bytes).Inv := by
  unfold doorbellWrite
  try dsimp only
  (repeat' split) <;> simp +contextual (maxDischargeDepth := 30) [h]

@[simp] theorem rootRecord_inv {s : State} {e : EntryInfo} (h : s.Inv) : (rootRecord s e).Inv := by
  unfold rootRecord
  dsimp only
  split
  · split
    · split
      · rename_i hq
        exact complete_inv (queuePut_inv hq h)
      · exact h
    · split
      · exact devWrite_getD_inv h h
      · exact h
    · exact h
  · exact h

@[simp] theorem hostWalkRecord_inv {s : State} {root : DWord} {code a : Nat} (h : s.Inv) :
    (hostWalkRecord s root code a).Inv := by
  unfold hostWalkRecord
  try dsimp only
  (repeat' split) <;> simp +contextual (maxDischargeDepth := 30) [h]

@[simp] theorem hostWalks_inv {s : State} {root : DWord} {code a n : Nat} (h : s.Inv) :
    (hostWalks s root code a n).Inv := by
  unfold hostWalks
  try dsimp only
  (repeat' split) <;> simp +contextual (maxDischargeDepth := 30) [h]

@[simp] theorem nakAccess_inv {s : State} {qp code a n : Nat} (h : s.Inv) :
    (nakAccess s qp code a n).Inv := by
  unfold nakAccess
  try dsimp only
  (repeat' split) <;> simp +contextual (maxDischargeDepth := 30) [h]

@[simp] theorem firstMessage_inv {s : State} {qp : Nat} (h : s.Inv) : (firstMessage s qp).Inv := by
  simp [firstMessage, h]

@[simp] theorem execRdmaWrite_keeps {qp : Nat} {addr : DWord} {bytes : List Byte} {s : State} (h : s.Inv) :
    Keeps (execRdmaWrite qp addr bytes s) := by
  unfold execRdmaWrite
  dsimp only
  split
  · simp [h]
  split
  · simp [h]
  split
  · simp (maxDischargeDepth := 30) [h]
  split
  · rename_i e
    split at e
    · have h := hostWrite_inv e h
      simp [h]
    · cases e
  · simp [h]

@[simp] theorem execRdmaRead_keeps {qp : Nat} {addr : DWord} {len : Nat} {s : State} (h : s.Inv) :
    Keeps (execRdmaRead qp addr len s) := by
  unfold execRdmaRead
  try dsimp only
  (repeat' split) <;> simp +contextual (maxDischargeDepth := 30) [h]

@[simp] theorem execRoceAtomic_keeps {qp : Nat} {s : State} (h : s.Inv) :
    Keeps (execRoceAtomic qp s) := by
  unfold execRoceAtomic
  try dsimp only
  (repeat' split) <;> simp +contextual (maxDischargeDepth := 30) [h]

@[simp] theorem takeUp_inv {s : State} {qp : Nat} (h : s.Inv) :
    (takeUp s qp).Inv := by
  unfold takeUp
  try dsimp only
  (repeat' split) <;> simp +contextual (maxDischargeDepth := 30) [h]

@[simp] theorem refuse_inv {s : State} {qp op reason : Nat} {tag : DWord} (h : s.Inv) :
    (refuse s qp op reason tag).Inv := by
  unfold refuse
  try dsimp only
  (repeat' split) <;> simp +contextual (maxDischargeDepth := 30) [h]

@[simp] theorem done_inv {s : State} {qp op region : Nat} {tag : DWord} (h : s.Inv) :
    (done s qp op region tag).Inv := by
  unfold done
  try dsimp only
  (repeat' split) <;> simp +contextual (maxDischargeDepth := 30) [h]

@[simp] theorem noteUnread_inv {s : State} {u : Option Unread} (h : s.Inv) : (noteUnread s u).Inv := by
  unfold noteUnread
  split <;> simp [h]

@[simp] theorem noteNode_inv {s : State} {a : Nat} (h : s.Inv) : (noteNode s a).Inv := hostWalks_inv h

@[simp] theorem command_keeps {op : Nat} {qp : Nat} {body : State → List Byte → Except Refused State} {s : State}
    (hb : ∀ t bs u, t.Inv → body t bs = .ok u → u.Inv) (h : s.Inv) : Keeps (command op qp body s) := by
  unfold command
  split
  · split
    · split
      · rename_i e
        split at e
        · cases e
        · exact keeps_next.2 (hb _ _ _ (by simp [h]) e)
      · simp (maxDischargeDepth := 30) [h]
    · simp [h]
  · simp [h]

@[simp] theorem execUnknownCommand_keeps {qp : Nat} {s : State} (h : s.Inv) :
    Keeps (execUnknownCommand qp s) := by
  unfold execUnknownCommand
  dsimp only
  split
  · split <;> simp (maxDischargeDepth := 30) [h]
  · refine keeps_next.2 (breakQp_inv ?_)
    split <;> simp [h]
  · simp [h]

@[simp] theorem begin__inv {s : State} {p : PendCmd} (hp : p.sound) (h : s.Inv) :
    (begin_ s p).Inv := by
  simp only [begin_, State.inv_mk]
  refine { State.modQp_inv h with commands := ?_ }
  intro x hx
  rcases List.mem_append.1 hx with hx | hx
  · exact h.commands x hx
  · exact List.mem_singleton.1 hx ▸ hp

@[simp] theorem endPending_inv {s : State} {p : PendCmd} (h : s.Inv) :
    (endPending s p).Inv := by
  simp only [endPending, State.inv_mk]
  exact { State.modQp_inv h with commands := fun x hx => h.commands x (List.mem_of_mem_erase hx) }

@[simp] theorem loseDram_inv {s : State} {stack : Nat} (h : s.Inv) :
    (loseDram s stack).Inv := by
  simp only [loseDram, State.inv_mk]
  exact { h with dramForm := Memory.filter_wf _ h.dramForm }

@[simp] theorem dieOff_inv {s : State} {die : Nat} (h : s.Inv) :
    (dieOff s die).Inv := by
  unfold dieOff
  dsimp only
  have h1 : State.Inv (if 8 ≤ die then loseDram s (die - 8) else s) := by split <;> simp [h]
  refine latReschedule_inv ?_
  rw [State.inv_mk]
  exact { h1 with
    dieCount := by simp [modAt, h1.dieCount]
    dieState := modAt_le h1.dieState (by omega)
    replicaCount := by simp [modAt, h1.replicaCount] }

theorem pendReady_inv {s t : State} {p : PendCmd} (e : pendReady s p = some t) (hp : p.sound) (h : s.Inv) : t.Inv := by
  unfold pendReady at e
  split at e
  · split at e <;> cases e; exact h
  · split at e <;> cases e; exact h
  · split at e <;> cases e; exact h
  · split at e
    · split at e <;> cases e; exact h
    · split at e
      · split at e <;> cases e
        rw [State.inv_mk]
        exact { h with dieCount := by simp [modAt, h.dieCount], dieState := modAt_le h.dieState (by omega) }
      · split at e <;> cases e
        simp [h]
  · rename_i ho
    split at e <;> cases e
    rw [State.inv_mk]
    exact { h with level := Nat.le_trans (hp ho).1 (hp ho).2 }
  · cases e

@[simp] theorem settleOne_inv {s : State} {p : PendCmd} (hp : p.sound) (h : s.Inv) :
    (settleOne s p).Inv := by
  unfold settleOne
  split
  · exact h
  · rename_i e
    have h := pendReady_inv e hp h
    split
    · rename_i ho
      rw [State.inv_mk]
      refine { h with commands := ?_ }
      intro x hx
      obtain ⟨y, hy, rfl⟩ := List.mem_map.1 hx
      split
      · have h2 := hp ho.1
        intro _
        simp only
        omega
      · exact h.commands y hy
    · simp (maxDischargeDepth := 30) [h]

@[simp] theorem settleCommands_inv {s : State} (h : s.Inv) :
    (settleCommands s).Inv := by
  unfold settleCommands
  exact foldl_inv_mem (fun x hx t h' => settleOne_inv (h.commands x hx) h') h

@[simp] theorem execSession_keeps {qp : Nat} {st : State} (h : st.Inv) :
    Keeps (execSession qp st) := by
  unfold execSession
  refine command_keeps (fun s bs u h e => ?_) h
  dsimp only at e
  (repeat' split at e) <;> cases e <;> simp (maxDischargeDepth := 30) [h]

@[simp] theorem execSetwin_keeps {qp : Nat} {st : State} (h : st.Inv) :
    Keeps (execSetwin qp st) := by
  unfold execSetwin
  refine command_keeps (fun s bs u h e => ?_) h
  dsimp only at e
  split at e
  · cases e
  · split at e <;> cases e
    refine done_inv ?_
    rw [State.inv_mk]
    exact { h with windowLow := by omega, windowHigh := by omega }

@[simp] theorem execClrovr_keeps {qp : Nat} {st : State} (h : st.Inv) :
    Keeps (execClrovr qp st) := by
  unfold execClrovr
  refine command_keeps (fun s bs u h e => ?_) h
  cases e
  simp (maxDischargeDepth := 30) [h]

@[simp] theorem retireRegion_inv {s : State} {base : Nat} {r : LatRegion} (h : s.Inv) :
    (retireRegion s base r).Inv := by
  unfold retireRegion
  try dsimp only
  (repeat' split) <;> simp +contextual (maxDischargeDepth := 30) [h]

@[simp] theorem execLatret_keeps {qp : Nat} {st : State} (h : st.Inv) :
    Keeps (execLatret qp st) := by
  unfold execLatret
  refine command_keeps (fun s bs u h e => ?_) h
  dsimp only at e
  (repeat' split at e) <;> cases e <;> simp (maxDischargeDepth := 30) [h]

@[simp] theorem execSetspill_keeps {qp : Nat} {st : State} (h : st.Inv) :
    Keeps (execSetspill qp st) := by
  unfold execSetspill
  refine command_keeps (fun s bs u h e => ?_) h
  dsimp only at e
  split at e
  · cases e
  split at e
  · cases e
  · cases e
    exact settleCommands_inv (begin__inv (fun h0 => by cases h0) (by simp [h]))

@[simp] theorem execPeer_keeps {qp : Nat} {st : State} (h : st.Inv) :
    Keeps (execPeer qp st) := by
  unfold execPeer
  refine command_keeps (fun s bs u h e => ?_) h
  dsimp only at e
  split at e
  · cases e
  split at e
  · cases e
  split at e <;> cases e
  · exact settleCommands_inv (begin__inv (fun h0 => by cases h0) (by simp [h]))
  · simp [h]

@[simp] theorem execInventory_keeps {qp : Nat} {st : State} (h : st.Inv) :
    Keeps (execInventory qp st) := by
  unfold execInventory
  refine command_keeps (fun s bs u h e => ?_) h
  dsimp only at e
  split at e
  · cases e
  · split at e
    · cases e
    · rename_i hw
      have h := hostWrite_inv hw (by simp [h])
      cases e
      simp [h]

@[simp] theorem execPower_keeps {qp : Nat} {st : State} (h : st.Inv) :
    Keeps (execPower qp st) := by
  unfold execPower
  refine command_keeps (fun s bs u h e => ?_) h
  dsimp only at e
  have hb : ∀ p : PendCmd, p.opcode = 0x0E → (settleCommands (begin_ s p)).Inv := fun p hp =>
    settleCommands_inv (begin__inv (fun h0 => by omega) h)
  split at e
  · cases e
  split at e
  · cases e
  generalize (if field bs 0x10 1 = 0 then 8 + field bs 0x11 1 else field bs 0x11 1) = die at e
  split at e
  · cases e
  split at e
  · cases e
    simp [h]
  split at e
  · split at e <;> cases e
    · refine done_inv ?_
      rw [State.inv_mk]
      exact { h with dieCount := by simp [modAt, h.dieCount], dieState := modAt_le h.dieState (by omega) }
    · exact hb _ (by rfl)
  split at e
  · split at e <;> cases e
    exact hb _ (by rfl)
  split at e
  · split at e <;> cases e
    simp [h]
  · cases e
    exact hb _ (by rfl)

@[simp] theorem execService_keeps {qp : Nat} {st : State} (h : st.Inv) :
    Keeps (execService qp st) := by
  unfold execService
  refine command_keeps (fun s bs u h e => ?_) h
  dsimp only at e
  have hl := h.level
  split at e
  · cases e
  split at e
  · cases e
    simp [h]
  split at e
  · cases e
  · cases e
    refine settleCommands_inv (begin__inv ?_ h)
    intro _
    simp only
    omega

/-! ## Launches.lean -/

@[simp] theorem startRegions_inv {s : State} {ds : List LatRegion} (h : s.Inv) :
    (startRegions s ds).Inv := by
  unfold startRegions
  try dsimp only
  (repeat' split) <;> simp +contextual (maxDischargeDepth := 30) [h]

@[simp] theorem execLaunch_keeps {qp : Nat} {st : State} (h : st.Inv) :
    Keeps (execLaunch qp st) := by
  unfold execLaunch
  refine command_keeps (fun s bs u h e => ?_) h
  dsimp only at e
  (repeat' split at e) <;> cases e <;> simp (maxDischargeDepth := 30) [h]

@[simp] theorem placeTeam_inv {s : State} {l : Launch} {idx : Nat} {places : List (Nat × Nat)} {cores : List Nat} (h : s.Inv) :
    (placeTeam s l idx places cores).Inv := by
  unfold placeTeam
  try dsimp only
  (repeat' split) <;> simp +contextual (maxDischargeDepth := 30) [h]

@[simp] theorem place_inv {s : State} {l : Launch} {cores : List Nat} (h : s.Inv) :
    (place s l cores).Inv := by
  unfold place
  try dsimp only
  (repeat' split) <;> simp +contextual (maxDischargeDepth := 30) [h]

@[simp] theorem execDistributorPlaceTeam_keeps {cores : List Nat} {s : State} (h : s.Inv) :
    Keeps (execDistributorPlaceTeam cores s) := by
  unfold execDistributorPlaceTeam
  try dsimp only
  (repeat' split) <;> simp +contextual (maxDischargeDepth := 30) [h]

@[simp] theorem execLaunchCompletion_keeps {l : Nat} {s : State} (h : s.Inv) :
    Keeps (execLaunchCompletion l s) := by
  unfold execLaunchCompletion
  try dsimp only
  (repeat' split) <;> simp +contextual (maxDischargeDepth := 30) [h]

end Sys2Proof.Machine
end

