-- ==== Sys2Proof/Laws/InvPreempt.lean ====
section
/-! SUPPORT. The operations of Machine/Preempt, Pages keep the invariant. -/

namespace Sys2Proof.Machine

/-! ## Preempt.lean -/

@[simp] theorem haltUnit_inv {s : State} {g : Group} (h : s.Inv) :
    (haltUnit s g).Inv := by
  unfold haltUnit
  try dsimp only
  (repeat' split) <;> simp +contextual (maxDischargeDepth := 30) [h]

@[simp] theorem settleHalts_inv {s : State} (h : s.Inv) :
    (settleHalts s).Inv := by
  unfold settleHalts
  refine foldl_inv (fun t g h => ?_) h
  split
  · split <;> simp [h]
  · exact h

@[simp] theorem settlePreempt_inv {s : State} {p : Preempt} (h : s.Inv) :
    (settlePreempt s p).Inv := by
  unfold settlePreempt
  try dsimp only
  (repeat' split) <;> simp +contextual (maxDischargeDepth := 30) [h]

@[simp] theorem settlePreempts_inv {s : State} (h : s.Inv) :
    (settlePreempts s).Inv := by
  unfold settlePreempts
  try dsimp only
  (repeat' split) <;> simp +contextual (maxDischargeDepth := 30) [h]

@[simp] theorem startPreempt_inv {s : State} {node qp : Nat} {tag : DWord} (h : s.Inv) :
    (startPreempt s node qp tag).Inv := by
  unfold startPreempt
  try dsimp only
  (repeat' split) <;> simp +contextual (maxDischargeDepth := 30) [h]

@[simp] theorem execPreempt_keeps {qp : Nat} {st : State} (h : st.Inv) :
    Keeps (execPreempt qp st) := by
  unfold execPreempt
  refine command_keeps (fun s bs u h e => ?_) h
  cases e
  simp [h]

@[simp] theorem leavePlace_inv {s : State} {g : Group} (h : s.Inv) :
    (leavePlace s g).Inv := by
  unfold leavePlace
  try dsimp only
  (repeat' split) <;> simp +contextual (maxDischargeDepth := 30) [h]

theorem saveUnit_inv {s t : State} {g : Group} (e : saveUnit s g = some t) (h : s.Inv) : t.Inv := by
  unfold saveUnit at e
  dsimp only at e
  split at e
  · cases e
  · split at e
    · cases e
    · rename_i hw
      have h := writeAll_inv hw (by split <;> simp [h])
      cases e
      simp (maxDischargeDepth := 30) [h]

@[simp] theorem saveUnit_getD_inv {s : State} {g : Group} (h : s.Inv) : ((saveUnit s g).getD s).Inv := by
  cases e : saveUnit s g with
  | none => exact h
  | some t => exact saveUnit_inv e h

theorem saveAnchored_inv {s t : State} {x : Slot} (e : saveAnchored s x = some t) (h : s.Inv) : t.Inv := by
  unfold saveAnchored at e
  dsimp only at e
  split at e
  · cases e
  · split at e
    · cases e
    · rename_i hw
      have h := writeAll_inv hw h
      cases e
      simp (maxDischargeDepth := 30) [h]

@[simp] theorem saveAnchored_getD_inv {s : State} {x : Slot} (h : s.Inv) : ((saveAnchored s x).getD s).Inv := by
  cases e : saveAnchored s x with
  | none => exact h
  | some t => exact saveAnchored_inv e h

@[simp] theorem settleSaved_inv {s : State} (h : s.Inv) :
    (settleSaved s).Inv := by
  unfold settleSaved
  try dsimp only
  (repeat' split) <;> simp +contextual (maxDischargeDepth := 30) [h]

@[simp] theorem handOver_inv {s : State} {g : Group} {at_ : Nat} (h : s.Inv) :
    (handOver s g at_).Inv := by
  unfold handOver
  try dsimp only
  (repeat' split) <;> simp +contextual (maxDischargeDepth := 30) [h]

@[simp] theorem reenterAt_inv {s : State} {x : Saved} {core : Nat} (h : s.Inv) :
    (reenterAt s x core).Inv := by
  unfold reenterAt
  try dsimp only
  (repeat' split) <;> simp +contextual (maxDischargeDepth := 30) [h]

@[simp] theorem restoreBars_inv {s : State} {x : Saved} (h : s.Inv) :
    (restoreBars s x).Inv := by
  unfold restoreBars
  try dsimp only
  (repeat' split) <;> simp +contextual (maxDischargeDepth := 30) [h]

@[simp] theorem reenter_inv {s : State} {x : Saved} (h : s.Inv) :
    (reenter s x).Inv := reenterAt_inv h

@[simp] theorem saveCooled_inv {s : State} {g : Group} (h : s.Inv) :
    (saveCooled s g).Inv := by
  unfold saveCooled
  split
  · exact h
  · rename_i e
    have h := saveUnit_inv e h
    split <;> simp [h]

@[simp] theorem execCheckpointSave_keeps {u : Nat} {s : State} (h : s.Inv) :
    Keeps (execCheckpointSave u s) := by
  unfold execCheckpointSave
  split
  · split
    · rw [keeps_next]
      split <;> simp (maxDischargeDepth := 30) [h]
    · simp [h]
  · split
    · rw [keeps_next]
      (repeat' split) <;> simp (maxDischargeDepth := 30) [h]
    · simp [h]

@[simp] theorem restoreAnchored_inv {s : State} {x : Saved} (h : s.Inv) :
    (restoreAnchored s x).Inv := by
  unfold restoreAnchored
  dsimp only
  split
  · exact h
  split
  · split
    · exact h
    split
    · split <;> simp [h]
    · refine foldl_inv (fun t r h => ?_) (by simp [h])
      split <;> simp [h]
  · exact h

@[simp] theorem settleAnchors_inv {s : State} (h : s.Inv) :
    (settleAnchors s).Inv := by
  unfold settleAnchors
  try dsimp only
  (repeat' split) <;> simp +contextual (maxDischargeDepth := 30) [h]

@[simp] theorem unpreempt_inv {s : State} {ls : List Launch} (h : s.Inv) :
    (unpreempt s ls).Inv := by
  unfold unpreempt
  try dsimp only
  (repeat' split) <;> simp +contextual (maxDischargeDepth := 30) [h]

@[simp] theorem execResume_keeps {qp : Nat} {st : State} (h : st.Inv) :
    Keeps (execResume qp st) := by
  unfold execResume
  refine command_keeps (fun s bs u h e => ?_) h
  dsimp only at e
  (repeat' split at e) <;> cases e <;> simp +contextual (maxDischargeDepth := 30) [h]

@[simp] theorem markKilled_inv {s : State} {p : Parked} (h : s.Inv) :
    (markKilled s p).Inv := by
  unfold markKilled
  try dsimp only
  (repeat' split) <;> simp +contextual (maxDischargeDepth := 30) [h]

@[simp] theorem reissueMove_inv {s : State} {g : Group} {flag : Nat} {f : FlagFault} (h : s.Inv) :
    (reissueMove s g flag f).Inv := by
  unfold reissueMove
  try dsimp only
  (repeat' split) <;> simp +contextual (maxDischargeDepth := 30) [h]

@[simp] theorem returnParked_inv {s : State} {p : Parked} {g : Group} (h : s.Inv) :
    (returnParked s p g).Inv := by
  unfold returnParked
  dsimp only
  have h := handOver_inv (g := { g with
    haltPosted := (s.posted.filter fun q => q.owners.contains g.uid).length
    halting := false
    halted := false }) (at_ := g.core) (s := { s with parked := s.parked.filter fun q => q != p }) (by simp [h])
  split
  · exact reissueMove_inv h
  · exact h

@[simp] theorem execResumeentry_keeps {qp : Nat} {st : State} (h : st.Inv) :
    Keeps (execResumeentry qp st) := by
  unfold execResumeentry
  refine command_keeps (fun s bs u h e => ?_) h
  dsimp only at e
  split at e
  · cases e
  split at e
  · cases e
  split at e <;> cases e <;> simp (maxDischargeDepth := 30) [h]

@[simp] theorem execKillentry_keeps {qp : Nat} {st : State} (h : st.Inv) :
    Keeps (execKillentry qp st) := by
  unfold execKillentry
  refine command_keeps (fun s bs u h e => ?_) h
  dsimp only at e
  split at e
  · cases e
  · cases e
    exact settleCommands_inv (begin__inv (fun h0 => by cases h0) (by simp (maxDischargeDepth := 30) [h]))

/-! ## Pages.lean -/

@[simp] theorem learnAtomics_inv {s : State} {base n : Nat} (h : s.Inv) :
    (learnAtomics s base n).Inv := by
  unfold learnAtomics
  try dsimp only
  (repeat' split) <;> simp +contextual (maxDischargeDepth := 30) [h]

@[simp] theorem execInval_keeps {qp : Nat} {st : State} (h : st.Inv) :
    Keeps (execInval qp st) := by
  unfold execInval
  refine command_keeps (fun s bs u h e => ?_) h
  dsimp only at e
  (repeat' split at e) <;> cases e <;> simp +contextual (maxDischargeDepth := 30) [h]

@[simp] theorem sendMarkers_inv {s : State} {v : Inval} {core : Nat} (h : s.Inv) :
    (sendMarkers s v core).Inv := by
  unfold sendMarkers
  try dsimp only
  (repeat' split) <;> simp +contextual (maxDischargeDepth := 30) [h]

@[simp] theorem execInvalidationAck_keeps {v buffer : Nat} {s : State} (h : s.Inv) :
    Keeps (execInvalidationAck v buffer s) := by
  unfold execInvalidationAck
  try dsimp only
  (repeat' split) <;> simp +contextual (maxDischargeDepth := 30) [h]

@[simp] theorem execPgmove_keeps {qp : Nat} {st : State} (h : st.Inv) :
    Keeps (execPgmove qp st) := by
  unfold execPgmove
  refine command_keeps (fun s bs u h e => ?_) h
  dsimp only at e
  (repeat' split at e) <;> cases e <;> simp +contextual (maxDischargeDepth := 30) [h]

/-- Copying a frame keeps the canonical form. -/
theorem copyFrame_wf {m : List Host.Cell} {src dst size : Nat} (h : Memory.wf m = true) : Memory.wf (copyFrame m src dst size) = true := by
  unfold copyFrame
  dsimp only
  have h := Memory.filter_wf (fun c => !(decide (dst ≤ c.1) && decide (c.1 < dst + size))) h
  revert h
  generalize (m.filter fun c => !(decide (dst ≤ c.1) && decide (c.1 < dst + size))) = t
  intro h
  induction (m.filter fun c => decide (src ≤ c.1) && decide (c.1 < src + size)) generalizing t with
  | nil => exact h
  | cons c l ih => exact ih _ (Memory.write_wf h)

@[simp] theorem execPageCopyComplete_keeps {g : Nat} {s : State} (h : s.Inv) :
    Keeps (execPageCopyComplete g s) := by
  unfold execPageCopyComplete
  split
  · simp [h]
  · rw [keeps_next, State.inv_mk]
    exact { h with dramForm := copyFrame_wf h.dramForm }

@[simp] theorem endMove_inv {s : State} {p : PageMove} (h : s.Inv) :
    (endMove s p).Inv := by
  unfold endMove
  try dsimp only
  (repeat' split) <;> simp +contextual (maxDischargeDepth := 30) [h]

@[simp] theorem markerIn_inv {s : State} {p : PageMove} {core : Nat} (h : s.Inv) :
    (markerIn s p core).Inv := by
  unfold markerIn
  try dsimp only
  (repeat' split) <;> simp +contextual (maxDischargeDepth := 30) [h]

@[simp] theorem execPageMoveMarker_keeps {m : Nat} {s : State} (h : s.Inv) :
    Keeps (execPageMoveMarker m s) := by
  unfold execPageMoveMarker
  try dsimp only
  (repeat' split) <;> simp +contextual (maxDischargeDepth := 30) [h]

end Sys2Proof.Machine
end

