-- ==== Sys2Proof/Laws/InvServices.lean ====
section
/-! SUPPORT. The operations of Machine/Peers, Services keep the invariant. -/

namespace Sys2Proof.Machine

/-! ## Peers.lean -/

@[simp] theorem State.takeFrame_inv {s : State} {k : Nat} (h : s.Inv) :
    (State.takeFrame s k).Inv := by
  unfold State.takeFrame
  try dsimp only
  (repeat' split) <;> simp +contextual (maxDischargeDepth := 30) [h]

@[simp] theorem mismatchEvent_inv {s : State} {f : Frame} (h : s.Inv) :
    (mismatchEvent s f).Inv := by
  unfold mismatchEvent
  try dsimp only
  (repeat' split) <;> simp +contextual (maxDischargeDepth := 30) [h]

@[simp] theorem freeFrames_inv {s : State} {dev cls ackSeq : Nat} (h : s.Inv) :
    (freeFrames s dev cls ackSeq).Inv := by
  unfold freeFrames
  try dsimp only
  (repeat' split) <;> simp +contextual (maxDischargeDepth := 30) [h]

@[simp] theorem ackFrame_inv {s : State} {dev cls : Nat} (h : s.Inv) :
    (ackFrame s dev cls).Inv := by
  unfold ackFrame
  try dsimp only
  (repeat' split) <;> simp +contextual (maxDischargeDepth := 30) [h]

@[simp] theorem importIngot_inv {s : State} {dev port : Nat} {u : Group} {acc : Option Access} {dest : Dest} {flag : Nat} {lent : Option Launch} (h : s.Inv) :
    (importIngot s dev port u acc dest flag lent).Inv := by
  unfold importIngot
  split
  · rename_i e
    exact State.send_inv (takeIn_inv e h)
  · exact h
  · simp [h]

@[simp] theorem importRefuse_inv {s : State} {gid : Nat} {mask : Word} {bare : Bool} {code addr : Nat} (h : s.Inv) :
    (importRefuse s gid mask bare code addr).Inv := by
  unfold importRefuse
  try dsimp only
  (repeat' split) <;> simp +contextual (maxDischargeDepth := 30) [h]

@[simp] theorem hostCall_inv {s : State} {dev : Nat} {c : CallMsg} {lent : Option Launch} (h : s.Inv) : (hostCall s dev c lent).1.Inv := by
  unfold hostCall
  split
  · rename_i e
    exact hostLaunch_inv e h
  · exact h

@[simp] theorem importBody_inv {s : State} {dev port : Nat} {body : Payload} {lent : Option Launch} (h : s.Inv) :
    (importBody s dev port body lent).Inv := by
  unfold importBody
  dsimp only
  split <;> simp (maxDischargeDepth := 30) [h]

@[simp] theorem execGriernDataFrame_keeps {k : Nat} {s : State} (h : s.Inv) :
    Keeps (execGriernDataFrame k s) := by
  unfold execGriernDataFrame
  try dsimp only
  (repeat' split) <;> simp +contextual (maxDischargeDepth := 30) [h]

@[simp] theorem execGriernAckFrame_keeps {k : Nat} {s : State} (h : s.Inv) :
    Keeps (execGriernAckFrame k s) := by
  unfold execGriernAckFrame
  try dsimp only
  (repeat' split) <;> simp +contextual (maxDischargeDepth := 30) [h]

@[simp] theorem passWaiter_inv {s : State} {gid : Nat} {mask : Word} (h : s.Inv) :
    (passWaiter s gid mask).Inv := by
  unfold passWaiter
  try dsimp only
  (repeat' split) <;> simp +contextual (maxDischargeDepth := 30) [h]

@[simp] theorem pathLost_inv {s : State} {body : Payload} (h : s.Inv) :
    (pathLost s body).Inv := by
  unfold pathLost
  try dsimp only
  (repeat' split) <;> simp +contextual (maxDischargeDepth := 30) [h]

@[simp] theorem failPath_inv {s : State} {dev : Nat} (h : s.Inv) :
    (failPath s dev).Inv := by
  unfold failPath
  try dsimp only
  (repeat' split) <;> simp +contextual (maxDischargeDepth := 30) [h]

@[simp] theorem execGriernResendTimer_keeps {dev cls : Nat} {s : State} (h : s.Inv) :
    Keeps (execGriernResendTimer dev cls s) := by
  unfold execGriernResendTimer
  try dsimp only
  (repeat' split) <;> simp +contextual (maxDischargeDepth := 30) [h]

/-! ## Services.lean -/

@[simp] theorem modLink_inv {s : State} {link : Nat} {f : Link → Link} (h : s.Inv) :
    (modLink s link f).Inv := by
  simp only [modLink, State.inv_mk]
  exact { h with linkCount := by simp [modAt, h.linkCount] }

@[simp] theorem discardMessage_inv {s : State} {m : Msg} (h : s.Inv) :
    (discardMessage s m).Inv := by
  unfold discardMessage
  try dsimp only
  (repeat' split) <;> simp +contextual (maxDischargeDepth := 30) [h]

@[simp] theorem execFlitCrcError_keeps {link lane m : Nat} {s : State} (h : s.Inv) :
    Keeps (execFlitCrcError link lane m s) := by
  unfold execFlitCrcError
  try dsimp only
  (repeat' split) <;> simp +contextual (maxDischargeDepth := 30) [h]

@[simp] theorem execLaneSampleWindow_keeps {link : Nat} {badEye : List Nat} {s : State} (h : s.Inv) :
    Keeps (execLaneSampleWindow link badEye s) := by
  unfold execLaneSampleWindow
  try dsimp only
  (repeat' split) <;> simp +contextual (maxDischargeDepth := 30) [h]

@[simp] theorem execLaneSpareSwap_keeps {link lane : Nat} {s : State} (h : s.Inv) :
    Keeps (execLaneSpareSwap link lane s) := by
  unfold execLaneSpareSwap
  try dsimp only
  (repeat' split) <;> simp +contextual (maxDischargeDepth := 30) [h]

@[simp] theorem execIeee1588Message_keeps {port : Nat} {slew offset : Int} {s : State} (h : s.Inv) :
    Keeps (execIeee1588Message port slew offset s) := by
  unfold execIeee1588Message
  dsimp only
  split
  · simp [h]
  · rw [keeps_next, State.inv_mk]
    exact { h with slewLow := by unfold sat; split <;> (try split) <;> omega, slewHigh := by unfold sat; split <;> (try split) <;> omega }

@[simp] theorem execTimeLocked_keeps {offset : Word} {s : State} (h : s.Inv) :
    Keeps (execTimeLocked offset s) := by
  unfold execTimeLocked
  try dsimp only
  (repeat' split) <;> simp +contextual (maxDischargeDepth := 30) [h]

@[simp] theorem execTimeLockLost_keeps {offset : Word} {s : State} (h : s.Inv) :
    Keeps (execTimeLockLost offset s) := by
  unfold execTimeLockLost
  try dsimp only
  (repeat' split) <;> simp +contextual (maxDischargeDepth := 30) [h]

@[simp] theorem haltUpperHolders_inv {s : State} (h : s.Inv) :
    (haltUpperHolders s).Inv := by
  unfold haltUpperHolders
  try dsimp only
  (repeat' split) <;> simp +contextual (maxDischargeDepth := 30) [h]

@[simp] theorem settleCooling_inv {s : State} (h : s.Inv) :
    (settleCooling s).Inv := by
  unfold settleCooling
  split
  · rw [State.inv_mk]
    exact { h with level := by omega }
  · exact h

@[simp] theorem execCoolingLoopLost_keeps {bottom : Bool} {s : State} (h : s.Inv) :
    Keeps (execCoolingLoopLost bottom s) := by
  unfold execCoolingLoopLost
  try dsimp only
  (repeat' split) <;> simp +contextual (maxDischargeDepth := 30) [h]

@[simp] theorem execCoolingLoopRestored_keeps {bottom : Bool} {s : State} (h : s.Inv) :
    Keeps (execCoolingLoopRestored bottom s) := by
  unfold execCoolingLoopRestored
  try dsimp only
  (repeat' split) <;> simp +contextual (maxDischargeDepth := 30) [h]

@[simp] theorem execDramOverLimit_keeps {s : State} (h : s.Inv) :
    Keeps (execDramOverLimit s) := by
  unfold execDramOverLimit
  try dsimp only
  (repeat' split) <;> simp +contextual (maxDischargeDepth := 30) [h]

@[simp] theorem execStackWake_keeps {stack : Nat} {s : State} (h : s.Inv) :
    Keeps (execStackWake stack s) := by
  unfold execStackWake
  split
  · rw [keeps_next, State.inv_mk]
    exact { h with dieCount := by simp [modAt, h.dieCount], dieState := modAt_le h.dieState (by omega) }
  · simp [h]

@[simp] theorem refusePending_inv {s : State} {p : PendCmd} (h : s.Inv) :
    (refusePending s p).Inv := by
  unfold refusePending
  try dsimp only
  (repeat' split) <;> simp +contextual (maxDischargeDepth := 30) [h]

@[simp] theorem execSelfTestComplete_keeps {die : Nat} {pass : Bool} {s : State} (h : s.Inv) :
    Keeps (execSelfTestComplete die pass s) := by
  unfold execSelfTestComplete
  dsimp only
  split
  · simp [h]
  split
  · rw [keeps_next]
    refine settleCommands_inv ?_
    rw [State.inv_mk]
    refine { h with dieCount := ?_, dieState := ?_, commands := ?_ }
    · split
      · simp [modAt, h.dieCount]
      · exact h.dieCount
    · split
      · exact modAt_le h.dieState (by omega)
      · exact h.dieState
    · intro x hx
      obtain ⟨y, hy, rfl⟩ := List.mem_map.1 hx
      split
      · exact h.commands y hy
      · exact h.commands y hy
  · rw [keeps_next]
    refine latReschedule_inv ?_
    have h : ∀ l : List PendCmd, State.Inv (l.foldl (fun t p =>
        moduleEvent (refusePending t p) 0x000A (pack [(8, die), (8, if p.opcode = 0x0F then p.arg else t.service)])) s) := fun l =>
      foldl_inv (fun t x h => by simp [h]) h
    rw [State.inv_mk]
    exact { h _ with
      dieCount := by simp [modAt, (h _).dieCount]
      dieState := modAt_le (h _).dieState (by omega)
      replicaCount := by simp [modAt, (h _).replicaCount] }

@[simp] theorem execDeviceReset_keeps {s : State} (h : s.Inv) :
    Keeps (execDeviceReset s) := by
  unfold execDeviceReset
  rw [keeps_next, State.inv_mk]
  exact
    { dramForm := h.dramForm
      spadForm := h.spadForm
      level := Nat.zero_le 2
      slewLow := by decide
      slewHigh := by decide
      dieCount := rfl
      dieState := by decide
      replicaCount := rfl
      clockCount := rfl
      linkCount := rfl
      windowLow := by decide
      windowHigh := by decide
      commands := fun _ h => nomatch h }

@[simp] theorem execDramCorrectedError_keeps {stack bank row : Nat} {s : State} (h : s.Inv) :
    Keeps (execDramCorrectedError stack bank row s) := by
  unfold execDramCorrectedError
  try dsimp only
  (repeat' split) <;> simp +contextual (maxDischargeDepth := 30) [h]

@[simp] theorem restoreCell_inv {s : State} {key : Nat} (h : s.Inv) :
    (restoreCell s key).Inv := by
  unfold restoreCell
  try dsimp only
  (repeat' split) <;> simp +contextual (maxDischargeDepth := 30) [h]

@[simp] theorem execUncorrectableError_keeps {kind place : Nat} {s : State} (h : s.Inv) :
    Keeps (execUncorrectableError kind place s) := by
  unfold execUncorrectableError
  try dsimp only
  (repeat' split) <;> simp +contextual (maxDischargeDepth := 30) [h]

@[simp] theorem execPatrolScrub_keeps {x0 x1 x2 : Nat} {s : State} (h : s.Inv) :
    Keeps (execPatrolScrub x0 x1 x2 s) := by
  unfold execPatrolScrub
  try dsimp only
  (repeat' split) <;> simp +contextual (maxDischargeDepth := 30) [h]

@[simp] theorem execRegisterSpill_keeps {x0 : Nat} {s : State} (h : s.Inv) :
    Keeps (execRegisterSpill x0 s) := by
  unfold execRegisterSpill
  try dsimp only
  (repeat' split) <;> simp +contextual (maxDischargeDepth := 30) [h]

end Sys2Proof.Machine
end

