-- ==== Sys2Proof/Laws/InvExec.lean ====
section
/-! SUPPORT. Every instruction and event keeps the invariant. -/

namespace Sys2Proof.Machine

/-- Whatever it does, a step of the machine that `exec` carries out keeps the invariant. -/
theorem exec_keeps {i : Instr} {s : State} (h : s.Inv) : Keeps (exec i s) := by
  cases i with
  | nop => exact execNop_keeps h
  | bra _ => exact execBra_keeps h
  | brc _ _ _ _ => exact execBrc_keeps h
  | call _ _ => exact execCall_keeps h
  | ret _ => exact execRet_keeps h
  | jtab _ _ => exact execJtab_keeps h
  | pad _ _ => exact execPad_keeps h
  | exit _ _ => exact execExit_keeps h
  | trap _ => exact execTrap_keeps h
  | loop _ _ => exact execLoop_keeps h
  | winb _ _ => exact execWinb_keeps h
  | swinb _ _ => exact execSwinb_keeps h
  | live _ _ _ _ => exact execLive_keeps h
  | pause _ => exact execPause_keeps h
  | sleep _ => exact execSleep_keeps h
  | iadd _ _ _ _ => exact execIadd_keeps h
  | isub _ _ _ _ => exact execIsub_keeps h
  | imul _ _ _ _ => exact execImul_keeps h
  | imad _ _ _ _ => exact execImad_keeps h
  | imnx _ _ _ _ => exact execImnx_keeps h
  | isetp _ _ _ _ => exact execIsetp_keeps h
  | sel _ _ _ _ _ => exact execSel_keeps h
  | iaddc _ _ _ _ _ => exact execIaddc_keeps h
  | land _ _ _ => exact execLand_keeps h
  | lor _ _ _ => exact execLor_keeps h
  | lxor _ _ _ => exact execLxor_keeps h
  | andn _ _ _ => exact execAndn_keeps h
  | shl _ _ _ _ => exact execShl_keeps h
  | shr _ _ _ _ => exact execShr_keeps h
  | bfx _ _ _ _ => exact execBfx_keeps h
  | bitop _ _ _ => exact execBitop_keeps h
  | iaddi _ _ _ => exact execIaddi_keeps h
  | andi _ _ _ => exact execAndi_keeps h
  | ori _ _ _ => exact execOri_keeps h
  | xori _ _ _ => exact execXori_keeps h
  | shi _ _ _ _ => exact execShi_keeps h
  | movi _ _ => exact execMovi_keeps h
  | movhi _ _ => exact execMovhi_keeps h
  | isetpi _ _ _ _ => exact execIsetpi_keeps h
  | fadd _ _ _ _ => exact execFadd_keeps h
  | fmul _ _ _ _ => exact execFmul_keeps h
  | ffma _ _ _ _ => exact execFfma_keeps h
  | fmnx _ _ _ _ => exact execFmnx_keeps h
  | fsetp _ _ _ _ => exact execFsetp_keeps h
  | fsfu _ _ _ => exact execFsfu_keeps h
  | fcvt _ _ _ _ _ _ => exact execFcvt_keeps h
  | fclass _ _ _ => exact execFclass_keeps h
  | hadd2 _ _ _ _ => exact execHadd2_keeps h
  | hmul2 _ _ _ _ => exact execHmul2_keeps h
  | hfma2 _ _ _ _ => exact execHfma2_keeps h
  | bfma2 _ _ _ _ => exact execBfma2_keeps h
  | dot4 _ _ _ _ => exact execDot4_keeps h
  | pcvt _ _ _ _ => exact execPcvt_keeps h
  | mov _ _ _ => exact execMov_keeps h
  | idx _ _ _ _ => exact execIdx_keeps h
  | plop _ _ _ _ => exact execPlop_keeps h
  | vote _ _ _ => exact execVote_keeps h
  | shfl _ _ _ _ => exact execShfl_keeps h
  | redux _ _ _ => exact execRedux_keeps h
  | pmov _ _ _ => exact execPmov_keeps h
  | pset _ _ => exact execPset_keeps h
  | ldb _ _ _ _ => exact execLdb_keeps h
  | ldh _ _ _ _ => exact execLdh_keeps h
  | ldw _ _ _ _ => exact execLdw_keeps h
  | ldd _ _ _ _ => exact execLdd_keeps h
  | ldba _ _ _ _ _ => exact execLdba_keeps h
  | ldha _ _ _ _ _ => exact execLdha_keeps h
  | ldwa _ _ _ _ _ => exact execLdwa_keeps h
  | ldda _ _ _ _ _ => exact execLdda_keeps h
  | stb _ _ _ _ _ => exact execStb_keeps h
  | sth _ _ _ _ _ => exact execSth_keeps h
  | stw _ _ _ _ _ => exact execStw_keeps h
  | std _ _ _ _ _ => exact execStd_keeps h
  | stbl _ _ _ _ _ _ => exact execStbl_keeps h
  | sthl _ _ _ _ _ _ => exact execSthl_keeps h
  | stwl _ _ _ _ _ _ => exact execStwl_keeps h
  | stdl _ _ _ _ _ _ => exact execStdl_keeps h
  | aadd _ _ _ _ _ _ => exact execAadd_keeps h
  | asub _ _ _ _ _ _ => exact execAsub_keeps h
  | amins _ _ _ _ _ _ => exact execAmins_keeps h
  | amaxs _ _ _ _ _ _ => exact execAmaxs_keeps h
  | aminu _ _ _ _ _ _ => exact execAminu_keeps h
  | amaxu _ _ _ _ _ _ => exact execAmaxu_keeps h
  | aand _ _ _ _ _ _ => exact execAand_keeps h
  | aor _ _ _ _ _ _ => exact execAor_keeps h
  | axor _ _ _ _ _ _ => exact execAxor_keeps h
  | axch _ _ _ _ _ _ => exact execAxch_keeps h
  | acas _ _ _ _ _ _ => exact execAcas_keeps h
  | afadd _ _ _ _ _ _ => exact execAfadd_keeps h
  | afmin _ _ _ _ _ _ => exact execAfmin_keeps h
  | afmax _ _ _ _ _ _ => exact execAfmax_keeps h
  | aincw _ _ _ _ _ _ => exact execAincw_keeps h
  | adecw _ _ _ _ _ _ => exact execAdecw_keeps h
  | stn _ _ _ _ _ => exact execStn_keeps h
  | stbm _ _ _ _ _ => exact execStbm_keeps h
  | migrCore _ => exact execMigrCore_keeps h
  | migrAddr _ => exact execMigrAddr_keeps h
  | migrLaunch => exact execMigrLaunch_keeps h
  | home _ _ => exact execHome_keeps h
  | rejoin _ => exact execRejoin_keeps h
  | barArrive _ _ _ _ => exact execBarArrive_keeps h
  | barWait _ _ _ _ => exact execBarWait_keeps h
  | barSync _ _ _ _ => exact execBarSync_keeps h
  | barInit _ _ _ _ => exact execBarInit_keeps h
  | barrierArrivalMessage _ => exact execBarrierArrivalMessage_keeps h
  | fence _ _ _ => exact execFence_keeps h
  | ljoin _ _ _ => exact execLjoin_keeps h
  | ljoinr _ _ _ _ => exact execLjoinr_keeps h
  | lld _ _ _ _ => exact execLld_keeps h
  | lldw _ _ _ _ => exact execLldw_keeps h
  | lstx _ _ _ _ => exact execLstx_keeps h
  | lflush _ _ => exact execLflush_keeps h
  | lepoch _ _ _ => exact execLepoch_keeps h
  | rcall _ _ _ _ _ _ => exact execRcall_keeps h
  | rcallRetry _ _ _ _ _ _ => exact execRcallRetry_keeps h
  | rret _ => exact execRret_keeps h
  | rstat _ _ => exact execRstat_keeps h
  | tmove _ _ _ => exact execTmove_keeps h
  | tstat _ _ => exact execTstat_keeps h
  | tstatProm _ _ => exact execTstatProm_keeps h
  | mldw _ _ _ => exact execMldw_keeps h
  | mswap => exact execMswap_keeps h
  | mstream _ _ _ => exact execMstream_keeps h
  | mdrain _ _ _ _ => exact execMdrain_keeps h
  | mlicAcq => exact execMlicAcq_keeps h
  | mlicTry _ => exact execMlicTry_keeps h
  | mlicRel => exact execMlicRel_keeps h
  | mlicQry _ => exact execMlicQry_keeps h
  | xsigSig _ => exact execXsigSig_keeps h
  | xsigWait _ => exact execXsigWait_keeps h
  | xsigSync _ => exact execXsigSync_keeps h
  | csrr _ _ => exact execCsrr_keeps h
  | csrw _ _ => exact execCsrw_keeps h
  | hbeat v => exact execHbeat_keeps (x0 := v) h
  | pgreq _ => exact execPgreq_keeps h
  | spadDescriptorWrite _ _ => exact execSpadDescriptorWrite_keeps h
  | trapvec _ _ => exact execTrapvec_keeps h
  | eret => exact execEret_keeps h
  | cycle _ _ => exact execCycle_keeps h
  | tracem _ _ => exact execTracem_keeps h
  | chainWaitCut _ => exact execChainWaitCut_keeps h
  | trapDelivery _ => exact execTrapDelivery_keeps h
  | faultEntryRetry _ => exact execFaultEntryRetry_keeps h
  | pauseEnd _ => exact execPauseEnd_keeps h
  | sleepWake _ => exact execSleepWake_keeps h
  | replyOverdue _ => exact execReplyOverdue_keeps h
  | promiseMissed _ => exact execPromiseMissed_keeps h
  | barrierTimeout _ _ => exact execBarrierTimeout_keeps h
  | heartbeatMissed _ => exact execHeartbeatMissed_keeps h
  | xsigTimeout _ => exact execXsigTimeout_keeps h
  | latticeWaitLimit _ => exact execLatticeWaitLimit_keeps h
  | remoteBudgetExceeded _ => exact execRemoteBudgetExceeded_keeps h
  | postedAckTimeout _ => exact execPostedAckTimeout_keeps h
  | ingotArrival _ => exact execIngotArrival_keeps h
  | ingotAdmission _ => exact execIngotAdmission_keeps h
  | distributorPlaceTeam _ => exact execDistributorPlaceTeam_keeps h
  | postedOpArrival _ => exact execPostedOpArrival_keeps h
  | postedAck _ => exact execPostedAck_keeps h
  | heldReleaseSend _ => exact execHeldReleaseSend_keeps h
  | flaggedLoadCompletion _ => exact execFlaggedLoadCompletion_keeps h
  | forwardedCompletion _ => exact execForwardedCompletion_keeps h
  | exitRemovalMessage _ => exact execExitRemovalMessage_keeps h
  | callArrival _ => exact execCallArrival_keeps h
  | replyArrival _ => exact execReplyArrival_keeps h
  | retryArrival _ => exact execRetryArrival_keeps h
  | replyCacheExpiry _ => exact execReplyCacheExpiry_keeps h
  | watermarkExpiry _ _ _ => exact execWatermarkExpiry_keeps h
  | tileMoveAccept _ => exact execTileMoveAccept_keeps h
  | tileMoveCompletion _ => exact execTileMoveCompletion_keeps h
  | tileMoveFault _ => exact execTileMoveFault_keeps h
  | matrixCompletion _ => exact execMatrixCompletion_keeps h
  | licenceGrant _ => exact execLicenceGrant_keeps h
  | licenceReacquire _ => exact execLicenceReacquire_keeps h
  | licenceFreeAfterKill _ => exact execLicenceFreeAfterKill_keeps h
  | burnishRoundStart _ => exact execBurnishRoundStart_keeps h
  | roundDelivery _ => exact execRoundDelivery_keeps h
  | roundCompletion _ => exact execRoundCompletion_keeps h
  | lflushDelivery _ => exact execLflushDelivery_keeps h
  | joinListDelivery _ => exact execJoinListDelivery_keeps h
  | replicaReturnCopy _ => exact execReplicaReturnCopy_keeps h
  | pageCopyComplete _ => exact execPageCopyComplete_keeps h
  | pageMoveMarker _ => exact execPageMoveMarker_keeps h
  | invalidationAck _ _ => exact execInvalidationAck_keeps h
  | checkpointSave _ => exact execCheckpointSave_keeps h
  | launchCompletion _ => exact execLaunchCompletion_keeps h
  | windowOverrunMark _ => exact execWindowOverrunMark_keeps h
  | launch _ => exact execLaunch_keeps h
  | preempt _ => exact execPreempt_keeps h
  | resume _ => exact execResume_keeps h
  | resumeentry _ => exact execResumeentry_keeps h
  | killentry _ => exact execKillentry_keeps h
  | inval _ => exact execInval_keeps h
  | pgmove _ => exact execPgmove_keeps h
  | clrovr _ => exact execClrovr_keeps h
  | latret _ => exact execLatret_keeps h
  | setwin _ => exact execSetwin_keeps h
  | setspill _ => exact execSetspill_keeps h
  | peer _ => exact execPeer_keeps h
  | inventory _ => exact execInventory_keeps h
  | power _ => exact execPower_keeps h
  | service _ => exact execService_keeps h
  | session _ => exact execSession_keeps h
  | unknownCommand _ => exact execUnknownCommand_keeps h
  | cmdTail _ _ => exact execCmdTail_keeps h
  | cqHead _ _ => exact execCqHead_keeps h
  | queuePairSetup _ _ => exact execQueuePairSetup_keeps h
  | rdmaWrite _ _ _ => exact execRdmaWrite_keeps h
  | rdmaRead _ _ _ => exact execRdmaRead_keeps h
  | roceAtomic _ => exact execRoceAtomic_keeps h
  | griernDataFrame _ => exact execGriernDataFrame_keeps h
  | griernAckFrame _ => exact execGriernAckFrame_keeps h
  | griernResendTimer _ _ => exact execGriernResendTimer_keeps h
  | flitCrcError _ _ _ => exact execFlitCrcError_keeps h
  | laneSampleWindow _ _ => exact execLaneSampleWindow_keeps h
  | laneSpareSwap _ _ => exact execLaneSpareSwap_keeps h
  | timeLocked _ => exact execTimeLocked_keeps h
  | timeLockLost _ => exact execTimeLockLost_keeps h
  | coolingLoopLost _ => exact execCoolingLoopLost_keeps h
  | coolingLoopRestored _ => exact execCoolingLoopRestored_keeps h
  | dramOverLimit => exact execDramOverLimit_keeps h
  | stackWake _ => exact execStackWake_keeps h
  | deviceReset => exact execDeviceReset_keeps h
  | dramCorrectedError _ _ _ => exact execDramCorrectedError_keeps h
  | uncorrectableError _ _ => exact execUncorrectableError_keeps h
  | patrolScrub a b c => exact execPatrolScrub_keeps (x0 := a) (x1 := b) (x2 := c) h
  | registerSpill u => exact execRegisterSpill_keeps (x0 := u) h
  | selfTestComplete _ _ => exact execSelfTestComplete_keeps h
  | systemReleaseWindowPassed _ => exact execSystemReleaseWindowPassed_keeps h
  | callSequenceReuseWait _ => exact execCallSequenceReuseWait_keeps h
  | shippedScratchpadAccess _ => exact execShippedScratchpadAccess_keeps h
  | inlineAccessCompletion _ => exact execInlineAccessCompletion_keeps h
  | issuingCoreRequest _ => exact execIssuingCoreRequest_keeps h
  | licenceReleaseMessage _ => exact execLicenceReleaseMessage_keeps h
  | barrierReleaseMessage _ => exact execBarrierReleaseMessage_keeps h
  | ieee1588Message _ _ _ => exact execIeee1588Message_keeps h

end Sys2Proof.Machine
end

