-- ==== Sys2Proof/Laws/InvSched.lean ====
section
/-! SUPPORT. The operations of Machine/Sched keep the invariant. -/

namespace Sys2Proof.Machine

/-! ## Sched.lean -/

@[simp] theorem advance_inv {s : State} {dt : Nat} (h : s.Inv) :
    (advance s dt).Inv := by
  simp only [advance, State.inv_mk]
  exact { h with clockCount := by simp [h.clockCount] }

theorem loadBundle_inv {s : State} {g : Group} {r : State × Group} (e : loadBundle s g = .ok r) (h : s.Inv) : r.1.Inv := by
  unfold loadBundle at e
  dsimp only at e
  split at e
  · cases e; exact h
  split at e
  · cases e
  split at e
  · cases e
  rename_i e1
  have h := readBundle_inv e1 h
  cases e
  simp [h]

@[simp] theorem faultAtPc_inv {s : State} {g : Group} {e : ReadFault} (h : s.Inv) :
    (faultAtPc s g e).Inv := by
  unfold faultAtPc
  dsimp only
  split
  · exact h
  · split <;> simp [h]

@[simp] theorem runUnit_keeps {s : State} {g : Group} (h : s.Inv) :
    Keeps (runUnit s g) := by
  unfold runUnit
  split
  · exact execTrapDelivery_keeps h
  split
  · simp [h]
  · rename_i e
    have h := loadBundle_inv e h
    split
    · simp [h]
    split
    · simp [h]
    split
    · split <;> simp [h]
    · exact exec_keeps (by simp [h])

@[simp] theorem eventStep_keeps {s : State} (h : s.Inv) :
    Keeps (eventStep s) := by
  unfold eventStep
  split
  · exact exec_keeps h
  · simp [h]

@[simp] theorem settleChains_inv {s : State} (h : s.Inv) :
    (settleChains s).Inv := by
  unfold settleChains
  refine foldl_inv (fun t g h => ?_) h
  split
  · split <;> simp [h]
  · exact h

theorem passing_inv {o : Host.Outcome State Fault Refusal} {s : State} (ho : Keeps o) (h : s.Inv) : (passing o s).Inv := by
  unfold passing
  split
  · exact ho _ rfl
  · exact h

@[simp] theorem settleWatch_inv {s : State} (h : s.Inv) : (settleWatch s).Inv := by
  unfold settleWatch
  exact foldl_inv (fun _ _ h => passing_inv (execHeartbeatMissed_keeps h) h)
    (foldl_inv (fun _ _ h => passing_inv (execXsigTimeout_keeps h) h)
      (foldl_inv (fun _ _ h => passing_inv (execBarrierTimeout_keeps h) h) h))

@[simp] theorem settleDeadlines_inv {s : State} (h : s.Inv) :
    (settleDeadlines s).Inv := by
  unfold settleDeadlines
  exact foldl_inv (fun _ _ h => passing_inv (execPromiseMissed_keeps h) h) (foldl_inv (fun _ _ h => passing_inv (execReplyOverdue_keeps h) h) h)

@[simp] theorem settle_inv {s : State} (h : s.Inv) :
    (settle s).Inv := by
  unfold settle
  try dsimp only
  (repeat' split) <;> simp +contextual (maxDischargeDepth := 30) [h]

@[simp] theorem runAgenda_keeps {e : Instr} {s : State} (h : s.Inv) :
    Keeps (runAgenda e s) := by
  unfold runAgenda
  split
  · simp [h]
  · exact exec_keeps h

end Sys2Proof.Machine
end

