-- ==== Sys2Proof/Laws/Issue.lean ====
section
/-! SUPPORT. What the shared operations of issuing do, once: the gate of an instruction that nothing stands before, the registers and predicates
after a list of writes, and the state after `Ctx.retire`. -/

namespace Sys2Proof.Machine

/-! ## Lists -/

theorem getD_setAt {α : Type} (d : α) (l : List α) (k j : Nat) (f : α → α) :
    (setAt d l k f).getD j d = if j = k then f (l.getD k d) else l.getD j d := by
  induction k generalizing l j with
  | zero => cases l <;> cases j <;> simp [setAt]
  | succ k ih =>
    simp only [List.getD_eq_getElem?_getD] at ih
    cases l <;> cases j <;> simp [setAt, ih]

theorem laneAt_perStrand (f : Nat → Word) {j : Nat} (h : j < 32) : laneAt (perStrand f) j = f j := by
  simp [laneAt, perStrand, h]

theorem laneAt_mergeLanes (m : Word) (new old : List Word) {j : Nat} (h : j < 32) :
    laneAt (mergeLanes m new old) j = if inMask m j then laneAt new j else laneAt old j :=
  laneAt_perStrand _ h

theorem find?_map_replace {α : Type} {l : List α} {p : α → Bool} {y : α} {f : α → α} (hp : ∀ x ∈ l, p (f x) = p x)
    (h : l.find? p = some y) : (l.map f).find? p = some (f y) := by
  induction l with
  | nil => simp at h
  | cons a t ih =>
    simp only [List.map_cons, List.find?_cons, hp a List.mem_cons_self] at h ⊢
    split at h
    · cases h; rfl
    · exact ih (fun x hx => hp x (List.mem_cons_of_mem _ hx)) h

theorem filter_map_id {α : Type} {l : List α} {p : α → Bool} {f : α → α} (hp : ∀ x ∈ l, p (f x) = p x)
    (hf : ∀ x ∈ l, p x = true → f x = x) : (l.map f).filter p = l.filter p := by
  induction l with
  | nil => rfl
  | cons a t ih =>
    have := ih (fun x hx => hp x (List.mem_cons_of_mem _ hx)) (fun x hx => hf x (List.mem_cons_of_mem _ hx))
    simp only [List.map_cons, List.filter_cons, hp a List.mem_cons_self, this]
    split
    · rename_i h; rw [hf a List.mem_cons_self h]
    · rfl

/-! ## The issuing unit -/

theorem ctx?_spec {s : State} {c : Ctx} (h : ctx? s = some c) :
    c.s = s ∧ c.uni = s.cur.uni ∧ c.g.uid = s.cur.uid ∧ s.slot? c.g.core c.g.slot = some c.sl ∧
      ∃ g, s.unit? s.cur.uid = some g ∧ c.g = { g with pend := g.pend.map fun e => { e with k := e.k + 1 + s.cur.dist } } := by
  unfold ctx? at h
  split at h
  · cases h
  · rename_i g hg
    split at h
    · cases h
    · rename_i sl hsl
      cases h
      have := List.find?_some hg
      exact ⟨rfl, rfl, by simpa using this, hsl, g, hg, rfl⟩

theorem slot?_spec {s : State} {core slot : Nat} {x : Slot} (h : s.slot? core slot = some x) : x.core = core ∧ x.slot = slot := by
  simpa using List.find?_some h

/-- A clear instruction passes its gate. -/
theorem gate_of_clear {c : Ctx} {i : Instr} {ops : List Opnd} (h : Clear c i ops) : c.gate i ops = .go := by
  have h1 : anySet c.g (c.s.cur.waitMask ++ i.asyncFlag.toList) = false := by
    rw [anySet, List.any_eq_false]
    exact fun k hk => by simp [h.flags k hk]
  have h2 : (i.heldByAcquire && anySet c.g c.g.acqFlags) = false := by
    cases hh : i.heldByAcquire
    · rfl
    · rw [Bool.true_and, anySet, List.any_eq_false]
      exact fun k hk => by simp [h.acquires hh k hk]
  have h3 : pendingOf c.g (c.s.cur.waitMask ++ i.raisesFlag.toList ++ (if i.heldByAcquire then c.g.acqFlags else [])) = none := by
    rw [pendingOf, List.findSome?_eq_none_iff]
    intro k _
    by_cases hk : k ∈ c.s.cur.waitMask ++ i.raisesFlag.toList ++ (if i.heldByAcquire then c.g.acqFlags else [])
    · simp [h.pending k hk]
    · rw [if_neg (by simpa using hk)]
  have h4 : (c.g.visitor.any fun v => decide (4096 ≤ v.issued)) = false := by
    cases hv : c.g.visitor with
    | none => rfl
    | some v => simpa using (h.body v hv).1
  have h5 : (c.g.visitor.isSome && !remoteOk i) = false := by
    cases hv : c.g.visitor with
    | none => rfl
    | some v => simpa using (h.body v hv).2
  simp only [Ctx.gate, h1, h2, h.home, h.released, h4, h.operands, h3, h5, Bool.or_self, Bool.false_eq_true, if_false]

/-- An instruction with nothing before it has its own effect. -/
theorem issue_clear {s : State} {i : Instr} {c : Ctx} {body : Ctx → State} (h : Issues s i c) : issue i body s = .next (body c) := by
  simp only [issue, issueOps, h.1, gate_of_clear h.2]

/-! ## Writes -/

/-- The last write of a list to a strand of a register. -/
def lastWrite (ws : List PendWrite) (r : Reg) (j : Nat) : Option Word :=
  ws.foldl (fun o e => if e.reg = r ∧ inMask e.mask j = true then some (laneAt e.vals j) else o) none

/-- The last write of a list to a scalar. -/
def lastScalar (ws : List PendWrite) (k : Nat) : Option Word :=
  ws.foldl (fun o e => if e.reg = .scal k then some (laneAt e.vals 0) else o) none

/-- The last write of a list to a strand's bit of a predicate. -/
def lastPred (ws : List PendWrite) (k j : Nat) : Option Bool :=
  ws.foldl (fun o e => if e.reg = .pred k ∧ inMask e.mask j = true then some (inMask (laneAt e.vals 0) j) else o) none

/-- The effect of a list of writes. -/
def Effect.ofWrites (ws : List PendWrite) (pc : Nat) : Effect :=
  { vec := fun k j => lastWrite ws (.vec k) j
    scal := fun k => lastScalar ws k
    twin := fun k j => lastWrite ws (.twin k) j
    pred := fun k j => lastPred ws k j
    pc }

theorem lastWrite_cons (e : PendWrite) (ws : List PendWrite) (r : Reg) (j : Nat) :
    lastWrite (e :: ws) r j =
      (lastWrite ws r j).or (if e.reg = r ∧ inMask e.mask j = true then some (laneAt e.vals j) else none) := by
  have key : ∀ (ws : List PendWrite) (o : Option Word),
      ws.foldl (fun o e => if e.reg = r ∧ inMask e.mask j = true then some (laneAt e.vals j) else o) o =
        (lastWrite ws r j).or o := by
    intro ws
    induction ws with
    | nil => intro o; simp [lastWrite]
    | cons a t ih =>
      intro o
      simp only [lastWrite, List.foldl_cons]
      rw [ih, ih]
      split <;> simp
  rw [lastWrite, List.foldl_cons, key]

theorem lastScalar_cons (e : PendWrite) (ws : List PendWrite) (k : Nat) :
    lastScalar (e :: ws) k = (lastScalar ws k).or (if e.reg = .scal k then some (laneAt e.vals 0) else none) := by
  have key : ∀ (ws : List PendWrite) (o : Option Word),
      ws.foldl (fun o e => if e.reg = .scal k then some (laneAt e.vals 0) else o) o = (lastScalar ws k).or o := by
    intro ws
    induction ws with
    | nil => intro o; simp [lastScalar]
    | cons a t ih =>
      intro o
      simp only [lastScalar, List.foldl_cons]
      rw [ih, ih]
      split <;> simp
  rw [lastScalar, List.foldl_cons, key]

theorem lastPred_cons (e : PendWrite) (ws : List PendWrite) (k j : Nat) :
    lastPred (e :: ws) k j =
      (lastPred ws k j).or (if e.reg = .pred k ∧ inMask e.mask j = true then some (inMask (laneAt e.vals 0) j) else none) := by
  have key : ∀ (ws : List PendWrite) (o : Option Bool),
      ws.foldl (fun o e => if e.reg = .pred k ∧ inMask e.mask j = true then some (inMask (laneAt e.vals 0) j) else o) o =
        (lastPred ws k j).or o := by
    intro ws
    induction ws with
    | nil => intro o; simp [lastPred]
    | cons a t ih =>
      intro o
      simp only [lastPred, List.foldl_cons]
      rw [ih, ih]
      split <;> simp
  rw [lastPred, List.foldl_cons, key]

theorem inMask_merge (m w o : Word) (j : Nat) :
    inMask ((o &&& ~~~m) ||| (w &&& m)) j = if inMask m j then inMask w j else inMask o j := by
  by_cases h : j < 32
  · cases hm : m[j] <;> simp [inMask, h, hm]
  · simp [inMask, BitVec.getLsbD_of_ge _ _ (Nat.le_of_not_lt h)]

/-- What a unit and its slot hold after a list of writes. -/
structure Committed (p q : Group × Slot) (ws : List PendWrite) : Prop where
  unit : { q.1 with preds := p.1.preds } = p.1
  pred : ∀ k j, 1 ≤ k → inMask (q.1.preds.getD (k - 1) 0) j = (lastPred ws k j).getD (inMask (p.1.preds.getD (k - 1) 0) j)
  slot : { q.2 with v := p.2.v, s := p.2.s, vdirty := p.2.vdirty, sdirty := p.2.sdirty } = p.2
  vec : ∀ k j, j < 32 → q.2.vec k j = (lastWrite ws (.vec k) j).getD (p.2.vec k j)
  scal : ∀ k, q.2.scal k = (lastScalar ws k).getD (p.2.scal k)

theorem committed_nil (p : Group × Slot) : Committed p p [] :=
  { unit := rfl
    pred := by intros; rfl
    slot := rfl
    vec := by intros; rfl
    scal := by intros; rfl }

theorem commitWrite_spec (p : Group × Slot) (e : PendWrite) : Committed p (commitWrite p e) [e] := by
  obtain ⟨reg, mask, vals, cls, k⟩ := e
  cases reg with
  | vec n =>
    refine ⟨rfl, fun k j _ => by simp [commitWrite, lastPred], rfl, fun k j hj => ?_, fun k => by simp [commitWrite, lastScalar, Slot.scal]⟩
    simp only [commitWrite, Slot.vec, getD_setAt, lastWrite, List.foldl_cons, List.foldl_nil, Reg.vec.injEq]
    by_cases hk : k = n
    · subst hk
      rw [if_pos rfl, laneAt_mergeLanes _ _ _ hj]
      cases inMask mask j <;> simp
    · rw [if_neg hk, if_neg (by simp [Ne.symm hk])]; rfl
  | scal n =>
    refine ⟨rfl, fun k j _ => by simp [commitWrite, lastPred], rfl, fun k j hj => by simp [commitWrite, lastWrite, Slot.vec], fun k => ?_⟩
    simp only [commitWrite, Slot.scal, getD_setAt, lastScalar, List.foldl_cons, List.foldl_nil, Reg.scal.injEq]
    by_cases hk : k = n
    · subst hk; simp
    · rw [if_neg hk, if_neg (Ne.symm hk)]; rfl
  | twin n =>
    exact ⟨rfl, fun k j _ => by simp [commitWrite, lastPred], rfl, fun k j _ => by simp [commitWrite, lastWrite],
      fun k => by simp [commitWrite, lastScalar]⟩
  | pred n =>
    cases n with
    | zero =>
      exact ⟨rfl, fun k j hk => by simp [commitWrite, lastPred, show ¬(0 = k) by omega], rfl, fun k j _ => by simp [commitWrite, lastWrite],
        fun k => by simp [commitWrite, lastScalar]⟩
    | succ n =>
      refine ⟨rfl, fun k j hk => ?_, rfl, fun k j hj => by simp [commitWrite, lastWrite], fun k => by simp [commitWrite, lastScalar]⟩
      simp only [commitWrite, getD_setAt, lastPred, List.foldl_cons, List.foldl_nil, Reg.pred.injEq]
      by_cases hkn : k = n + 1
      · subst hkn
        rw [if_pos (by omega), inMask_merge]
        cases inMask mask j <;> simp
      · rw [if_neg (by omega), if_neg (by simp [Ne.symm hkn])]; rfl

theorem committed_trans {p q r : Group × Slot} {e : PendWrite} {ws : List PendWrite} (h : Committed p q [e]) (h' : Committed q r ws) :
    Committed p r (e :: ws) := by
  refine ⟨?_, fun k j hk => ?_, ?_, fun k j hj => ?_, fun k => ?_⟩
  · have h1 := h.unit
    have h2 := h'.unit
    calc { r.1 with preds := p.1.preds } = { { r.1 with preds := q.1.preds } with preds := p.1.preds } := rfl
      _ = { q.1 with preds := p.1.preds } := by rw [h2]
      _ = p.1 := h1
  · rw [h'.pred k j hk, h.pred k j hk, lastPred_cons, lastPred_cons]
    cases lastPred ws k j <;> simp [lastPred]
  · calc _ = { { r.2 with v := q.2.v, s := q.2.s, vdirty := q.2.vdirty, sdirty := q.2.sdirty } with v := p.2.v, s := p.2.s, vdirty := p.2.vdirty, sdirty := p.2.sdirty } := rfl
      _ = { q.2 with v := p.2.v, s := p.2.s, vdirty := p.2.vdirty, sdirty := p.2.sdirty } := by rw [h'.slot]
      _ = p.2 := h.slot
  · rw [h'.vec k j hj, h.vec k j hj, lastWrite_cons, lastWrite_cons]
    cases lastWrite ws (.vec k) j <;> simp [lastWrite]
  · rw [h'.scal k, h.scal k, lastScalar_cons, lastScalar_cons]
    cases lastScalar ws k <;> simp [lastScalar]

/-- The writes of a list, made in order. -/
theorem foldl_commitWrite_spec (ws : List PendWrite) (p : Group × Slot) : Committed p (ws.foldl commitWrite p) ws := by
  induction ws generalizing p with
  | nil => exact committed_nil p
  | cons e t ih =>
    exact committed_trans (commitWrite_spec p e) (ih _)

theorem lastWrite_filter {p : PendWrite → Bool} {r : Reg} (hp : ∀ e, e.reg = r → p e = true) (ws : List PendWrite) (j : Nat) :
    lastWrite (ws.filter p) r j = lastWrite ws r j := by
  induction ws with
  | nil => rfl
  | cons e t ih =>
    rw [List.filter_cons, lastWrite_cons]
    split
    · rw [lastWrite_cons, ih]
    · rename_i h
      rw [ih, if_neg (fun h' => h (hp e h'.1)), Option.or_none]

theorem lastScalar_filter {p : PendWrite → Bool} {k : Nat} (hp : ∀ e, e.reg = .scal k → p e = true) (ws : List PendWrite) :
    lastScalar (ws.filter p) k = lastScalar ws k := by
  induction ws with
  | nil => rfl
  | cons e t ih =>
    rw [List.filter_cons, lastScalar_cons]
    split
    · rw [lastScalar_cons, ih]
    · rename_i h
      rw [ih, if_neg (fun h' => h (hp e h')), Option.or_none]

theorem lastPred_filter {p : PendWrite → Bool} {k : Nat} (hp : ∀ e, e.reg = .pred k → p e = true) (ws : List PendWrite) (j : Nat) :
    lastPred (ws.filter p) k j = lastPred ws k j := by
  induction ws with
  | nil => rfl
  | cons e t ih =>
    rw [List.filter_cons, lastPred_cons]
    split
    · rw [lastPred_cons, ih]
    · rename_i h
      rw [ih, if_neg (fun h' => h (hp e h'.1)), Option.or_none]

/-- Writes to twin registers are made elsewhere, at once (R63). -/
theorem committed_filter {p q : Group × Slot} {ws : List PendWrite}
    (h : Committed p q (ws.filter fun e => match e.reg with | .twin _ => false | _ => true)) : Committed p q ws := by
  refine ⟨h.unit, fun k j hk => ?_, h.slot, fun k j hj => ?_, fun k => ?_⟩
  · rw [h.pred k j hk, lastPred_filter (fun e he => by simp [he])]
  · rw [h.vec k j hj, lastWrite_filter (fun e he => by simp [he])]
  · rw [h.scal k, lastScalar_filter (fun e he => by simp [he])]

/-! ## The end of a chain and the state after an issue -/

theorem commitChain_idem {g : Group} {sl : Slot} : commitChain (commitChain g sl).1 (commitChain g sl).2 = commitChain g sl := rfl

theorem unit?_putUnit {s : State} {g g' : Group} (h : s.unit? g'.uid = some g) : (s.putUnit g').unit? g'.uid = some g' := by
  have hu : g.uid = g'.uid := by simpa using List.find?_some h
  refine (find?_map_replace (fun x _ => ?_) h).trans (by rw [if_pos hu])
  by_cases hx : x.uid = g'.uid <;> simp [hx]

theorem slot?_putSlot {s : State} {x x' : Slot} (h : s.slot? x'.core x'.slot = some x) : (s.putSlot x').slot? x'.core x'.slot = some x' := by
  refine (find?_map_replace (fun y _ => ?_) h).trans (by rw [if_pos (slot?_spec h)])
  by_cases hy : y.core = x'.core ∧ y.slot = x'.slot
  · simp [hy]
  · rw [if_neg hy]

theorem units_putUnit (s : State) (g : Group) :
    ((s.putUnit g).units.filter fun h => h.uid != g.uid) = s.units.filter fun h => h.uid != g.uid := by
  refine filter_map_id (fun x _ => ?_) (fun x _ hx => if_neg (by simpa using hx))
  by_cases hx : x.uid = g.uid <;> simp [hx]

theorem slots_putSlot (s : State) (x : Slot) :
    ((s.putSlot x).slots.filter fun y => !(y.core == x.core && y.slot == x.slot)) =
      s.slots.filter fun y => !(y.core == x.core && y.slot == x.slot) := by
  refine filter_map_id (fun y _ => ?_) (fun y _ hy => if_neg (by rintro ⟨h1, h2⟩; simp [h1, h2] at hy))
  by_cases hy : y.core = x.core ∧ y.slot = x.slot
  · simp [hy]
  · rw [if_neg hy]

theorem Committed.unit_eq {p q : Group × Slot} {ws : List PendWrite} (h : Committed p q ws) : q.1 = { p.1 with preds := q.1.preds } := by
  have := h.unit
  rw [← this]

theorem Committed.slot_eq {p q : Group × Slot} {ws : List PendWrite} (h : Committed p q ws) :
    q.2 = { p.2 with v := q.2.v, s := q.2.s, vdirty := q.2.vdirty, sdirty := q.2.sdirty } := by
  have := h.slot
  rw [← this]

/-- The settled unit and slot after an issue. -/
theorem issued_done {c : Ctx} {iss : Issue} {va vb res : Option (List Word)} {ws : List PendWrite} {pc : Nat} {jump : Bool} :
    UnitDone c (Effect.ofWrites ws pc) (commitChain (issued c.g iss va vb res ws pc jump) c.sl).1
      (commitChain (issued c.g iss va vb res ws pc jump) c.sl).2 := by
  have hq := foldl_commitWrite_spec c.g.pend (c.g, c.sl)
  have hr := foldl_commitWrite_spec c.g.pend (issued c.g iss va vb res ws pc jump, c.sl)
  have hf := committed_filter (foldl_commitWrite_spec (ws.filter fun e => match e.reg with | .twin _ => false | _ => true)
    (c.g.pend.foldl commitWrite (issued c.g iss va vb res ws pc jump, c.sl)))
  rw [← List.foldl_append] at hf
  have e1 : (commitChain (issued c.g iss va vb res ws pc jump) c.sl) =
      ({ ((c.g.pend ++ ws.filter fun e => match e.reg with | .twin _ => false | _ => true).foldl commitWrite
          (issued c.g iss va vb res ws pc jump, c.sl)).1 with
          pend := [], chainLen := 0, bypass := [], holds := [], holdPtr := 0, chainHold := 0 },
        ((c.g.pend ++ ws.filter fun e => match e.reg with | .twin _ => false | _ => true).foldl commitWrite
          (issued c.g iss va vb res ws pc jump, c.sl)).2) := rfl
  have e2 : commitChain c.g c.sl = ({ (c.g.pend.foldl commitWrite (c.g, c.sl)).1 with
      pend := [], chainLen := 0, bypass := [], holds := [], holdPtr := 0, chainHold := 0 },
      (c.g.pend.foldl commitWrite (c.g, c.sl)).2) := rfl
  generalize c.g.pend.foldl commitWrite (c.g, c.sl) = q at *
  generalize c.g.pend.foldl commitWrite (issued c.g iss va vb res ws pc jump, c.sl) = r at *
  generalize (c.g.pend ++ ws.filter fun e => match e.reg with | .twin _ => false | _ => true).foldl commitWrite
    (issued c.g iss va vb res ws pc jump, c.sl) = f at *
  rw [e1]
  have hv : f.1.visitor = c.g.visitor.map fun v => { v with issued := v.issued + 1 } := by rw [hf.unit_eq, hr.unit_eq]; rfl
  have hp : f.1.pc = pc := by rw [hf.unit_eq, hr.unit_eq]; rfl
  constructor
  · rw [e2]
    simp only []
    rw [hf.unit_eq, hr.unit_eq, hq.unit_eq]
    rfl
  · exact hp
  · exact hv
  · intro k j hk
    rw [e2]
    simp only [Effect.ofWrites]
    rw [hf.pred k j hk, hr.pred k j hk, hq.pred k j hk]
    rfl
  · rw [e2]
    simp only []
    rw [hf.slot_eq, hr.slot_eq, hq.slot_eq]
  · intro k j hj
    rw [e2]
    simp only [Effect.ofWrites]
    rw [hf.vec k j hj, hr.vec k j hj, hq.vec k j hj]
  · intro k
    rw [e2]
    simp only [Effect.ofWrites]
    rw [hf.scal k, hr.scal k, hq.scal k]

theorem laneAt_setAt (l : List (List Word)) (k n j : Nat) (m : Word) (vals : List Word) (hj : j < 32) :
    laneAt ((setAt [] l n (mergeLanes m vals)).getD k []) j =
      if k = n ∧ inMask m j = true then laneAt vals j else laneAt (l.getD k []) j := by
  rw [getD_setAt]
  by_cases h : k = n
  · subst h
    rw [if_pos rfl, laneAt_mergeLanes _ _ _ hj]
    cases inMask m j <;> simp
  · rw [if_neg h, if_neg (fun h' => h h'.1)]

/-- The last write of a list to a strand of an x register. -/
def lastX : List XWrite → Nat → Nat → Option Word
  | [], _, _ => none
  | e :: l, k, j => (lastX l k j).or (if e.reg = k ∧ inMask e.mask j = true then some (laneAt e.vals j) else none)

theorem lastX_append (a b : List XWrite) (k j : Nat) : lastX (a ++ b) k j = (lastX b k j).or (lastX a k j) := by
  induction a with
  | nil => simp [lastX]
  | cons e l ih => simp [lastX, ih, Option.or_assoc]

theorem laneAt_over (l : List XWrite) (x : List (List Word)) (k j : Nat) (hj : j < 32) :
    laneAt ((l.foldl XWrite.over x).getD k []) j = (lastX l k j).getD (laneAt (x.getD k []) j) := by
  induction l generalizing x with
  | nil => rfl
  | cons e l ih =>
    rw [List.foldl_cons, ih, XWrite.over, laneAt_setAt _ _ _ _ _ _ hj, lastX]
    simp only [eq_comm (a := k)]
    cases lastX l k j
    · split <;> rfl
    · rfl

theorem lastX_some (l : List XWrite) (k j : Nat) : (lastX l k j).isSome = l.any fun e => e.reg == k && inMask e.mask j := by
  induction l with
  | nil => rfl
  | cons e l ih =>
    rw [lastX, List.any_cons, ← ih]
    cases lastX l k j <;> cases h : e.reg == k && inMask e.mask j <;> simp_all

/-- Writes cut to the strands of masks that depend on the register only. -/
theorem laneAt_masked (l : List XWrite) (m : Nat → Word) (x : List (List Word)) (k j : Nat) (hj : j < 32) :
    laneAt ((l.foldl (fun x e => XWrite.over x { e with mask := e.mask &&& m e.reg }) x).getD k []) j =
      ((if inMask (m k) j then lastX l k j else none).getD (laneAt (x.getD k []) j)) := by
  have h := laneAt_over (l.map fun e => { e with mask := e.mask &&& m e.reg }) x k j hj
  rw [List.foldl_map] at h
  rw [h]
  congr 1
  induction l with
  | nil => simp [lastX]
  | cons e l ih =>
    rw [List.map_cons, lastX, ih ((laneAt_over _ _ _ _ hj).symm ▸ List.foldl_map ▸ rfl), lastX]
    by_cases he : e.reg = k
    · subst he
      cases hm : inMask (m e.reg) j <;> simp_all [inMask]
    · simp [he]

/-- Strands of a register that a side has written. -/
theorem inMask_mine (w : TwinWindow) (up : Bool) (k j : Nat) :
    inMask (w.mine up k) j = w.late.any fun e => e.upper == up && e.reg == k && inMask e.mask j := by
  have key : ∀ (l : List XWrite) (o : Word),
      inMask (l.foldl (fun m e => if e.upper = up ∧ e.reg = k then m ||| e.mask else m) o) j =
        (inMask o j || l.any fun e => e.upper == up && e.reg == k && inMask e.mask j) := by
    intro l
    induction l with
    | nil => intro o; simp
    | cons e l ih =>
      intro o
      rw [List.foldl_cons, ih, List.any_cons, ← Bool.or_assoc]
      congr 1
      by_cases h : e.upper = up ∧ e.reg = k
      · simp [h, inMask]
      · rw [if_neg h]
        by_cases h1 : e.upper = up <;> by_cases h2 : e.reg = k <;> simp_all
  rw [TwinWindow.mine, key]
  simp [inMask]

theorem settle_settle (w : TwinWindow) (t : Nat) : (w.settle t).settle t = w.settle t := by
  unfold TwinWindow.settle
  split <;> simp_all

theorem settle_all (w : TwinWindow) (t : Nat) : (w.settle t).all = w.all := by
  unfold TwinWindow.settle
  split <;> simp [TwinWindow.all]

/-- The last write of a side in the ac of a window. -/
def TwinWindow.last (w : TwinWindow) (up : Bool) (k j : Nat) : Option Word := lastX (w.late.filter fun e => e.upper == up) k j

theorem wrote_last (w : TwinWindow) (t : Nat) (up : Bool) (k j : Nat) : w.wrote t up k j = ((w.settle t).last up k j).isSome := by
  rw [TwinWindow.last, lastX_some, List.any_filter, TwinWindow.wrote]
  simp only [Bool.and_assoc]

/-- What a side reads: its last write of this ac over the values of the ac before; of a strand that both sides wrote, the lower side's. -/
theorem laneAt_seen (w : TwinWindow) (t : Nat) (up : Bool) (k j : Nat) (hj : j < 32) :
    laneAt ((w.seen t up).getD k []) j =
      ((if up && ((w.settle t).last true k j).isSome then (w.settle t).last false k j else none).or
        ((w.settle t).last up k j)).getD (laneAt ((w.settle t).x.getD k []) j) := by
  unfold TwinWindow.seen
  dsimp only
  cases up with
  | false => exact (laneAt_over _ _ _ _ hj).trans (by simp [TwinWindow.last])
  | true =>
    rw [Bool.true_and, ← wrote_last, TwinWindow.wrote, ← inMask_mine, if_pos rfl, laneAt_masked _ (fun r => (w.settle t).mine true r) _ _ _ hj,
      laneAt_over _ _ _ _ hj]
    have e : ((w.settle t).late.filter (!·.upper)) = (w.settle t).late.filter fun e => e.upper == false := by congr 1; funext e; simp
    rw [e, TwinWindow.last, TwinWindow.last]
    split
    · cases lastX ((w.settle t).late.filter fun e => e.upper == false) k j <;> simp
    · simp

theorem laneAt_all (w : TwinWindow) (k j : Nat) (hj : j < 32) :
    laneAt (w.all.getD k []) j = ((w.last false k j).or (w.last true k j)).getD (laneAt (w.x.getD k []) j) := by
  have e : (w.late.filter (!·.upper)) = w.late.filter fun e => e.upper == false := by congr 1; funext e; simp
  have e' : (w.late.filter (·.upper)) = w.late.filter fun e => e.upper == true := by congr 1; funext e; simp
  rw [TwinWindow.all, laneAt_over _ _ _ _ hj, lastX_append, e, e']
  rfl

theorem seen_later (w : TwinWindow) (t : Nat) (side : Bool) (h : t ≠ w.lateAt) : w.seen t side = w.all := by
  unfold TwinWindow.seen TwinWindow.settle
  rw [if_neg (Ne.symm h)]
  cases side <;> simp

/-- THE TWIN WINDOW AFTER WRITES of one side in an ac. -/
theorem write_done (w : TwinWindow) (t : Nat) (up : Bool) (ws : List XWrite) (h : ∀ e ∈ ws, e.upper = up) :
    TwinDone t up (lastX ws) w (w.write t ws) := by
  have hat : (w.write t ws).lateAt = t := by unfold TwinWindow.write TwinWindow.settle; split <;> simp_all
  have hw : (w.write t ws).settle t = w.write t ws := by rw [TwinWindow.settle, if_pos hat]
  have hx : (w.write t ws).x = (w.settle t).x := rfl
  have hl : ∀ p k j, (w.write t ws).last p k j = if p = up then (lastX ws k j).or ((w.settle t).last p k j) else (w.settle t).last p k j := by
    intro p k j
    have : (w.write t ws).last p k j = lastX (((w.settle t).late ++ ws).filter fun e => e.upper == p) k j := rfl
    rw [this, List.filter_append, lastX_append]
    split
    · rename_i hp
      rw [List.filter_eq_self.2 fun e he => by simp [h e he, hp]]
      rfl
    · rename_i hp
      rw [List.filter_eq_nil_iff.2 fun e he => by simp [h e he, Ne.symm hp]]
      rfl
  constructor
  · unfold TwinWindow.write TwinWindow.settle
    split <;> rfl
  · intro k j hj
    simp only [laneAt_seen _ _ _ _ _ hj, wrote_last, hw, hx, hl]
    cases up <;> cases lastX ws k j <;> cases (w.settle t).last true k j <;> cases (w.settle t).last false k j <;> simp
  · intro k j hj
    simp only [laneAt_seen _ _ _ _ _ hj, wrote_last, hw, hx, hl]
    cases up <;> cases lastX ws k j <;> cases (w.settle t).last true k j <;> cases (w.settle t).last false k j <;> simp
  · intro k j hj t' ht side
    rw [seen_later _ _ _ ht, laneAt_all _ _ _ hj, laneAt_seen _ _ _ _ _ hj, ← settle_all w t, laneAt_all _ _ _ hj]
    simp only [wrote_last, hx, hl]
    cases up <;> cases lastX ws k j <;> cases (w.settle t).last true k j <;> cases (w.settle t).last false k j <;> simp

/-- A window that nothing has written. -/
theorem no_write (w : TwinWindow) (t : Nat) (up : Bool) {f : Nat → Nat → Option Word} (h : ∀ k j, f k j = none) : TwinDone t up f w w :=
  { rest := rfl
    own := fun k j _ => by rw [h k j]
    twin := fun k j _ => by rw [h k j]
    next := fun k j _ t' ht side => by rw [h k j, seen_later _ _ _ ht] }

/-- The writes to x registers of a list of writes. -/
def xWrites (upper : Bool) (ws : List PendWrite) : List XWrite :=
  ws.filterMap fun e => match e.reg with | .twin k => some { reg := k, upper, mask := e.mask, vals := e.vals } | _ => none

theorem lastX_xWrites (up : Bool) (ws : List PendWrite) (k j : Nat) : lastX (xWrites up ws) k j = lastWrite ws (.twin k) j := by
  induction ws with
  | nil => rfl
  | cons e l ih =>
    obtain ⟨reg, mask, vals, cls, n⟩ := e
    rw [lastWrite_cons, ← ih]
    cases reg <;> simp [xWrites, lastX]

/-- THE TWIN WINDOW AFTER AN ISSUE. -/
theorem writeTwin_done {s : State} {c : Ctx} {ws : List PendWrite} {w : TwinWindow} (h : c.twin? = some w) :
    ∃ w', writeTwin s c ws = (if (xWrites (isUpper c.g.core) ws).isEmpty then s else s.putTwin w') ∧
      ((xWrites (isUpper c.g.core) ws).isEmpty = true → w' = w) ∧
      TwinDone (s.acOf w.lower) (isUpper c.g.core) (lastX (xWrites (isUpper c.g.core) ws)) w w' := by
  have e : writeTwin s c ws = if (xWrites (isUpper c.g.core) ws).isEmpty then s else s.putTwin (w.write (s.acOf w.lower) (xWrites (isUpper c.g.core) ws)) := by
    simp only [writeTwin, h]
    rfl
  cases hl : xWrites (isUpper c.g.core) ws with
  | nil => exact ⟨w, by rw [e, hl]; rfl, fun _ => rfl, no_write w _ _ fun _ _ => rfl⟩
  | cons a l =>
    refine ⟨w.write (s.acOf w.lower) (a :: l), by rw [e, hl], (fun h => nomatch h), write_done w _ _ _ fun e he => ?_⟩
    · rw [← hl, xWrites, List.mem_filterMap] at he
      obtain ⟨x, _, hx⟩ := he
      split at hx <;> cases hx
      rfl

theorem twinWindow?_spec {s : State} {l core slot : Nat} {w : TwinWindow} (h : s.twinWindow? l core slot = some w) :
    w.launch = l ∧ w.lower = pairOf core ∧ w.slot = slot := by
  have := List.find?_some h
  simp at this
  exact ⟨this.1.1, this.1.2, this.2⟩

theorem twinWindow?_putTwin {s : State} {l core slot : Nat} {w w' : TwinWindow} (h : s.twinWindow? l core slot = some w)
    (hw : { w' with x := w.x, late := w.late, lateAt := w.lateAt } = w) : (s.putTwin w').twinWindow? l core slot = some w' := by
  have hs := twinWindow?_spec h
  have hk : w'.lower = w.lower ∧ w'.slot = w.slot ∧ w'.launch = w.launch := by rw [← hw]; exact ⟨rfl, rfl, rfl⟩
  refine (find?_map_replace (fun y _ => ?_) h).trans (by rw [if_pos ⟨hk.1.symm, hk.2.1.symm, hk.2.2.symm⟩])
  by_cases hy : y.lower = w'.lower ∧ y.slot = w'.slot ∧ y.launch = w'.launch
  · rw [if_pos hy, hy.1, hy.2.1, hy.2.2]
  · rw [if_neg hy]

theorem twins_putTwin {s : State} {l core slot : Nat} {w : TwinWindow} (h : w.launch = l ∧ w.lower = pairOf core ∧ w.slot = slot) :
    ((s.putTwin w).twins.filter fun y => !(y.launch == l && y.lower == pairOf core && y.slot == slot)) =
      s.twins.filter fun y => !(y.launch == l && y.lower == pairOf core && y.slot == slot) := by
  obtain ⟨h1, h2, h3⟩ := h
  refine filter_map_id (fun y _ => ?_) (fun y _ hy => if_neg ?_)
  · by_cases hy : y.lower = w.lower ∧ y.slot = w.slot ∧ y.launch = w.launch
    · rw [if_pos hy, hy.1, hy.2.1, hy.2.2]
    · rw [if_neg hy]
  · rintro ⟨e1, e2, e3⟩
    simp [e1, e2, e3, h1, h2, h3] at hy

theorem commitChain_keys (g : Group) (sl : Slot) :
    (commitChain g sl).1.uid = g.uid ∧ (commitChain g sl).1.core = g.core ∧ (commitChain g sl).1.slot = g.slot ∧
      (commitChain g sl).2.core = sl.core ∧ (commitChain g sl).2.slot = sl.slot := by
  have h := foldl_commitWrite_spec g.pend (g, sl)
  have e : commitChain g sl = ({ (g.pend.foldl commitWrite (g, sl)).1 with
      pend := [], chainLen := 0, bypass := [], holds := [], holdPtr := 0, chainHold := 0 },
      (g.pend.foldl commitWrite (g, sl)).2) := rfl
  rw [e]
  simp only []
  rw [h.unit_eq, h.slot_eq]
  simp

/-- Settling sees a unit and its slot where they stand. -/
theorem settled_eq {t : State} {g : Group} {sl : Slot} (hg : t.unit? g.uid = some g) (hs : t.slot? g.core g.slot = some sl) :
    settled t g.uid = some (commitChain g sl) := by
  rw [settled, hg]
  simp only [hs, Option.map_some]

theorem writeTwin_rest (s : State) (c : Ctx) (ws : List PendWrite) : writeTwin s c ws = { s with twins := (writeTwin s c ws).twins } := by
  unfold writeTwin
  dsimp only
  split
  · rfl
  · split <;> rfl

/-- A context whose unit and slot stand in its state. -/
def Seen (c : Ctx) : Prop := (∃ g, c.s.unit? c.g.uid = some g) ∧ c.s.slot? c.g.core c.g.slot = some c.sl

theorem ctx?_seen {s : State} {c : Ctx} (h : ctx? s = some c) : Seen c := by
  obtain ⟨hs, hu, huid, hslot, g0, hg0, hg⟩ := ctx?_spec h
  subst hs
  exact ⟨⟨g0, by rw [huid]; exact hg0⟩, hslot⟩

/-- THE STATE AFTER AN ISSUE: the listed writes, the pc, and nothing else. -/
theorem retire_done {c : Ctx} (h : Seen c) (i : Instr) (res : Option (List Word)) (ws : List PendWrite)
    (pc : Nat) (jump : Bool) : Done c (c.retire i res ws pc jump) (Effect.ofWrites ws pc) := by
  obtain ⟨⟨g0, hg0⟩, hslot⟩ := h
  have hsl := slot?_spec hslot
  have tw := writeTwin_rest c.s c ws
  have noW : c.twin? = none → (writeTwin c.s c ws).twins = c.s.twins := by
    intro hn; simp only [writeTwin, hn]
  have at? : ∀ w, c.twin? = some w → c.s.twinWindow? c.g.launch c.g.core c.g.slot = some w := by
    intro w hw
    unfold Ctx.twin? at hw
    split at hw
    · exact hw
    · cases hw
  have win : ∀ w, c.twin? = some w → ∃ w', (writeTwin c.s c ws).twinWindow? c.g.launch c.g.core c.g.slot = some w' ∧
      TwinDone (c.s.acOf w.lower) (isUpper c.g.core) (Effect.ofWrites ws pc).twin w w' := by
    intro w hw
    obtain ⟨w', e, e0, hd⟩ := writeTwin_done (s := c.s) (ws := ws) hw
    have ht : lastX (xWrites (isUpper c.g.core) ws) = (Effect.ofWrites ws pc).twin := by funext k j; exact lastX_xWrites _ ws k j
    rw [ht] at hd
    refine ⟨w', ?_, hd⟩
    rw [e]
    split
    · rename_i hn
      rw [e0 hn]
      exact at? w hw
    · exact twinWindow?_putTwin (at? w hw) hd.rest
  have wins : ((writeTwin c.s c ws).twins.filter fun w => !(w.launch == c.g.launch && w.lower == pairOf c.g.core && w.slot == c.g.slot)) =
      c.s.twins.filter fun w => !(w.launch == c.g.launch && w.lower == pairOf c.g.core && w.slot == c.g.slot) := by
    cases hw : c.twin? with
    | none => rw [noW hw]
    | some w =>
      obtain ⟨w', e, _, hd⟩ := writeTwin_done (s := c.s) (ws := ws) hw
      rw [e]
      split
      · rfl
      · refine twins_putTwin ?_
        obtain ⟨a, b, d⟩ := twinWindow?_spec (at? w hw)
        have hx := hd.rest
        rw [← hx] at a b d
        exact ⟨a, b, d⟩
  unfold Ctx.retire
  simp only []
  generalize hT : writeTwin c.s c ws = T at *
  generalize hI : issued c.g c.s.cur (i.holdA.map fun f => perStrand fun k => c.held i f k) (i.holdB.map fun f => perStrand fun k => c.held i f k)
    res ws pc jump = g'
  have keys : g'.uid = c.g.uid ∧ g'.core = c.g.core ∧ g'.slot = c.g.slot := by rw [← hI]; exact ⟨rfl, rfl, rfl⟩
  have ck := commitChain_keys g' c.sl
  have done : UnitDone c (Effect.ofWrites ws pc) (commitChain g' c.sl).1 (commitChain g' c.sl).2 := by rw [← hI]; exact issued_done
  have hTu : T.unit? c.g.uid = some g0 := by rw [tw]; exact hg0
  have hTs : T.slot? c.g.core c.g.slot = some c.sl := by rw [tw]; exact hslot
  split
  · have hp : (T.putUnit g').unit? g'.uid = some g' := unit?_putUnit (by rw [keys.1]; exact hTu)
    constructor
    · refine ⟨_, _, ?_, done⟩
      rw [← keys.1]
      exact settled_eq hp (by rw [keys.2.1, keys.2.2]; exact hTs)
    · rw [← keys.1, units_putUnit, tw]
    · rw [tw]; rfl
    · exact noW
    · exact win
    · exact wins
    · intro a; rw [tw]; rfl
    · intro a; rw [tw]; rfl
    · rw [tw]; rfl
  · unfold endChain
    have hp : (T.putUnit (commitChain g' c.sl).1).unit? (commitChain g' c.sl).1.uid = some (commitChain g' c.sl).1 :=
      unit?_putUnit (by rw [ck.1, keys.1]; exact hTu)
    have hq : ((T.putUnit (commitChain g' c.sl).1).putSlot (commitChain g' c.sl).2).slot? (commitChain g' c.sl).2.core (commitChain g' c.sl).2.slot =
        some (commitChain g' c.sl).2 :=
      slot?_putSlot (x := c.sl) (by rw [ck.2.2.2.1, ck.2.2.2.2, hsl.1, hsl.2]; exact hTs)
    constructor
    · refine ⟨_, _, ?_, done⟩
      rw [← keys.1, ← ck.1]
      refine (settled_eq (t := (T.putUnit (commitChain g' c.sl).1).putSlot (commitChain g' c.sl).2) (g := (commitChain g' c.sl).1)
        (sl := (commitChain g' c.sl).2) hp ?_).trans (congrArg some commitChain_idem)
      rw [ck.2.2.2.1, ck.2.2.2.2, hsl.1, hsl.2, ← keys.2.1, ← keys.2.2, ← ck.2.1, ← ck.2.2.1] at hq
      exact hq
    · have := units_putUnit T (commitChain g' c.sl).1
      rw [ck.1, keys.1] at this
      exact this.trans (by rw [tw])
    · have := slots_putSlot (T.putUnit (commitChain g' c.sl).1) (commitChain g' c.sl).2
      rw [ck.2.2.2.1, ck.2.2.2.2, hsl.1, hsl.2] at this
      exact this.trans (by rw [tw]; rfl)
    · exact noW
    · exact win
    · exact wins
    · intro a; rw [tw]; rfl
    · intro a; rw [tw]; rfl
    · rw [tw]; rfl

/-! ## The shapes of results -/

theorem Done.congr {c : Ctx} {t : State} {e e' : Effect} (h : Done c t e) (hv : ∀ k j, j < 32 → e.vec k j = e'.vec k j)
    (hs : ∀ k, e.scal k = e'.scal k) (ht : ∀ k j, j < 32 → e.twin k j = e'.twin k j) (hp : ∀ k j, 1 ≤ k → e.pred k j = e'.pred k j)
    (hpc : e.pc = e'.pc) : Done c t e' := by
  obtain ⟨⟨g, sl, hset, u⟩, h1, h2, h3, h4, h5, h6, h7, h8⟩ := h
  refine ⟨⟨g, sl, hset, ⟨u.unit, by rw [u.pc, hpc], u.visitor, fun k j hk => by rw [u.pred k j hk, hp k j hk], u.slot,
    fun k j hj => by rw [u.vec k j hj, hv k j hj], fun k => by rw [u.scal k, hs k]⟩⟩, h1, h2, h3, fun w hw => ?_, h5, h6, h7, h8⟩
  obtain ⟨w', a, d⟩ := h4 w hw
  exact ⟨w', a, d.rest, fun k j hj => by rw [← ht k j hj]; exact d.own k j hj, fun k j hj => by rw [← ht k j hj]; exact d.twin k j hj,
    fun k j hj => by rw [← ht k j hj]; exact d.next k j hj⟩

theorem testBit_natOfBits (l : List Bool) (k : Nat) : (natOfBits l).testBit k = l.getD k false := by
  induction l generalizing k with
  | nil => simp [natOfBits]
  | cons b t ih =>
    cases k with
    | zero => cases b <;> simp [natOfBits, bitNat, Nat.testBit_zero]
    | succ k =>
      rw [Nat.testBit_succ]
      have : (natOfBits (b :: t)) / 2 = natOfBits t := by cases b <;> simp [natOfBits, bitNat] <;> omega
      rw [this, ih]
      simp

theorem inMask_maskOf (p : Nat → Bool) {j : Nat} (h : j < 32) : inMask (maskOf p) j = p j := by
  rw [inMask, maskOf, BitVec.getLsbD_ofNat, testBit_natOfBits]
  simp [h]

theorem inMask_lt {m : Word} {j : Nat} (h : inMask m j = true) : j < 32 := by
  apply Nat.lt_of_not_le
  intro hj
  simp [inMask, BitVec.getLsbD_of_ge _ _ hj] at h

theorem dst_writes (c : Ctx) (d cls : Nat) (f : Nat → Word) :
    (∀ k j, j < 32 → lastWrite (c.dst d cls (perStrand f)) (.vec k) j = (Effect.dst c d f).vec k j) ∧
    (∀ k, lastScalar (c.dst d cls (perStrand f)) k = (Effect.dst c d f).scal k) ∧
    (∀ k j, j < 32 → lastWrite (c.dst d cls (perStrand f)) (.twin k) j = (Effect.dst c d f).twin k j) ∧
    (∀ k j, lastPred (c.dst d cls (perStrand f)) k j = none) := by
  unfold Ctx.dst Effect.dst
  by_cases h1 : d < 112
  · have h2 : ¬120 ≤ d := by omega
    cases hu : c.uni <;>
      simp +contextual [h1, h2, lastWrite, lastScalar, lastPred, laneAt_perStrand, eq_comm (a := c.g.vwb + d), eq_comm (a := c.g.swb + d),
        show ∀ x : Word, laneAt [x] 0 = x from fun _ => rfl]
  · by_cases h2 : 120 ≤ d <;>
      simp +contextual [h1, h2, lastWrite, lastScalar, lastPred, laneAt_perStrand, eq_comm (a := d - 120)]

/-- An operation with a register result (R76, R144, R157). -/
theorem regOp_done {c : Ctx} (h : Seen c) (i : Instr) (d : Nat) (f : Nat → Word) :
    Done c (c.regOp i d f) (Effect.dst c d f) := by
  obtain ⟨h1, h2, h3, h4⟩ := dst_writes c d i.cls f
  exact (retire_done h i _ _ _ false).congr h1 h2 h3 (fun k j _ => h4 k j) rfl

theorem pdst_writes (c : Ctx) (p cls : Nat) (f : Nat → Bool) (k j : Nat) :
    lastPred (c.pdst p cls c.g.mask (maskOf f)) k j = (Effect.pdst c p f).pred k j := by
  unfold Ctx.pdst Effect.pdst
  by_cases hp : p = 0
  · simp [hp, lastPred]
  · simp only [hp, if_false, lastPred, List.foldl_cons, List.foldl_nil, Reg.pred.injEq, ne_eq, not_false_eq_true, true_and, eq_comm (a := p)]
    split
    · rename_i h
      simp [laneAt, inMask_maskOf _ (inMask_lt h.2)]
    · rfl

/-- An operation with a predicate result (R64, R144, R157). -/
theorem predOp_done {c : Ctx} (h : Seen c) (i : Instr) (p : Nat) (f : Nat → Bool) :
    Done c (c.predOp i p f) (Effect.pdst c p f) := by
  refine (retire_done h i _ _ _ false).congr (fun k j _ => ?_) (fun k => ?_) (fun k j _ => ?_) (fun k j _ => pdst_writes ..) rfl
  all_goals
    simp only [Effect.ofWrites, Ctx.pdst]
    split <;> simp [lastWrite, lastScalar, Effect.pdst, Effect.only]

/-- An instruction that only takes its issue. -/
theorem pass_done {c : Ctx} (h : Seen c) (i : Instr) : Done c (c.pass i) (Effect.only (nextPc c.g.pc)) :=
  (retire_done h i none [] _ false).congr (fun _ _ _ => rfl) (fun _ => rfl) (fun _ _ _ => rfl) (fun _ _ _ => rfl) rfl

end Sys2Proof.Machine
end

