-- ==== Sys2Proof/Laws/PerInstr.lean ====
section
/-! SUPPORT. Per-instruction statements (LAWS.json). The family `Encodes`: the word of an instruction decodes to that instruction,
with every operand (R86 to R90); one lemma per constructor. The `cut_…` lemmas read the fields of a word put together from fields
of the widths that the name lists. -/

namespace Sys2Proof.Laws
set_option Elab.async false

theorem at_lo {v w : Nat} {x : BitVec v} {y : BitVec w} : (x ++ y).extractLsb' 0 w = y :=
  (BitVec.extractLsb'_append_eq_of_add_le (by omega)).trans BitVec.extractLsb'_eq_self

theorem at_hi {v w n s t : Nat} {x : BitVec v} {y : BitVec w} {z : BitVec n} (h : x.extractLsb' s n = z) (e : t = w + s) :
    (x ++ y).extractLsb' t n = z := by
  subst e
  rw [BitVec.extractLsb'_append_eq_of_le (by omega), Nat.add_sub_cancel_left]
  exact h

theorem low_part {w : Word} {k : BitVec 25} (h : w.extractLsb' 0 25 = k) : w.extractLsb' 0 18 = k.extractLsb' 0 18 := by
  subst h
  simp [BitVec.extractLsb'_extractLsb'_of_le]

theorem at_top {w : Nat} {x : BitVec w} : x.extractLsb' 0 w = x := BitVec.extractLsb'_eq_self

theorem cut_7_25 {w : Word} {x0 : BitVec 7} {x1 : BitVec 25} (h : w = x0 ++ x1) :
    w.extractLsb' 25 7 = x0 ∧ w.extractLsb' 0 25 = x1 :=
  h ▸ ⟨at_hi at_top rfl, at_lo⟩

theorem cut_7_9_16 {w : Word} {x0 : BitVec 7} {x1 : BitVec 9} {x2 : BitVec 16} (h : w = x0 ++ x1 ++ x2) :
    w.extractLsb' 25 7 = x0 ∧ w.extractLsb' 16 9 = x1 ∧ w.extractLsb' 0 16 = x2 :=
  h ▸ ⟨at_hi (at_hi at_top rfl) rfl, at_hi at_lo rfl, at_lo⟩

theorem cut_7_3_1_5_16 {w : Word} {x0 : BitVec 7} {x1 : BitVec 3} {x2 : BitVec 1} {x3 : BitVec 5} {x4 : BitVec 16} (h : w = x0 ++ x1 ++ x2 ++ x3 ++ x4) :
    w.extractLsb' 25 7 = x0 ∧ w.extractLsb' 22 3 = x1 ∧ w.extractLsb' 21 1 = x2 ∧ w.extractLsb' 16 5 = x3 ∧ w.extractLsb' 0 16 = x4 :=
  h ▸ ⟨at_hi (at_hi (at_hi (at_hi at_top rfl) rfl) rfl) rfl, at_hi (at_hi (at_hi at_lo rfl) rfl) rfl, at_hi (at_hi at_lo rfl) rfl, at_hi at_lo rfl, at_lo⟩

theorem cut_7_3_6_16 {w : Word} {x0 : BitVec 7} {x1 : BitVec 3} {x2 : BitVec 6} {x3 : BitVec 16} (h : w = x0 ++ x1 ++ x2 ++ x3) :
    w.extractLsb' 25 7 = x0 ∧ w.extractLsb' 22 3 = x1 ∧ w.extractLsb' 16 6 = x2 ∧ w.extractLsb' 0 16 = x3 :=
  h ▸ ⟨at_hi (at_hi (at_hi at_top rfl) rfl) rfl, at_hi (at_hi at_lo rfl) rfl, at_hi at_lo rfl, at_lo⟩

theorem cut_7_7_7_11 {w : Word} {x0 : BitVec 7} {x1 : BitVec 7} {x2 : BitVec 7} {x3 : BitVec 11} (h : w = x0 ++ x1 ++ x2 ++ x3) :
    w.extractLsb' 25 7 = x0 ∧ w.extractLsb' 18 7 = x1 ∧ w.extractLsb' 11 7 = x2 ∧ w.extractLsb' 0 11 = x3 :=
  h ▸ ⟨at_hi (at_hi (at_hi at_top rfl) rfl) rfl, at_hi (at_hi at_lo rfl) rfl, at_hi at_lo rfl, at_lo⟩

theorem cut_7_7_7_7_4 {w : Word} {x0 : BitVec 7} {x1 : BitVec 7} {x2 : BitVec 7} {x3 : BitVec 7} {x4 : BitVec 4} (h : w = x0 ++ x1 ++ x2 ++ x3 ++ x4) :
    w.extractLsb' 25 7 = x0 ∧ w.extractLsb' 18 7 = x1 ∧ w.extractLsb' 11 7 = x2 ∧ w.extractLsb' 4 7 = x3 ∧ w.extractLsb' 0 4 = x4 :=
  h ▸ ⟨at_hi (at_hi (at_hi (at_hi at_top rfl) rfl) rfl) rfl, at_hi (at_hi (at_hi at_lo rfl) rfl) rfl, at_hi (at_hi at_lo rfl) rfl, at_hi at_lo rfl, at_lo⟩

theorem cut_7_1_24 {w : Word} {x0 : BitVec 7} {x1 : BitVec 1} {x2 : BitVec 24} (h : w = x0 ++ x1 ++ x2) :
    w.extractLsb' 25 7 = x0 ∧ w.extractLsb' 24 1 = x1 ∧ w.extractLsb' 0 24 = x2 :=
  h ▸ ⟨at_hi (at_hi at_top rfl) rfl, at_hi at_lo rfl, at_lo⟩

theorem cut_7_21_1_3 {w : Word} {x0 : BitVec 7} {x1 : BitVec 21} {x2 : BitVec 1} {x3 : BitVec 3} (h : w = x0 ++ x1 ++ x2 ++ x3) :
    w.extractLsb' 25 7 = x0 ∧ w.extractLsb' 4 21 = x1 ∧ w.extractLsb' 3 1 = x2 ∧ w.extractLsb' 0 3 = x3 :=
  h ▸ ⟨at_hi (at_hi (at_hi at_top rfl) rfl) rfl, at_hi (at_hi at_lo rfl) rfl, at_hi at_lo rfl, at_lo⟩

theorem cut_7_14_11 {w : Word} {x0 : BitVec 7} {x1 : BitVec 14} {x2 : BitVec 11} (h : w = x0 ++ x1 ++ x2) :
    w.extractLsb' 25 7 = x0 ∧ w.extractLsb' 11 14 = x1 ∧ w.extractLsb' 0 11 = x2 :=
  h ▸ ⟨at_hi (at_hi at_top rfl) rfl, at_hi at_lo rfl, at_lo⟩

theorem cut_7_4_5_16 {w : Word} {x0 : BitVec 7} {x1 : BitVec 4} {x2 : BitVec 5} {x3 : BitVec 16} (h : w = x0 ++ x1 ++ x2 ++ x3) :
    w.extractLsb' 25 7 = x0 ∧ w.extractLsb' 21 4 = x1 ∧ w.extractLsb' 16 5 = x2 ∧ w.extractLsb' 0 16 = x3 :=
  h ▸ ⟨at_hi (at_hi (at_hi at_top rfl) rfl) rfl, at_hi (at_hi at_lo rfl) rfl, at_hi at_lo rfl, at_lo⟩

theorem cut_7_13_1_11 {w : Word} {x0 : BitVec 7} {x1 : BitVec 13} {x2 : BitVec 1} {x3 : BitVec 11} (h : w = x0 ++ x1 ++ x2 ++ x3) :
    w.extractLsb' 25 7 = x0 ∧ w.extractLsb' 12 13 = x1 ∧ w.extractLsb' 11 1 = x2 ∧ w.extractLsb' 0 11 = x3 :=
  h ▸ ⟨at_hi (at_hi (at_hi at_top rfl) rfl) rfl, at_hi (at_hi at_lo rfl) rfl, at_hi at_lo rfl, at_lo⟩

theorem cut_7_7_6_6_5_1 {w : Word} {x0 : BitVec 7} {x1 : BitVec 7} {x2 : BitVec 6} {x3 : BitVec 6} {x4 : BitVec 5} {x5 : BitVec 1} (h : w = x0 ++ x1 ++ x2 ++ x3 ++ x4 ++ x5) :
    w.extractLsb' 25 7 = x0 ∧ w.extractLsb' 18 7 = x1 ∧ w.extractLsb' 12 6 = x2 ∧ w.extractLsb' 6 6 = x3 ∧ w.extractLsb' 1 5 = x4 ∧ w.extractLsb' 0 1 = x5 :=
  h ▸ ⟨at_hi (at_hi (at_hi (at_hi (at_hi at_top rfl) rfl) rfl) rfl) rfl, at_hi (at_hi (at_hi (at_hi at_lo rfl) rfl) rfl) rfl, at_hi (at_hi (at_hi at_lo rfl) rfl) rfl, at_hi (at_hi at_lo rfl) rfl, at_hi at_lo rfl, at_lo⟩

theorem cut_7_4_3_7_7_4 {w : Word} {x0 : BitVec 7} {x1 : BitVec 4} {x2 : BitVec 3} {x3 : BitVec 7} {x4 : BitVec 7} {x5 : BitVec 4} (h : w = x0 ++ x1 ++ x2 ++ x3 ++ x4 ++ x5) :
    w.extractLsb' 25 7 = x0 ∧ w.extractLsb' 21 4 = x1 ∧ w.extractLsb' 18 3 = x2 ∧ w.extractLsb' 11 7 = x3 ∧ w.extractLsb' 4 7 = x4 ∧ w.extractLsb' 0 4 = x5 :=
  h ▸ ⟨at_hi (at_hi (at_hi (at_hi (at_hi at_top rfl) rfl) rfl) rfl) rfl, at_hi (at_hi (at_hi (at_hi at_lo rfl) rfl) rfl) rfl, at_hi (at_hi (at_hi at_lo rfl) rfl) rfl, at_hi (at_hi at_lo rfl) rfl, at_hi at_lo rfl, at_lo⟩

theorem cut_7_7_7_7_1_3 {w : Word} {x0 : BitVec 7} {x1 : BitVec 7} {x2 : BitVec 7} {x3 : BitVec 7} {x4 : BitVec 1} {x5 : BitVec 3} (h : w = x0 ++ x1 ++ x2 ++ x3 ++ x4 ++ x5) :
    w.extractLsb' 25 7 = x0 ∧ w.extractLsb' 18 7 = x1 ∧ w.extractLsb' 11 7 = x2 ∧ w.extractLsb' 4 7 = x3 ∧ w.extractLsb' 3 1 = x4 ∧ w.extractLsb' 0 3 = x5 :=
  h ▸ ⟨at_hi (at_hi (at_hi (at_hi (at_hi at_top rfl) rfl) rfl) rfl) rfl, at_hi (at_hi (at_hi (at_hi at_lo rfl) rfl) rfl) rfl, at_hi (at_hi (at_hi at_lo rfl) rfl) rfl, at_hi (at_hi at_lo rfl) rfl, at_hi at_lo rfl, at_lo⟩

theorem cut_7_7_7_4_2_5 {w : Word} {x0 : BitVec 7} {x1 : BitVec 7} {x2 : BitVec 7} {x3 : BitVec 4} {x4 : BitVec 2} {x5 : BitVec 5} (h : w = x0 ++ x1 ++ x2 ++ x3 ++ x4 ++ x5) :
    w.extractLsb' 25 7 = x0 ∧ w.extractLsb' 18 7 = x1 ∧ w.extractLsb' 11 7 = x2 ∧ w.extractLsb' 7 4 = x3 ∧ w.extractLsb' 5 2 = x4 ∧ w.extractLsb' 0 5 = x5 :=
  h ▸ ⟨at_hi (at_hi (at_hi (at_hi (at_hi at_top rfl) rfl) rfl) rfl) rfl, at_hi (at_hi (at_hi (at_hi at_lo rfl) rfl) rfl) rfl, at_hi (at_hi (at_hi at_lo rfl) rfl) rfl, at_hi (at_hi at_lo rfl) rfl, at_hi at_lo rfl, at_lo⟩

theorem cut_7_7_18 {w : Word} {x0 : BitVec 7} {x1 : BitVec 7} {x2 : BitVec 18} (h : w = x0 ++ x1 ++ x2) :
    w.extractLsb' 25 7 = x0 ∧ w.extractLsb' 18 7 = x1 ∧ w.extractLsb' 0 18 = x2 :=
  h ▸ ⟨at_hi (at_hi at_top rfl) rfl, at_hi at_lo rfl, at_lo⟩

theorem cut_7_4_3_7_3_8 {w : Word} {x0 : BitVec 7} {x1 : BitVec 4} {x2 : BitVec 3} {x3 : BitVec 7} {x4 : BitVec 3} {x5 : BitVec 8} (h : w = x0 ++ x1 ++ x2 ++ x3 ++ x4 ++ x5) :
    w.extractLsb' 25 7 = x0 ∧ w.extractLsb' 21 4 = x1 ∧ w.extractLsb' 18 3 = x2 ∧ w.extractLsb' 11 7 = x3 ∧ w.extractLsb' 8 3 = x4 ∧ w.extractLsb' 0 8 = x5 :=
  h ▸ ⟨at_hi (at_hi (at_hi (at_hi (at_hi at_top rfl) rfl) rfl) rfl) rfl, at_hi (at_hi (at_hi (at_hi at_lo rfl) rfl) rfl) rfl, at_hi (at_hi (at_hi at_lo rfl) rfl) rfl, at_hi (at_hi at_lo rfl) rfl, at_hi at_lo rfl, at_lo⟩

theorem cut_7_7_7_5_1_1_4 {w : Word} {x0 : BitVec 7} {x1 : BitVec 7} {x2 : BitVec 7} {x3 : BitVec 5} {x4 : BitVec 1} {x5 : BitVec 1} {x6 : BitVec 4} (h : w = x0 ++ x1 ++ x2 ++ x3 ++ x4 ++ x5 ++ x6) :
    w.extractLsb' 25 7 = x0 ∧ w.extractLsb' 18 7 = x1 ∧ w.extractLsb' 11 7 = x2 ∧ w.extractLsb' 6 5 = x3 ∧ w.extractLsb' 5 1 = x4 ∧ w.extractLsb' 4 1 = x5 ∧ w.extractLsb' 0 4 = x6 :=
  h ▸ ⟨at_hi (at_hi (at_hi (at_hi (at_hi (at_hi at_top rfl) rfl) rfl) rfl) rfl) rfl, at_hi (at_hi (at_hi (at_hi (at_hi at_lo rfl) rfl) rfl) rfl) rfl, at_hi (at_hi (at_hi (at_hi at_lo rfl) rfl) rfl) rfl, at_hi (at_hi (at_hi at_lo rfl) rfl) rfl, at_hi (at_hi at_lo rfl) rfl, at_hi at_lo rfl, at_lo⟩

theorem cut_7_4_3_4_3_4_3_4 {w : Word} {x0 : BitVec 7} {x1 : BitVec 4} {x2 : BitVec 3} {x3 : BitVec 4} {x4 : BitVec 3} {x5 : BitVec 4} {x6 : BitVec 3} {x7 : BitVec 4} (h : w = x0 ++ x1 ++ x2 ++ x3 ++ x4 ++ x5 ++ x6 ++ x7) :
    w.extractLsb' 25 7 = x0 ∧ w.extractLsb' 21 4 = x1 ∧ w.extractLsb' 18 3 = x2 ∧ w.extractLsb' 14 4 = x3 ∧ w.extractLsb' 11 3 = x4 ∧ w.extractLsb' 7 4 = x5 ∧ w.extractLsb' 4 3 = x6 ∧ w.extractLsb' 0 4 = x7 :=
  h ▸ ⟨at_hi (at_hi (at_hi (at_hi (at_hi (at_hi (at_hi at_top rfl) rfl) rfl) rfl) rfl) rfl) rfl, at_hi (at_hi (at_hi (at_hi (at_hi (at_hi at_lo rfl) rfl) rfl) rfl) rfl) rfl, at_hi (at_hi (at_hi (at_hi (at_hi at_lo rfl) rfl) rfl) rfl) rfl, at_hi (at_hi (at_hi (at_hi at_lo rfl) rfl) rfl) rfl, at_hi (at_hi (at_hi at_lo rfl) rfl) rfl, at_hi (at_hi at_lo rfl) rfl, at_hi at_lo rfl, at_lo⟩

theorem cut_7_4_3_14_4 {w : Word} {x0 : BitVec 7} {x1 : BitVec 4} {x2 : BitVec 3} {x3 : BitVec 14} {x4 : BitVec 4} (h : w = x0 ++ x1 ++ x2 ++ x3 ++ x4) :
    w.extractLsb' 25 7 = x0 ∧ w.extractLsb' 21 4 = x1 ∧ w.extractLsb' 18 3 = x2 ∧ w.extractLsb' 4 14 = x3 ∧ w.extractLsb' 0 4 = x4 :=
  h ▸ ⟨at_hi (at_hi (at_hi (at_hi at_top rfl) rfl) rfl) rfl, at_hi (at_hi (at_hi at_lo rfl) rfl) rfl, at_hi (at_hi at_lo rfl) rfl, at_hi at_lo rfl, at_lo⟩

theorem cut_7_7_7_3_4_4 {w : Word} {x0 : BitVec 7} {x1 : BitVec 7} {x2 : BitVec 7} {x3 : BitVec 3} {x4 : BitVec 4} {x5 : BitVec 4} (h : w = x0 ++ x1 ++ x2 ++ x3 ++ x4 ++ x5) :
    w.extractLsb' 25 7 = x0 ∧ w.extractLsb' 18 7 = x1 ∧ w.extractLsb' 11 7 = x2 ∧ w.extractLsb' 8 3 = x3 ∧ w.extractLsb' 4 4 = x4 ∧ w.extractLsb' 0 4 = x5 :=
  h ▸ ⟨at_hi (at_hi (at_hi (at_hi (at_hi at_top rfl) rfl) rfl) rfl) rfl, at_hi (at_hi (at_hi (at_hi at_lo rfl) rfl) rfl) rfl, at_hi (at_hi (at_hi at_lo rfl) rfl) rfl, at_hi (at_hi at_lo rfl) rfl, at_hi at_lo rfl, at_lo⟩

theorem cut_7_7_7_3_4_1_3 {w : Word} {x0 : BitVec 7} {x1 : BitVec 7} {x2 : BitVec 7} {x3 : BitVec 3} {x4 : BitVec 4} {x5 : BitVec 1} {x6 : BitVec 3} (h : w = x0 ++ x1 ++ x2 ++ x3 ++ x4 ++ x5 ++ x6) :
    w.extractLsb' 25 7 = x0 ∧ w.extractLsb' 18 7 = x1 ∧ w.extractLsb' 11 7 = x2 ∧ w.extractLsb' 8 3 = x3 ∧ w.extractLsb' 4 4 = x4 ∧ w.extractLsb' 3 1 = x5 ∧ w.extractLsb' 0 3 = x6 :=
  h ▸ ⟨at_hi (at_hi (at_hi (at_hi (at_hi (at_hi at_top rfl) rfl) rfl) rfl) rfl) rfl, at_hi (at_hi (at_hi (at_hi (at_hi at_lo rfl) rfl) rfl) rfl) rfl, at_hi (at_hi (at_hi (at_hi at_lo rfl) rfl) rfl) rfl, at_hi (at_hi (at_hi at_lo rfl) rfl) rfl, at_hi (at_hi at_lo rfl) rfl, at_hi at_lo rfl, at_lo⟩

theorem cut_7_7_7_5_3_2_1 {w : Word} {x0 : BitVec 7} {x1 : BitVec 7} {x2 : BitVec 7} {x3 : BitVec 5} {x4 : BitVec 3} {x5 : BitVec 2} {x6 : BitVec 1} (h : w = x0 ++ x1 ++ x2 ++ x3 ++ x4 ++ x5 ++ x6) :
    w.extractLsb' 25 7 = x0 ∧ w.extractLsb' 18 7 = x1 ∧ w.extractLsb' 11 7 = x2 ∧ w.extractLsb' 6 5 = x3 ∧ w.extractLsb' 3 3 = x4 ∧ w.extractLsb' 1 2 = x5 ∧ w.extractLsb' 0 1 = x6 :=
  h ▸ ⟨at_hi (at_hi (at_hi (at_hi (at_hi (at_hi at_top rfl) rfl) rfl) rfl) rfl) rfl, at_hi (at_hi (at_hi (at_hi (at_hi at_lo rfl) rfl) rfl) rfl) rfl, at_hi (at_hi (at_hi (at_hi at_lo rfl) rfl) rfl) rfl, at_hi (at_hi (at_hi at_lo rfl) rfl) rfl, at_hi (at_hi at_lo rfl) rfl, at_hi at_lo rfl, at_lo⟩

theorem cut_7_9_5_11 {w : Word} {x0 : BitVec 7} {x1 : BitVec 9} {x2 : BitVec 5} {x3 : BitVec 11} (h : w = x0 ++ x1 ++ x2 ++ x3) :
    w.extractLsb' 25 7 = x0 ∧ w.extractLsb' 16 9 = x1 ∧ w.extractLsb' 11 5 = x2 ∧ w.extractLsb' 0 11 = x3 :=
  h ▸ ⟨at_hi (at_hi (at_hi at_top rfl) rfl) rfl, at_hi (at_hi at_lo rfl) rfl, at_hi at_lo rfl, at_lo⟩

theorem cut_7_4_3_2_5_7_1_1_2 {w : Word} {x0 : BitVec 7} {x1 : BitVec 4} {x2 : BitVec 3} {x3 : BitVec 2} {x4 : BitVec 5} {x5 : BitVec 7} {x6 : BitVec 1} {x7 : BitVec 1} {x8 : BitVec 2} (h : w = x0 ++ x1 ++ x2 ++ x3 ++ x4 ++ x5 ++ x6 ++ x7 ++ x8) :
    w.extractLsb' 25 7 = x0 ∧ w.extractLsb' 21 4 = x1 ∧ w.extractLsb' 18 3 = x2 ∧ w.extractLsb' 16 2 = x3 ∧ w.extractLsb' 11 5 = x4 ∧ w.extractLsb' 4 7 = x5 ∧ w.extractLsb' 3 1 = x6 ∧ w.extractLsb' 2 1 = x7 ∧ w.extractLsb' 0 2 = x8 :=
  h ▸ ⟨at_hi (at_hi (at_hi (at_hi (at_hi (at_hi (at_hi (at_hi at_top rfl) rfl) rfl) rfl) rfl) rfl) rfl) rfl, at_hi (at_hi (at_hi (at_hi (at_hi (at_hi (at_hi at_lo rfl) rfl) rfl) rfl) rfl) rfl) rfl, at_hi (at_hi (at_hi (at_hi (at_hi (at_hi at_lo rfl) rfl) rfl) rfl) rfl) rfl, at_hi (at_hi (at_hi (at_hi (at_hi at_lo rfl) rfl) rfl) rfl) rfl, at_hi (at_hi (at_hi (at_hi at_lo rfl) rfl) rfl) rfl, at_hi (at_hi (at_hi at_lo rfl) rfl) rfl, at_hi (at_hi at_lo rfl) rfl, at_hi at_lo rfl, at_lo⟩

theorem cut_7_11_3_8_1_2 {w : Word} {x0 : BitVec 7} {x1 : BitVec 11} {x2 : BitVec 3} {x3 : BitVec 8} {x4 : BitVec 1} {x5 : BitVec 2} (h : w = x0 ++ x1 ++ x2 ++ x3 ++ x4 ++ x5) :
    w.extractLsb' 25 7 = x0 ∧ w.extractLsb' 14 11 = x1 ∧ w.extractLsb' 11 3 = x2 ∧ w.extractLsb' 3 8 = x3 ∧ w.extractLsb' 2 1 = x4 ∧ w.extractLsb' 0 2 = x5 :=
  h ▸ ⟨at_hi (at_hi (at_hi (at_hi (at_hi at_top rfl) rfl) rfl) rfl) rfl, at_hi (at_hi (at_hi (at_hi at_lo rfl) rfl) rfl) rfl, at_hi (at_hi (at_hi at_lo rfl) rfl) rfl, at_hi (at_hi at_lo rfl) rfl, at_hi at_lo rfl, at_lo⟩

theorem cut_7_2_5_2_5_2_5_4 {w : Word} {x0 : BitVec 7} {x1 : BitVec 2} {x2 : BitVec 5} {x3 : BitVec 2} {x4 : BitVec 5} {x5 : BitVec 2} {x6 : BitVec 5} {x7 : BitVec 4} (h : w = x0 ++ x1 ++ x2 ++ x3 ++ x4 ++ x5 ++ x6 ++ x7) :
    w.extractLsb' 25 7 = x0 ∧ w.extractLsb' 23 2 = x1 ∧ w.extractLsb' 18 5 = x2 ∧ w.extractLsb' 16 2 = x3 ∧ w.extractLsb' 11 5 = x4 ∧ w.extractLsb' 9 2 = x5 ∧ w.extractLsb' 4 5 = x6 ∧ w.extractLsb' 0 4 = x7 :=
  h ▸ ⟨at_hi (at_hi (at_hi (at_hi (at_hi (at_hi (at_hi at_top rfl) rfl) rfl) rfl) rfl) rfl) rfl, at_hi (at_hi (at_hi (at_hi (at_hi (at_hi at_lo rfl) rfl) rfl) rfl) rfl) rfl, at_hi (at_hi (at_hi (at_hi (at_hi at_lo rfl) rfl) rfl) rfl) rfl, at_hi (at_hi (at_hi (at_hi at_lo rfl) rfl) rfl) rfl, at_hi (at_hi (at_hi at_lo rfl) rfl) rfl, at_hi (at_hi at_lo rfl) rfl, at_hi at_lo rfl, at_lo⟩

theorem cut_7_7_14_4 {w : Word} {x0 : BitVec 7} {x1 : BitVec 7} {x2 : BitVec 14} {x3 : BitVec 4} (h : w = x0 ++ x1 ++ x2 ++ x3) :
    w.extractLsb' 25 7 = x0 ∧ w.extractLsb' 18 7 = x1 ∧ w.extractLsb' 4 14 = x2 ∧ w.extractLsb' 0 4 = x3 :=
  h ▸ ⟨at_hi (at_hi (at_hi at_top rfl) rfl) rfl, at_hi (at_hi at_lo rfl) rfl, at_hi at_lo rfl, at_lo⟩

theorem cut_7_4_3_18 {w : Word} {x0 : BitVec 7} {x1 : BitVec 4} {x2 : BitVec 3} {x3 : BitVec 18} (h : w = x0 ++ x1 ++ x2 ++ x3) :
    w.extractLsb' 25 7 = x0 ∧ w.extractLsb' 21 4 = x1 ∧ w.extractLsb' 18 3 = x2 ∧ w.extractLsb' 0 18 = x3 :=
  h ▸ ⟨at_hi (at_hi (at_hi at_top rfl) rfl) rfl, at_hi (at_hi at_lo rfl) rfl, at_hi at_lo rfl, at_lo⟩

/-- The word of `i`, if it has one, decodes to `i`. -/
def Encodes.Statement (i : Instr) : Prop := ∀ w, encode i = some w → decodeWord w = .ok i

theorem Encodes.nop : Encodes.Statement (.nop) := by
  intro w h
  obtain ⟨h0, h1⟩ := cut_7_25 (Option.some.inj h).symm
  clear h
  unfold decodeWord
  rw [h0]
  exact if_pos h1

theorem Encodes.bra (o : BitVec 16) : Encodes.Statement (.bra o) := by
  intro w h
  obtain ⟨h0, h1, h2⟩ := cut_7_9_16 (Option.some.inj h).symm
  clear h
  subst h2
  unfold decodeWord
  rw [h0]
  exact if_pos h1

theorem Encodes.brc (p : BitVec 3) (s : BitVec 1) (b : BitVec 5) (o : BitVec 16) : Encodes.Statement (.brc p s b o) := by
  intro w h
  obtain ⟨h0, h1, h2, h3, h4⟩ := cut_7_3_1_5_16 (Option.some.inj h).symm
  clear h
  subst h1 h2 h3 h4
  unfold decodeWord
  rw [h0]
  exact rfl

theorem Encodes.call (l : BitVec 3) (o : BitVec 16) : Encodes.Statement (.call l o) := by
  intro w h
  obtain ⟨h0, h1, h2, h3⟩ := cut_7_3_6_16 (Option.some.inj h).symm
  clear h
  subst h1 h3
  unfold decodeWord
  rw [h0]
  exact if_pos h2

theorem Encodes.ret (a : BitVec 7) : Encodes.Statement (.ret a) := by
  intro w h
  obtain ⟨h0, h1, h2, h3⟩ := cut_7_7_7_11 (Option.some.inj h).symm
  clear h
  subst h2
  unfold decodeWord
  rw [h0]
  exact if_pos ⟨h1, h3⟩

theorem Encodes.jtab (a : BitVec 7) (b : BitVec 7) : Encodes.Statement (.jtab a b) := by
  intro w h
  obtain ⟨h0, h1, h2, h3, h4⟩ := cut_7_7_7_7_4 (Option.some.inj h).symm
  clear h
  subst h2 h3
  unfold decodeWord
  rw [h0]
  exact if_pos ⟨h1, h4⟩

theorem Encodes.pad (c : BitVec 1) (l : BitVec 24) : Encodes.Statement (.pad c l) := by
  intro w h
  obtain ⟨h0, h1, h2⟩ := cut_7_1_24 (Option.some.inj h).symm
  clear h
  subst h1 h2
  unfold decodeWord
  rw [h0]
  exact rfl

theorem Encodes.exit (s : BitVec 1) (p : BitVec 3) : Encodes.Statement (.exit s p) := by
  intro w h
  obtain ⟨h0, h1, h2, h3⟩ := cut_7_21_1_3 (Option.some.inj h).symm
  clear h
  subst h2 h3
  unfold decodeWord
  rw [h0]
  exact if_pos h1

theorem Encodes.trap (n : BitVec 11) : Encodes.Statement (.trap n) := by
  intro w h
  obtain ⟨h0, h1, h2⟩ := cut_7_14_11 (Option.some.inj h).symm
  clear h
  subst h2
  unfold decodeWord
  rw [h0]
  exact if_pos h1

theorem Encodes.loop (c : BitVec 4) (o : BitVec 16) : Encodes.Statement (.loop c o) := by
  intro w h
  obtain ⟨h0, h1, h2, h3⟩ := cut_7_4_5_16 (Option.some.inj h).symm
  clear h
  subst h1 h3
  unfold decodeWord
  rw [h0]
  exact if_pos h2

theorem Encodes.winb (m : BitVec 1) (k : BitVec 11) : Encodes.Statement (.winb m k) := by
  intro w h
  obtain ⟨h0, h1, h2, h3⟩ := cut_7_13_1_11 (Option.some.inj h).symm
  clear h
  subst h2 h3
  unfold decodeWord
  rw [h0]
  exact if_pos h1

theorem Encodes.swinb (m : BitVec 1) (k : BitVec 11) : Encodes.Statement (.swinb m k) := by
  intro w h
  obtain ⟨h0, h1, h2, h3⟩ := cut_7_13_1_11 (Option.some.inj h).symm
  clear h
  subst h2 h3
  unfold decodeWord
  rw [h0]
  exact if_pos h1

theorem Encodes.live (v : BitVec 7) (c : BitVec 6) (s : BitVec 6) (b : BitVec 5) : Encodes.Statement (.live v c s b) := by
  intro w h
  obtain ⟨h0, h1, h2, h3, h4, h5⟩ := cut_7_7_6_6_5_1 (Option.some.inj h).symm
  clear h
  subst h1 h2 h3 h4
  unfold decodeWord
  rw [h0]
  exact if_pos h5

theorem Encodes.pause (n : BitVec 11) : Encodes.Statement (.pause n) := by
  intro w h
  obtain ⟨h0, h1, h2⟩ := cut_7_14_11 (Option.some.inj h).symm
  clear h
  subst h2
  unfold decodeWord
  rw [h0]
  exact if_pos h1

theorem Encodes.sleep (a : BitVec 7) : Encodes.Statement (.sleep a) := by
  intro w h
  obtain ⟨h0, h1, h2, h3⟩ := cut_7_7_7_11 (Option.some.inj h).symm
  clear h
  subst h2
  unfold decodeWord
  rw [h0]
  exact if_pos ⟨h1, h3⟩

theorem Encodes.iadd (d : BitVec 7) (a : BitVec 7) (b : BitVec 7) (f : BitVec 4) : Encodes.Statement (.iadd d a b f) := by
  intro w h
  obtain ⟨h0, h1, h2, h3, h4⟩ := cut_7_7_7_7_4 (Option.some.inj h).symm
  clear h
  subst h1 h2 h3 h4
  unfold decodeWord
  rw [h0]
  exact rfl

theorem Encodes.isub (d : BitVec 7) (a : BitVec 7) (b : BitVec 7) (f : BitVec 4) : Encodes.Statement (.isub d a b f) := by
  intro w h
  obtain ⟨h0, h1, h2, h3, h4⟩ := cut_7_7_7_7_4 (Option.some.inj h).symm
  clear h
  subst h1 h2 h3 h4
  unfold decodeWord
  rw [h0]
  exact rfl

theorem Encodes.imul (d : BitVec 7) (a : BitVec 7) (b : BitVec 7) (f : BitVec 4) : Encodes.Statement (.imul d a b f) := by
  intro w h
  obtain ⟨h0, h1, h2, h3, h4⟩ := cut_7_7_7_7_4 (Option.some.inj h).symm
  clear h
  subst h1 h2 h3 h4
  unfold decodeWord
  rw [h0]
  exact rfl

theorem Encodes.imad (d : BitVec 7) (a : BitVec 7) (b : BitVec 7) (f : BitVec 4) : Encodes.Statement (.imad d a b f) := by
  intro w h
  obtain ⟨h0, h1, h2, h3, h4⟩ := cut_7_7_7_7_4 (Option.some.inj h).symm
  clear h
  subst h1 h2 h3 h4
  unfold decodeWord
  rw [h0]
  exact rfl

theorem Encodes.imnx (d : BitVec 7) (a : BitVec 7) (b : BitVec 7) (f : BitVec 4) : Encodes.Statement (.imnx d a b f) := by
  intro w h
  obtain ⟨h0, h1, h2, h3, h4⟩ := cut_7_7_7_7_4 (Option.some.inj h).symm
  clear h
  subst h1 h2 h3 h4
  unfold decodeWord
  rw [h0]
  exact rfl

theorem Encodes.isetp (p : BitVec 3) (a : BitVec 7) (b : BitVec 7) (f : BitVec 4) : Encodes.Statement (.isetp p a b f) := by
  intro w h
  obtain ⟨h0, h1, h2, h3, h4, h5⟩ := cut_7_4_3_7_7_4 (Option.some.inj h).symm
  clear h
  subst h2 h3 h4 h5
  unfold decodeWord
  rw [h0]
  exact if_pos h1

theorem Encodes.sel (d : BitVec 7) (a : BitVec 7) (b : BitVec 7) (s : BitVec 1) (p : BitVec 3) : Encodes.Statement (.sel d a b s p) := by
  intro w h
  obtain ⟨h0, h1, h2, h3, h4, h5⟩ := cut_7_7_7_7_1_3 (Option.some.inj h).symm
  clear h
  subst h1 h2 h3 h4 h5
  unfold decodeWord
  rw [h0]
  exact rfl

theorem Encodes.iaddc (d : BitVec 7) (a : BitVec 7) (b : BitVec 7) (s : BitVec 1) (p : BitVec 3) : Encodes.Statement (.iaddc d a b s p) := by
  intro w h
  obtain ⟨h0, h1, h2, h3, h4, h5⟩ := cut_7_7_7_7_1_3 (Option.some.inj h).symm
  clear h
  subst h1 h2 h3 h4 h5
  unfold decodeWord
  rw [h0]
  exact rfl

theorem Encodes.land (d : BitVec 7) (a : BitVec 7) (b : BitVec 7) : Encodes.Statement (.land d a b) := by
  intro w h
  obtain ⟨h0, h1, h2, h3, h4⟩ := cut_7_7_7_7_4 (Option.some.inj h).symm
  clear h
  subst h1 h2 h3
  unfold decodeWord
  rw [h0]
  exact if_pos h4

theorem Encodes.lor (d : BitVec 7) (a : BitVec 7) (b : BitVec 7) : Encodes.Statement (.lor d a b) := by
  intro w h
  obtain ⟨h0, h1, h2, h3, h4⟩ := cut_7_7_7_7_4 (Option.some.inj h).symm
  clear h
  subst h1 h2 h3
  unfold decodeWord
  rw [h0]
  exact if_pos h4

theorem Encodes.lxor (d : BitVec 7) (a : BitVec 7) (b : BitVec 7) : Encodes.Statement (.lxor d a b) := by
  intro w h
  obtain ⟨h0, h1, h2, h3, h4⟩ := cut_7_7_7_7_4 (Option.some.inj h).symm
  clear h
  subst h1 h2 h3
  unfold decodeWord
  rw [h0]
  exact if_pos h4

theorem Encodes.andn (d : BitVec 7) (a : BitVec 7) (b : BitVec 7) : Encodes.Statement (.andn d a b) := by
  intro w h
  obtain ⟨h0, h1, h2, h3, h4⟩ := cut_7_7_7_7_4 (Option.some.inj h).symm
  clear h
  subst h1 h2 h3
  unfold decodeWord
  rw [h0]
  exact if_pos h4

theorem Encodes.shl (d : BitVec 7) (a : BitVec 7) (b : BitVec 7) (f : BitVec 4) : Encodes.Statement (.shl d a b f) := by
  intro w h
  obtain ⟨h0, h1, h2, h3, h4⟩ := cut_7_7_7_7_4 (Option.some.inj h).symm
  clear h
  subst h1 h2 h3 h4
  unfold decodeWord
  rw [h0]
  exact rfl

theorem Encodes.shr (d : BitVec 7) (a : BitVec 7) (b : BitVec 7) (f : BitVec 4) : Encodes.Statement (.shr d a b f) := by
  intro w h
  obtain ⟨h0, h1, h2, h3, h4⟩ := cut_7_7_7_7_4 (Option.some.inj h).symm
  clear h
  subst h1 h2 h3 h4
  unfold decodeWord
  rw [h0]
  exact rfl

theorem Encodes.bfx (d : BitVec 7) (a : BitVec 7) (b : BitVec 7) (f : BitVec 4) : Encodes.Statement (.bfx d a b f) := by
  intro w h
  obtain ⟨h0, h1, h2, h3, h4⟩ := cut_7_7_7_7_4 (Option.some.inj h).symm
  clear h
  subst h1 h2 h3 h4
  unfold decodeWord
  rw [h0]
  exact rfl

theorem Encodes.bitop (d : BitVec 7) (a : BitVec 7) (f : BitVec 4) : Encodes.Statement (.bitop d a f) := by
  intro w h
  obtain ⟨h0, h1, h2, h3, h4⟩ := cut_7_7_7_7_4 (Option.some.inj h).symm
  clear h
  subst h1 h2 h4
  unfold decodeWord
  rw [h0]
  exact if_pos h3

theorem Encodes.iaddi (d : BitVec 7) (a : BitVec 7) (i : BitVec 11) : Encodes.Statement (.iaddi d a i) := by
  intro w h
  obtain ⟨h0, h1, h2, h3⟩ := cut_7_7_7_11 (Option.some.inj h).symm
  clear h
  subst h1 h2 h3
  unfold decodeWord
  rw [h0]
  exact rfl

theorem Encodes.andi (d : BitVec 7) (a : BitVec 7) (i : BitVec 11) : Encodes.Statement (.andi d a i) := by
  intro w h
  obtain ⟨h0, h1, h2, h3⟩ := cut_7_7_7_11 (Option.some.inj h).symm
  clear h
  subst h1 h2 h3
  unfold decodeWord
  rw [h0]
  exact rfl

theorem Encodes.ori (d : BitVec 7) (a : BitVec 7) (i : BitVec 11) : Encodes.Statement (.ori d a i) := by
  intro w h
  obtain ⟨h0, h1, h2, h3⟩ := cut_7_7_7_11 (Option.some.inj h).symm
  clear h
  subst h1 h2 h3
  unfold decodeWord
  rw [h0]
  exact rfl

theorem Encodes.xori (d : BitVec 7) (a : BitVec 7) (i : BitVec 11) : Encodes.Statement (.xori d a i) := by
  intro w h
  obtain ⟨h0, h1, h2, h3⟩ := cut_7_7_7_11 (Option.some.inj h).symm
  clear h
  subst h1 h2 h3
  unfold decodeWord
  rw [h0]
  exact rfl

theorem Encodes.shi (d : BitVec 7) (a : BitVec 7) (k : BitVec 2) (n : BitVec 5) : Encodes.Statement (.shi d a k n) := by
  intro w h
  obtain ⟨h0, h1, h2, h3, h4, h5⟩ := cut_7_7_7_4_2_5 (Option.some.inj h).symm
  clear h
  subst h1 h2 h4 h5
  unfold decodeWord
  rw [h0]
  exact if_pos h3

theorem Encodes.movi (d : BitVec 7) (i : BitVec 18) : Encodes.Statement (.movi d i) := by
  intro w h
  obtain ⟨h0, h1, h2⟩ := cut_7_7_18 (Option.some.inj h).symm
  clear h
  subst h1 h2
  unfold decodeWord
  rw [h0]
  exact rfl

theorem Encodes.movhi (d : BitVec 7) (i : BitVec 18) : Encodes.Statement (.movhi d i) := by
  intro w h
  obtain ⟨h0, h1, h2⟩ := cut_7_7_18 (Option.some.inj h).symm
  clear h
  subst h1 h2
  unfold decodeWord
  rw [h0]
  exact rfl

theorem Encodes.isetpi (p : BitVec 3) (a : BitVec 7) (c : BitVec 3) (i : BitVec 8) : Encodes.Statement (.isetpi p a c i) := by
  intro w h
  obtain ⟨h0, h1, h2, h3, h4, h5⟩ := cut_7_4_3_7_3_8 (Option.some.inj h).symm
  clear h
  subst h2 h3 h4 h5
  unfold decodeWord
  rw [h0]
  exact if_pos h1

theorem Encodes.fadd (d : BitVec 7) (a : BitVec 7) (b : BitVec 7) (f : BitVec 4) : Encodes.Statement (.fadd d a b f) := by
  intro w h
  obtain ⟨h0, h1, h2, h3, h4⟩ := cut_7_7_7_7_4 (Option.some.inj h).symm
  clear h
  subst h1 h2 h3 h4
  unfold decodeWord
  rw [h0]
  exact rfl

theorem Encodes.fmul (d : BitVec 7) (a : BitVec 7) (b : BitVec 7) (f : BitVec 4) : Encodes.Statement (.fmul d a b f) := by
  intro w h
  obtain ⟨h0, h1, h2, h3, h4⟩ := cut_7_7_7_7_4 (Option.some.inj h).symm
  clear h
  subst h1 h2 h3 h4
  unfold decodeWord
  rw [h0]
  exact rfl

theorem Encodes.ffma (d : BitVec 7) (a : BitVec 7) (b : BitVec 7) (f : BitVec 4) : Encodes.Statement (.ffma d a b f) := by
  intro w h
  obtain ⟨h0, h1, h2, h3, h4⟩ := cut_7_7_7_7_4 (Option.some.inj h).symm
  clear h
  subst h1 h2 h3 h4
  unfold decodeWord
  rw [h0]
  exact rfl

theorem Encodes.fmnx (d : BitVec 7) (a : BitVec 7) (b : BitVec 7) (f : BitVec 4) : Encodes.Statement (.fmnx d a b f) := by
  intro w h
  obtain ⟨h0, h1, h2, h3, h4⟩ := cut_7_7_7_7_4 (Option.some.inj h).symm
  clear h
  subst h1 h2 h3 h4
  unfold decodeWord
  rw [h0]
  exact rfl

theorem Encodes.fsetp (p : BitVec 3) (a : BitVec 7) (b : BitVec 7) (f : BitVec 4) : Encodes.Statement (.fsetp p a b f) := by
  intro w h
  obtain ⟨h0, h1, h2, h3, h4, h5⟩ := cut_7_4_3_7_7_4 (Option.some.inj h).symm
  clear h
  subst h2 h3 h4 h5
  unfold decodeWord
  rw [h0]
  exact if_pos h1

theorem Encodes.fsfu (d : BitVec 7) (a : BitVec 7) (f : BitVec 4) : Encodes.Statement (.fsfu d a f) := by
  intro w h
  obtain ⟨h0, h1, h2, h3, h4⟩ := cut_7_7_7_7_4 (Option.some.inj h).symm
  clear h
  subst h1 h2 h4
  unfold decodeWord
  rw [h0]
  exact if_pos h3

theorem Encodes.fcvt (d : BitVec 7) (a : BitVec 7) (g : BitVec 5) (r : BitVec 1) (v : BitVec 1) (f : BitVec 4) : Encodes.Statement (.fcvt d a g r v f) := by
  intro w h
  obtain ⟨h0, h1, h2, h3, h4, h5, h6⟩ := cut_7_7_7_5_1_1_4 (Option.some.inj h).symm
  clear h
  subst h1 h2 h3 h4 h5 h6
  unfold decodeWord
  rw [h0]
  exact rfl

theorem Encodes.fclass (d : BitVec 7) (a : BitVec 7) (f : BitVec 4) : Encodes.Statement (.fclass d a f) := by
  intro w h
  obtain ⟨h0, h1, h2, h3, h4⟩ := cut_7_7_7_7_4 (Option.some.inj h).symm
  clear h
  subst h1 h2 h4
  unfold decodeWord
  rw [h0]
  exact if_pos h3

theorem Encodes.hadd2 (d : BitVec 7) (a : BitVec 7) (b : BitVec 7) (f : BitVec 4) : Encodes.Statement (.hadd2 d a b f) := by
  intro w h
  obtain ⟨h0, h1, h2, h3, h4⟩ := cut_7_7_7_7_4 (Option.some.inj h).symm
  clear h
  subst h1 h2 h3 h4
  unfold decodeWord
  rw [h0]
  exact rfl

theorem Encodes.hmul2 (d : BitVec 7) (a : BitVec 7) (b : BitVec 7) (f : BitVec 4) : Encodes.Statement (.hmul2 d a b f) := by
  intro w h
  obtain ⟨h0, h1, h2, h3, h4⟩ := cut_7_7_7_7_4 (Option.some.inj h).symm
  clear h
  subst h1 h2 h3 h4
  unfold decodeWord
  rw [h0]
  exact rfl

theorem Encodes.hfma2 (d : BitVec 7) (a : BitVec 7) (b : BitVec 7) (f : BitVec 4) : Encodes.Statement (.hfma2 d a b f) := by
  intro w h
  obtain ⟨h0, h1, h2, h3, h4⟩ := cut_7_7_7_7_4 (Option.some.inj h).symm
  clear h
  subst h1 h2 h3 h4
  unfold decodeWord
  rw [h0]
  exact rfl

theorem Encodes.bfma2 (d : BitVec 7) (a : BitVec 7) (b : BitVec 7) (f : BitVec 4) : Encodes.Statement (.bfma2 d a b f) := by
  intro w h
  obtain ⟨h0, h1, h2, h3, h4⟩ := cut_7_7_7_7_4 (Option.some.inj h).symm
  clear h
  subst h1 h2 h3 h4
  unfold decodeWord
  rw [h0]
  exact rfl

theorem Encodes.dot4 (d : BitVec 7) (a : BitVec 7) (b : BitVec 7) (f : BitVec 4) : Encodes.Statement (.dot4 d a b f) := by
  intro w h
  obtain ⟨h0, h1, h2, h3, h4⟩ := cut_7_7_7_7_4 (Option.some.inj h).symm
  clear h
  subst h1 h2 h3 h4
  unfold decodeWord
  rw [h0]
  exact rfl

theorem Encodes.pcvt (d : BitVec 7) (a : BitVec 7) (b : BitVec 7) (f : BitVec 4) : Encodes.Statement (.pcvt d a b f) := by
  intro w h
  obtain ⟨h0, h1, h2, h3, h4⟩ := cut_7_7_7_7_4 (Option.some.inj h).symm
  clear h
  subst h1 h2 h3 h4
  unfold decodeWord
  rw [h0]
  exact rfl

theorem Encodes.mov (d : BitVec 7) (a : BitVec 7) (f : BitVec 4) : Encodes.Statement (.mov d a f) := by
  intro w h
  obtain ⟨h0, h1, h2, h3, h4⟩ := cut_7_7_7_7_4 (Option.some.inj h).symm
  clear h
  subst h1 h2 h4
  unfold decodeWord
  rw [h0]
  exact if_pos h3

theorem Encodes.idx (d : BitVec 7) (a : BitVec 7) (b : BitVec 7) (f : BitVec 4) : Encodes.Statement (.idx d a b f) := by
  intro w h
  obtain ⟨h0, h1, h2, h3, h4⟩ := cut_7_7_7_7_4 (Option.some.inj h).symm
  clear h
  subst h1 h2 h3 h4
  unfold decodeWord
  rw [h0]
  exact rfl

theorem Encodes.plop (d : BitVec 3) (a : BitVec 3) (b : BitVec 3) (f : BitVec 4) : Encodes.Statement (.plop d a b f) := by
  intro w h
  obtain ⟨h0, h1, h2, h3, h4, h5, h6, h7⟩ := cut_7_4_3_4_3_4_3_4 (Option.some.inj h).symm
  clear h
  subst h2 h4 h6 h7
  unfold decodeWord
  rw [h0]
  exact if_pos ⟨h1, h3, h5⟩

theorem Encodes.vote (d : BitVec 7) (a : BitVec 7) (f : BitVec 4) : Encodes.Statement (.vote d a f) := by
  intro w h
  obtain ⟨h0, h1, h2, h3, h4⟩ := cut_7_7_7_7_4 (Option.some.inj h).symm
  clear h
  subst h1 h2 h4
  unfold decodeWord
  rw [h0]
  exact if_pos h3

theorem Encodes.shfl (d : BitVec 7) (a : BitVec 7) (b : BitVec 7) (f : BitVec 4) : Encodes.Statement (.shfl d a b f) := by
  intro w h
  obtain ⟨h0, h1, h2, h3, h4⟩ := cut_7_7_7_7_4 (Option.some.inj h).symm
  clear h
  subst h1 h2 h3 h4
  unfold decodeWord
  rw [h0]
  exact rfl

theorem Encodes.redux (d : BitVec 7) (a : BitVec 7) (f : BitVec 4) : Encodes.Statement (.redux d a f) := by
  intro w h
  obtain ⟨h0, h1, h2, h3, h4⟩ := cut_7_7_7_7_4 (Option.some.inj h).symm
  clear h
  subst h1 h2 h4
  unfold decodeWord
  rw [h0]
  exact if_pos h3

theorem Encodes.pmov (d : BitVec 7) (a : BitVec 7) (f : BitVec 4) : Encodes.Statement (.pmov d a f) := by
  intro w h
  obtain ⟨h0, h1, h2, h3, h4⟩ := cut_7_7_7_7_4 (Option.some.inj h).symm
  clear h
  subst h1 h2 h4
  unfold decodeWord
  rw [h0]
  exact if_pos h3

theorem Encodes.pset (p : BitVec 3) (f : BitVec 4) : Encodes.Statement (.pset p f) := by
  intro w h
  obtain ⟨h0, h1, h2, h3, h4⟩ := cut_7_4_3_14_4 (Option.some.inj h).symm
  clear h
  subst h2 h4
  unfold decodeWord
  rw [h0]
  exact if_pos ⟨h1, h3⟩

theorem Encodes.ldb (d : BitVec 7) (a : BitVec 7) (o : BitVec 4) (f : BitVec 4) : Encodes.Statement (.ldb d a o f) := by
  intro w h
  obtain ⟨h0, h1, h2, h3, h4, h5⟩ := cut_7_7_7_3_4_4 (Option.some.inj h).symm
  clear h
  subst h1 h2 h4 h5
  unfold decodeWord
  rw [h0]
  exact if_pos h3

theorem Encodes.ldh (d : BitVec 7) (a : BitVec 7) (o : BitVec 4) (f : BitVec 4) : Encodes.Statement (.ldh d a o f) := by
  intro w h
  obtain ⟨h0, h1, h2, h3, h4, h5⟩ := cut_7_7_7_3_4_4 (Option.some.inj h).symm
  clear h
  subst h1 h2 h4 h5
  unfold decodeWord
  rw [h0]
  exact if_pos h3

theorem Encodes.ldw (d : BitVec 7) (a : BitVec 7) (o : BitVec 4) (f : BitVec 4) : Encodes.Statement (.ldw d a o f) := by
  intro w h
  obtain ⟨h0, h1, h2, h3, h4, h5⟩ := cut_7_7_7_3_4_4 (Option.some.inj h).symm
  clear h
  subst h1 h2 h4 h5
  unfold decodeWord
  rw [h0]
  exact if_pos h3

theorem Encodes.ldd (d : BitVec 7) (a : BitVec 7) (o : BitVec 4) (f : BitVec 4) : Encodes.Statement (.ldd d a o f) := by
  intro w h
  obtain ⟨h0, h1, h2, h3, h4, h5⟩ := cut_7_7_7_3_4_4 (Option.some.inj h).symm
  clear h
  subst h1 h2 h4 h5
  unfold decodeWord
  rw [h0]
  exact if_pos h3

theorem Encodes.ldba (d : BitVec 7) (a : BitVec 7) (s : BitVec 3) (o : BitVec 4) (f : BitVec 4) : Encodes.Statement (.ldba d a s o f) := by
  intro w h
  obtain ⟨h0, h1, h2, h3, h4, h5⟩ := cut_7_7_7_3_4_4 (Option.some.inj h).symm
  clear h
  subst h1 h2 h3 h4 h5
  unfold decodeWord
  rw [h0]
  exact rfl

theorem Encodes.ldha (d : BitVec 7) (a : BitVec 7) (s : BitVec 3) (o : BitVec 4) (f : BitVec 4) : Encodes.Statement (.ldha d a s o f) := by
  intro w h
  obtain ⟨h0, h1, h2, h3, h4, h5⟩ := cut_7_7_7_3_4_4 (Option.some.inj h).symm
  clear h
  subst h1 h2 h3 h4 h5
  unfold decodeWord
  rw [h0]
  exact rfl

theorem Encodes.ldwa (d : BitVec 7) (a : BitVec 7) (s : BitVec 3) (o : BitVec 4) (f : BitVec 4) : Encodes.Statement (.ldwa d a s o f) := by
  intro w h
  obtain ⟨h0, h1, h2, h3, h4, h5⟩ := cut_7_7_7_3_4_4 (Option.some.inj h).symm
  clear h
  subst h1 h2 h3 h4 h5
  unfold decodeWord
  rw [h0]
  exact rfl

theorem Encodes.ldda (d : BitVec 7) (a : BitVec 7) (s : BitVec 3) (o : BitVec 4) (f : BitVec 4) : Encodes.Statement (.ldda d a s o f) := by
  intro w h
  obtain ⟨h0, h1, h2, h3, h4, h5⟩ := cut_7_7_7_3_4_4 (Option.some.inj h).symm
  clear h
  subst h1 h2 h3 h4 h5
  unfold decodeWord
  rw [h0]
  exact rfl

theorem Encodes.stb (d : BitVec 7) (a : BitVec 7) (o : BitVec 4) (p : BitVec 1) (g : BitVec 3) : Encodes.Statement (.stb d a o p g) := by
  intro w h
  obtain ⟨h0, h1, h2, h3, h4, h5, h6⟩ := cut_7_7_7_3_4_1_3 (Option.some.inj h).symm
  clear h
  subst h1 h2 h4 h5 h6
  unfold decodeWord
  rw [h0]
  exact if_pos h3

theorem Encodes.sth (d : BitVec 7) (a : BitVec 7) (o : BitVec 4) (p : BitVec 1) (g : BitVec 3) : Encodes.Statement (.sth d a o p g) := by
  intro w h
  obtain ⟨h0, h1, h2, h3, h4, h5, h6⟩ := cut_7_7_7_3_4_1_3 (Option.some.inj h).symm
  clear h
  subst h1 h2 h4 h5 h6
  unfold decodeWord
  rw [h0]
  exact if_pos h3

theorem Encodes.stw (d : BitVec 7) (a : BitVec 7) (o : BitVec 4) (p : BitVec 1) (g : BitVec 3) : Encodes.Statement (.stw d a o p g) := by
  intro w h
  obtain ⟨h0, h1, h2, h3, h4, h5, h6⟩ := cut_7_7_7_3_4_1_3 (Option.some.inj h).symm
  clear h
  subst h1 h2 h4 h5 h6
  unfold decodeWord
  rw [h0]
  exact if_pos h3

theorem Encodes.std (d : BitVec 7) (a : BitVec 7) (o : BitVec 4) (p : BitVec 1) (g : BitVec 3) : Encodes.Statement (.std d a o p g) := by
  intro w h
  obtain ⟨h0, h1, h2, h3, h4, h5, h6⟩ := cut_7_7_7_3_4_1_3 (Option.some.inj h).symm
  clear h
  subst h1 h2 h4 h5 h6
  unfold decodeWord
  rw [h0]
  exact if_pos h3

theorem Encodes.stbl (d : BitVec 7) (a : BitVec 7) (s : BitVec 3) (o : BitVec 4) (p : BitVec 1) (g : BitVec 3) : Encodes.Statement (.stbl d a s o p g) := by
  intro w h
  obtain ⟨h0, h1, h2, h3, h4, h5, h6⟩ := cut_7_7_7_3_4_1_3 (Option.some.inj h).symm
  clear h
  subst h1 h2 h3 h4 h5 h6
  unfold decodeWord
  rw [h0]
  exact rfl

theorem Encodes.sthl (d : BitVec 7) (a : BitVec 7) (s : BitVec 3) (o : BitVec 4) (p : BitVec 1) (g : BitVec 3) : Encodes.Statement (.sthl d a s o p g) := by
  intro w h
  obtain ⟨h0, h1, h2, h3, h4, h5, h6⟩ := cut_7_7_7_3_4_1_3 (Option.some.inj h).symm
  clear h
  subst h1 h2 h3 h4 h5 h6
  unfold decodeWord
  rw [h0]
  exact rfl

theorem Encodes.stwl (d : BitVec 7) (a : BitVec 7) (s : BitVec 3) (o : BitVec 4) (p : BitVec 1) (g : BitVec 3) : Encodes.Statement (.stwl d a s o p g) := by
  intro w h
  obtain ⟨h0, h1, h2, h3, h4, h5, h6⟩ := cut_7_7_7_3_4_1_3 (Option.some.inj h).symm
  clear h
  subst h1 h2 h3 h4 h5 h6
  unfold decodeWord
  rw [h0]
  exact rfl

theorem Encodes.stdl (d : BitVec 7) (a : BitVec 7) (s : BitVec 3) (o : BitVec 4) (p : BitVec 1) (g : BitVec 3) : Encodes.Statement (.stdl d a s o p g) := by
  intro w h
  obtain ⟨h0, h1, h2, h3, h4, h5, h6⟩ := cut_7_7_7_3_4_1_3 (Option.some.inj h).symm
  clear h
  subst h1 h2 h3 h4 h5 h6
  unfold decodeWord
  rw [h0]
  exact rfl

theorem Encodes.aadd (d : BitVec 7) (a : BitVec 7) (b : BitVec 5) (s : BitVec 3) (o : BitVec 2) (p : BitVec 1) : Encodes.Statement (.aadd d a b s o p) := by
  intro w h
  obtain ⟨h0, h1, h2, h3, h4, h5, h6⟩ := cut_7_7_7_5_3_2_1 (Option.some.inj h).symm
  clear h
  subst h1 h2 h3 h4 h5 h6
  unfold decodeWord
  rw [h0]
  exact rfl

theorem Encodes.asub (d : BitVec 7) (a : BitVec 7) (b : BitVec 5) (s : BitVec 3) (o : BitVec 2) (p : BitVec 1) : Encodes.Statement (.asub d a b s o p) := by
  intro w h
  obtain ⟨h0, h1, h2, h3, h4, h5, h6⟩ := cut_7_7_7_5_3_2_1 (Option.some.inj h).symm
  clear h
  subst h1 h2 h3 h4 h5 h6
  unfold decodeWord
  rw [h0]
  exact rfl

theorem Encodes.amins (d : BitVec 7) (a : BitVec 7) (b : BitVec 5) (s : BitVec 3) (o : BitVec 2) (p : BitVec 1) : Encodes.Statement (.amins d a b s o p) := by
  intro w h
  obtain ⟨h0, h1, h2, h3, h4, h5, h6⟩ := cut_7_7_7_5_3_2_1 (Option.some.inj h).symm
  clear h
  subst h1 h2 h3 h4 h5 h6
  unfold decodeWord
  rw [h0]
  exact rfl

theorem Encodes.amaxs (d : BitVec 7) (a : BitVec 7) (b : BitVec 5) (s : BitVec 3) (o : BitVec 2) (p : BitVec 1) : Encodes.Statement (.amaxs d a b s o p) := by
  intro w h
  obtain ⟨h0, h1, h2, h3, h4, h5, h6⟩ := cut_7_7_7_5_3_2_1 (Option.some.inj h).symm
  clear h
  subst h1 h2 h3 h4 h5 h6
  unfold decodeWord
  rw [h0]
  exact rfl

theorem Encodes.aminu (d : BitVec 7) (a : BitVec 7) (b : BitVec 5) (s : BitVec 3) (o : BitVec 2) (p : BitVec 1) : Encodes.Statement (.aminu d a b s o p) := by
  intro w h
  obtain ⟨h0, h1, h2, h3, h4, h5, h6⟩ := cut_7_7_7_5_3_2_1 (Option.some.inj h).symm
  clear h
  subst h1 h2 h3 h4 h5 h6
  unfold decodeWord
  rw [h0]
  exact rfl

theorem Encodes.amaxu (d : BitVec 7) (a : BitVec 7) (b : BitVec 5) (s : BitVec 3) (o : BitVec 2) (p : BitVec 1) : Encodes.Statement (.amaxu d a b s o p) := by
  intro w h
  obtain ⟨h0, h1, h2, h3, h4, h5, h6⟩ := cut_7_7_7_5_3_2_1 (Option.some.inj h).symm
  clear h
  subst h1 h2 h3 h4 h5 h6
  unfold decodeWord
  rw [h0]
  exact rfl

theorem Encodes.aand (d : BitVec 7) (a : BitVec 7) (b : BitVec 5) (s : BitVec 3) (o : BitVec 2) (p : BitVec 1) : Encodes.Statement (.aand d a b s o p) := by
  intro w h
  obtain ⟨h0, h1, h2, h3, h4, h5, h6⟩ := cut_7_7_7_5_3_2_1 (Option.some.inj h).symm
  clear h
  subst h1 h2 h3 h4 h5 h6
  unfold decodeWord
  rw [h0]
  exact rfl

theorem Encodes.aor (d : BitVec 7) (a : BitVec 7) (b : BitVec 5) (s : BitVec 3) (o : BitVec 2) (p : BitVec 1) : Encodes.Statement (.aor d a b s o p) := by
  intro w h
  obtain ⟨h0, h1, h2, h3, h4, h5, h6⟩ := cut_7_7_7_5_3_2_1 (Option.some.inj h).symm
  clear h
  subst h1 h2 h3 h4 h5 h6
  unfold decodeWord
  rw [h0]
  exact rfl

theorem Encodes.axor (d : BitVec 7) (a : BitVec 7) (b : BitVec 5) (s : BitVec 3) (o : BitVec 2) (p : BitVec 1) : Encodes.Statement (.axor d a b s o p) := by
  intro w h
  obtain ⟨h0, h1, h2, h3, h4, h5, h6⟩ := cut_7_7_7_5_3_2_1 (Option.some.inj h).symm
  clear h
  subst h1 h2 h3 h4 h5 h6
  unfold decodeWord
  rw [h0]
  exact rfl

theorem Encodes.axch (d : BitVec 7) (a : BitVec 7) (b : BitVec 5) (s : BitVec 3) (o : BitVec 2) (p : BitVec 1) : Encodes.Statement (.axch d a b s o p) := by
  intro w h
  obtain ⟨h0, h1, h2, h3, h4, h5, h6⟩ := cut_7_7_7_5_3_2_1 (Option.some.inj h).symm
  clear h
  subst h1 h2 h3 h4 h5 h6
  unfold decodeWord
  rw [h0]
  exact rfl

theorem Encodes.acas (d : BitVec 7) (a : BitVec 7) (b : BitVec 5) (s : BitVec 3) (o : BitVec 2) (p : BitVec 1) : Encodes.Statement (.acas d a b s o p) := by
  intro w h
  obtain ⟨h0, h1, h2, h3, h4, h5, h6⟩ := cut_7_7_7_5_3_2_1 (Option.some.inj h).symm
  clear h
  subst h1 h2 h3 h4 h5 h6
  unfold decodeWord
  rw [h0]
  exact rfl

theorem Encodes.afadd (d : BitVec 7) (a : BitVec 7) (b : BitVec 5) (s : BitVec 3) (o : BitVec 2) (p : BitVec 1) : Encodes.Statement (.afadd d a b s o p) := by
  intro w h
  obtain ⟨h0, h1, h2, h3, h4, h5, h6⟩ := cut_7_7_7_5_3_2_1 (Option.some.inj h).symm
  clear h
  subst h1 h2 h3 h4 h5 h6
  unfold decodeWord
  rw [h0]
  exact rfl

theorem Encodes.afmin (d : BitVec 7) (a : BitVec 7) (b : BitVec 5) (s : BitVec 3) (o : BitVec 2) (p : BitVec 1) : Encodes.Statement (.afmin d a b s o p) := by
  intro w h
  obtain ⟨h0, h1, h2, h3, h4, h5, h6⟩ := cut_7_7_7_5_3_2_1 (Option.some.inj h).symm
  clear h
  subst h1 h2 h3 h4 h5 h6
  unfold decodeWord
  rw [h0]
  exact rfl

theorem Encodes.afmax (d : BitVec 7) (a : BitVec 7) (b : BitVec 5) (s : BitVec 3) (o : BitVec 2) (p : BitVec 1) : Encodes.Statement (.afmax d a b s o p) := by
  intro w h
  obtain ⟨h0, h1, h2, h3, h4, h5, h6⟩ := cut_7_7_7_5_3_2_1 (Option.some.inj h).symm
  clear h
  subst h1 h2 h3 h4 h5 h6
  unfold decodeWord
  rw [h0]
  exact rfl

theorem Encodes.aincw (d : BitVec 7) (a : BitVec 7) (b : BitVec 5) (s : BitVec 3) (o : BitVec 2) (p : BitVec 1) : Encodes.Statement (.aincw d a b s o p) := by
  intro w h
  obtain ⟨h0, h1, h2, h3, h4, h5, h6⟩ := cut_7_7_7_5_3_2_1 (Option.some.inj h).symm
  clear h
  subst h1 h2 h3 h4 h5 h6
  unfold decodeWord
  rw [h0]
  exact rfl

theorem Encodes.adecw (d : BitVec 7) (a : BitVec 7) (b : BitVec 5) (s : BitVec 3) (o : BitVec 2) (p : BitVec 1) : Encodes.Statement (.adecw d a b s o p) := by
  intro w h
  obtain ⟨h0, h1, h2, h3, h4, h5, h6⟩ := cut_7_7_7_5_3_2_1 (Option.some.inj h).symm
  clear h
  subst h1 h2 h3 h4 h5 h6
  unfold decodeWord
  rw [h0]
  exact rfl

theorem Encodes.stn (d : BitVec 7) (a : BitVec 7) (o : BitVec 4) (p : BitVec 1) (g : BitVec 3) : Encodes.Statement (.stn d a o p g) := by
  intro w h
  obtain ⟨h0, h1, h2, h3, h4, h5, h6⟩ := cut_7_7_7_3_4_1_3 (Option.some.inj h).symm
  clear h
  subst h1 h2 h4 h5 h6
  unfold decodeWord
  rw [h0]
  exact if_pos h3

theorem Encodes.stbm (d : BitVec 7) (a : BitVec 7) (b : BitVec 7) (p : BitVec 1) (g : BitVec 3) : Encodes.Statement (.stbm d a b p g) := by
  intro w h
  obtain ⟨h0, h1, h2, h3, h4, h5⟩ := cut_7_7_7_7_1_3 (Option.some.inj h).symm
  clear h
  subst h1 h2 h3 h4 h5
  unfold decodeWord
  rw [h0]
  exact rfl

theorem Encodes.migrCore (a : BitVec 7) : Encodes.Statement (.migrCore a) := by
  intro w h
  obtain ⟨h0, h1, h2, h3⟩ := cut_7_7_7_11 (Option.some.inj h).symm
  clear h
  subst h2
  unfold decodeWord
  rw [h0]
  exact if_pos ⟨h1, h3⟩

theorem Encodes.migrAddr (a : BitVec 7) : Encodes.Statement (.migrAddr a) := by
  intro w h
  obtain ⟨h0, h1, h2, h3⟩ := cut_7_7_7_11 (Option.some.inj h).symm
  clear h
  subst h2
  unfold decodeWord
  rw [h0]
  exact (if_neg (fun e => absurd (h3.symm.trans (e.2)) (by decide))).trans (if_pos ⟨h1, h3⟩)

theorem Encodes.migrLaunch : Encodes.Statement (.migrLaunch) := fun _ h => Option.some.inj h ▸ rfl

theorem Encodes.home (d : BitVec 7) (a : BitVec 7) : Encodes.Statement (.home d a) := by
  intro w h
  obtain ⟨h0, h1, h2, h3⟩ := cut_7_7_7_11 (Option.some.inj h).symm
  clear h
  subst h1 h2
  unfold decodeWord
  rw [h0]
  exact if_pos h3

theorem Encodes.rejoin (b : BitVec 5) : Encodes.Statement (.rejoin b) := by
  intro w h
  obtain ⟨h0, h1, h2, h3⟩ := cut_7_9_5_11 (Option.some.inj h).symm
  clear h
  subst h2
  unfold decodeWord
  rw [h0]
  exact if_pos ⟨h1, h3⟩

theorem Encodes.barArrive (s : BitVec 3) (i : BitVec 5) (b : BitVec 7) (c : BitVec 1) : Encodes.Statement (.barArrive s i b c) := by
  intro w h
  obtain ⟨h0, h1, h2, h3, h4, h5, h6, h7, h8⟩ := cut_7_4_3_2_5_7_1_1_2 (Option.some.inj h).symm
  clear h
  subst h2 h4 h5 h7
  unfold decodeWord
  rw [h0]
  exact if_pos ⟨h1, h3, h6, h8⟩

theorem Encodes.barWait (s : BitVec 3) (i : BitVec 5) (b : BitVec 7) (c : BitVec 1) : Encodes.Statement (.barWait s i b c) := by
  intro w h
  obtain ⟨h0, h1, h2, h3, h4, h5, h6, h7, h8⟩ := cut_7_4_3_2_5_7_1_1_2 (Option.some.inj h).symm
  clear h
  subst h2 h4 h5 h7
  unfold decodeWord
  rw [h0]
  exact (if_neg (fun e => absurd (h8.symm.trans (e.2.2.2)) (by decide))).trans (if_pos ⟨h1, h3, h6, h8⟩)

theorem Encodes.barSync (s : BitVec 3) (i : BitVec 5) (b : BitVec 7) (c : BitVec 1) : Encodes.Statement (.barSync s i b c) := by
  intro w h
  obtain ⟨h0, h1, h2, h3, h4, h5, h6, h7, h8⟩ := cut_7_4_3_2_5_7_1_1_2 (Option.some.inj h).symm
  clear h
  subst h2 h4 h5 h7
  unfold decodeWord
  rw [h0]
  exact (if_neg (fun e => absurd (h8.symm.trans (e.2.2.2)) (by decide))).trans ((if_neg (fun e => absurd (h8.symm.trans (e.2.2.2)) (by decide))).trans (if_pos ⟨h1, h3, h6, h8⟩))

theorem Encodes.barInit (s : BitVec 3) (i : BitVec 5) (b : BitVec 7) (c : BitVec 1) : Encodes.Statement (.barInit s i b c) := by
  intro w h
  obtain ⟨h0, h1, h2, h3, h4, h5, h6, h7, h8⟩ := cut_7_4_3_2_5_7_1_1_2 (Option.some.inj h).symm
  clear h
  subst h2 h4 h5 h7
  unfold decodeWord
  rw [h0]
  exact (if_neg (fun e => absurd (h8.symm.trans (e.2.2.2)) (by decide))).trans ((if_neg (fun e => absurd (h8.symm.trans (e.2.2.2)) (by decide))).trans ((if_neg (fun e => absurd (h8.symm.trans (e.2.2.2)) (by decide))).trans (if_pos ⟨h1, h3, h6, h8⟩)))

theorem Encodes.barrierArrivalMessage (m : Nat) : Encodes.Statement (.barrierArrivalMessage m) := fun _ h => nomatch h

theorem Encodes.fence (s : BitVec 3) (t : BitVec 1) (m : BitVec 2) : Encodes.Statement (.fence s t m) := by
  intro w h
  obtain ⟨h0, h1, h2, h3, h4, h5⟩ := cut_7_11_3_8_1_2 (Option.some.inj h).symm
  clear h
  subst h2 h4 h5
  unfold decodeWord
  rw [h0]
  exact if_pos ⟨h1, h3⟩

theorem Encodes.ljoin (a : BitVec 7) (b : BitVec 7) (t : BitVec 4) : Encodes.Statement (.ljoin a b t) := by
  intro w h
  obtain ⟨h0, h1, h2, h3, h4⟩ := cut_7_7_7_7_4 (Option.some.inj h).symm
  clear h
  subst h2 h3 h4
  unfold decodeWord
  rw [h0]
  exact if_pos h1

theorem Encodes.ljoinr (d : BitVec 7) (a : BitVec 7) (b : BitVec 7) (t : BitVec 4) : Encodes.Statement (.ljoinr d a b t) := by
  intro w h
  obtain ⟨h0, h1, h2, h3, h4⟩ := cut_7_7_7_7_4 (Option.some.inj h).symm
  clear h
  subst h1 h2 h3 h4
  unfold decodeWord
  rw [h0]
  exact rfl

theorem Encodes.lld (d : BitVec 7) (a : BitVec 7) (o : BitVec 4) (t : BitVec 4) : Encodes.Statement (.lld d a o t) := by
  intro w h
  obtain ⟨h0, h1, h2, h3, h4, h5⟩ := cut_7_7_7_3_4_4 (Option.some.inj h).symm
  clear h
  subst h1 h2 h4 h5
  unfold decodeWord
  rw [h0]
  exact if_pos h3

theorem Encodes.lldw (d : BitVec 7) (a : BitVec 7) (b : BitVec 7) (t : BitVec 4) : Encodes.Statement (.lldw d a b t) := by
  intro w h
  obtain ⟨h0, h1, h2, h3, h4⟩ := cut_7_7_7_7_4 (Option.some.inj h).symm
  clear h
  subst h1 h2 h3 h4
  unfold decodeWord
  rw [h0]
  exact rfl

theorem Encodes.lstx (d : BitVec 7) (a : BitVec 7) (o : BitVec 4) (t : BitVec 4) : Encodes.Statement (.lstx d a o t) := by
  intro w h
  obtain ⟨h0, h1, h2, h3, h4, h5⟩ := cut_7_7_7_3_4_4 (Option.some.inj h).symm
  clear h
  subst h1 h2 h4 h5
  unfold decodeWord
  rw [h0]
  exact if_pos h3

theorem Encodes.lflush (a : BitVec 7) (t : BitVec 4) : Encodes.Statement (.lflush a t) := by
  intro w h
  obtain ⟨h0, h1, h2, h3, h4⟩ := cut_7_7_7_7_4 (Option.some.inj h).symm
  clear h
  subst h2 h4
  unfold decodeWord
  rw [h0]
  exact if_pos ⟨h1, h3⟩

theorem Encodes.lepoch (d : BitVec 7) (a : BitVec 7) (t : BitVec 4) : Encodes.Statement (.lepoch d a t) := by
  intro w h
  obtain ⟨h0, h1, h2, h3, h4⟩ := cut_7_7_7_7_4 (Option.some.inj h).symm
  clear h
  subst h1 h2 h4
  unfold decodeWord
  rw [h0]
  exact if_pos h3

theorem Encodes.rcall (h : BitVec 2) (r : BitVec 5) (l : BitVec 2) (a : BitVec 5) (p : BitVec 5) (e : BitVec 4) : Encodes.Statement (.rcall h r l a p e) := by
  intro w h
  obtain ⟨h0, h1, h2, h3, h4, h5, h6, h7⟩ := cut_7_2_5_2_5_2_5_4 (Option.some.inj h).symm
  clear h
  subst h1 h2 h3 h4 h6 h7
  unfold decodeWord
  rw [h0]
  exact if_pos h5

theorem Encodes.rcallRetry (h : BitVec 2) (r : BitVec 5) (l : BitVec 2) (a : BitVec 5) (p : BitVec 5) (e : BitVec 4) : Encodes.Statement (.rcallRetry h r l a p e) := by
  intro w h
  obtain ⟨h0, h1, h2, h3, h4, h5, h6, h7⟩ := cut_7_2_5_2_5_2_5_4 (Option.some.inj h).symm
  clear h
  subst h1 h2 h3 h4 h6 h7
  unfold decodeWord
  rw [h0]
  exact (if_neg (fun e => absurd (h5.symm.trans (e)) (by decide))).trans (if_pos h5)

theorem Encodes.rret (a : BitVec 7) : Encodes.Statement (.rret a) := by
  intro w h
  obtain ⟨h0, h1, h2, h3⟩ := cut_7_7_7_11 (Option.some.inj h).symm
  clear h
  subst h2
  unfold decodeWord
  rw [h0]
  exact if_pos ⟨h1, h3⟩

theorem Encodes.rstat (d : BitVec 7) (f : BitVec 4) : Encodes.Statement (.rstat d f) := by
  intro w h
  obtain ⟨h0, h1, h2, h3⟩ := cut_7_7_14_4 (Option.some.inj h).symm
  clear h
  subst h1 h3
  unfold decodeWord
  rw [h0]
  exact if_pos h2

theorem Encodes.tmove (d : BitVec 7) (a : BitVec 7) (f : BitVec 4) : Encodes.Statement (.tmove d a f) := by
  intro w h
  obtain ⟨h0, h1, h2, h3, h4⟩ := cut_7_7_7_7_4 (Option.some.inj h).symm
  clear h
  subst h1 h2 h4
  unfold decodeWord
  rw [h0]
  exact if_pos h3

theorem Encodes.tstat (d : BitVec 7) (f : BitVec 4) : Encodes.Statement (.tstat d f) := by
  intro w h
  obtain ⟨h0, h1, h2, h3⟩ := cut_7_7_14_4 (Option.some.inj h).symm
  clear h
  subst h1 h3
  unfold decodeWord
  rw [h0]
  exact if_pos h2

theorem Encodes.tstatProm (d : BitVec 7) (f : BitVec 4) : Encodes.Statement (.tstatProm d f) := by
  intro w h
  obtain ⟨h0, h1, h2, h3⟩ := cut_7_7_14_4 (Option.some.inj h).symm
  clear h
  subst h1 h3
  unfold decodeWord
  rw [h0]
  exact (if_neg (fun e => absurd (h2.symm.trans (e)) (by decide))).trans (if_pos h2)

theorem Encodes.mldw (a : BitVec 7) (b : BitVec 7) (f : BitVec 4) : Encodes.Statement (.mldw a b f) := by
  intro w h
  obtain ⟨h0, h1, h2, h3, h4⟩ := cut_7_7_7_7_4 (Option.some.inj h).symm
  clear h
  subst h2 h3 h4
  unfold decodeWord
  rw [h0]
  exact if_pos h1

theorem Encodes.mswap : Encodes.Statement (.mswap) := by
  intro w h
  obtain ⟨h0, h1⟩ := cut_7_25 (Option.some.inj h).symm
  clear h
  unfold decodeWord
  rw [h0]
  exact if_pos h1

theorem Encodes.mstream (a : BitVec 7) (b : BitVec 7) (f : BitVec 4) : Encodes.Statement (.mstream a b f) := by
  intro w h
  obtain ⟨h0, h1, h2, h3, h4⟩ := cut_7_7_7_7_4 (Option.some.inj h).symm
  clear h
  subst h2 h3 h4
  unfold decodeWord
  rw [h0]
  exact if_pos h1

theorem Encodes.mdrain (d : BitVec 7) (a : BitVec 7) (b : BitVec 7) (f : BitVec 4) : Encodes.Statement (.mdrain d a b f) := by
  intro w h
  obtain ⟨h0, h1, h2, h3, h4⟩ := cut_7_7_7_7_4 (Option.some.inj h).symm
  clear h
  subst h1 h2 h3 h4
  unfold decodeWord
  rw [h0]
  exact rfl

theorem Encodes.mlicAcq : Encodes.Statement (.mlicAcq) := fun _ h => Option.some.inj h ▸ rfl

theorem Encodes.mlicTry (p : BitVec 3) : Encodes.Statement (.mlicTry p) := by
  intro w h
  obtain ⟨h0, h1, h2, h3⟩ := cut_7_4_3_18 (Option.some.inj h).symm
  clear h
  subst h2
  unfold decodeWord
  rw [h0]
  exact (if_neg (fun e => absurd (h3.symm.trans (low_part (e))) (by decide))).trans (if_pos ⟨h1, h3⟩)

theorem Encodes.mlicRel : Encodes.Statement (.mlicRel) := fun _ h => Option.some.inj h ▸ rfl

theorem Encodes.mlicQry (d : BitVec 7) : Encodes.Statement (.mlicQry d) := by
  intro w h
  obtain ⟨h0, h1, h2⟩ := cut_7_7_18 (Option.some.inj h).symm
  clear h
  subst h1
  unfold decodeWord
  rw [h0]
  exact (if_neg (fun e => absurd (h2.symm.trans (low_part (e))) (by decide))).trans ((if_neg (fun e => absurd (h2.symm.trans (e.2)) (by decide))).trans ((if_neg (fun e => absurd (h2.symm.trans (low_part (e))) (by decide))).trans (if_pos h2)))

theorem Encodes.xsigSig (s : BitVec 3) : Encodes.Statement (.xsigSig s) := by
  intro w h
  obtain ⟨h0, h1, h2, h3⟩ := cut_7_4_3_18 (Option.some.inj h).symm
  clear h
  subst h2
  unfold decodeWord
  rw [h0]
  exact if_pos ⟨h1, h3⟩

theorem Encodes.xsigWait (s : BitVec 3) : Encodes.Statement (.xsigWait s) := by
  intro w h
  obtain ⟨h0, h1, h2, h3⟩ := cut_7_4_3_18 (Option.some.inj h).symm
  clear h
  subst h2
  unfold decodeWord
  rw [h0]
  exact (if_neg (fun e => absurd (h3.symm.trans (e.2)) (by decide))).trans (if_pos ⟨h1, h3⟩)

theorem Encodes.xsigSync (s : BitVec 3) : Encodes.Statement (.xsigSync s) := by
  intro w h
  obtain ⟨h0, h1, h2, h3⟩ := cut_7_4_3_18 (Option.some.inj h).symm
  clear h
  subst h2
  unfold decodeWord
  rw [h0]
  exact (if_neg (fun e => absurd (h3.symm.trans (e.2)) (by decide))).trans ((if_neg (fun e => absurd (h3.symm.trans (e.2)) (by decide))).trans (if_pos ⟨h1, h3⟩))

theorem Encodes.csrr (d : BitVec 7) (n : BitVec 11) : Encodes.Statement (.csrr d n) := by
  intro w h
  obtain ⟨h0, h1, h2, h3⟩ := cut_7_7_7_11 (Option.some.inj h).symm
  clear h
  subst h1 h3
  unfold decodeWord
  rw [h0]
  exact if_pos h2

theorem Encodes.csrw (a : BitVec 7) (n : BitVec 11) : Encodes.Statement (.csrw a n) := by
  intro w h
  obtain ⟨h0, h1, h2, h3⟩ := cut_7_7_7_11 (Option.some.inj h).symm
  clear h
  subst h2 h3
  unfold decodeWord
  rw [h0]
  exact if_pos h1

theorem Encodes.hbeat (v : Word) : Encodes.Statement (.hbeat v) := fun _ h => nomatch h

theorem Encodes.pgreq (addr : DWord) : Encodes.Statement (.pgreq addr) := fun _ h => nomatch h

theorem Encodes.spadDescriptorWrite (n : BitVec 4) (v : DWord) : Encodes.Statement (.spadDescriptorWrite n v) := fun _ h => nomatch h

theorem Encodes.trapvec (reply : Bool) (v : DWord) : Encodes.Statement (.trapvec reply v) := fun _ h => nomatch h

theorem Encodes.eret : Encodes.Statement (.eret) := by
  intro w h
  obtain ⟨h0, h1⟩ := cut_7_25 (Option.some.inj h).symm
  clear h
  unfold decodeWord
  rw [h0]
  exact if_pos h1

theorem Encodes.cycle (d : BitVec 7) (f : BitVec 4) : Encodes.Statement (.cycle d f) := by
  intro w h
  obtain ⟨h0, h1, h2, h3⟩ := cut_7_7_14_4 (Option.some.inj h).symm
  clear h
  subst h1 h3
  unfold decodeWord
  rw [h0]
  exact if_pos h2

theorem Encodes.tracem (a : BitVec 7) (n : BitVec 11) : Encodes.Statement (.tracem a n) := by
  intro w h
  obtain ⟨h0, h1, h2, h3⟩ := cut_7_7_7_11 (Option.some.inj h).symm
  clear h
  subst h2 h3
  unfold decodeWord
  rw [h0]
  exact if_pos h1

theorem Encodes.chainWaitCut (u : Nat) : Encodes.Statement (.chainWaitCut u) := fun _ h => nomatch h

theorem Encodes.trapDelivery (u : Nat) : Encodes.Statement (.trapDelivery u) := fun _ h => nomatch h

theorem Encodes.faultEntryRetry (k : Nat) : Encodes.Statement (.faultEntryRetry k) := fun _ h => nomatch h

theorem Encodes.pauseEnd (u : Nat) : Encodes.Statement (.pauseEnd u) := fun _ h => nomatch h

theorem Encodes.sleepWake (u : Nat) : Encodes.Statement (.sleepWake u) := fun _ h => nomatch h

theorem Encodes.replyOverdue (c : Nat) : Encodes.Statement (.replyOverdue c) := fun _ h => nomatch h

theorem Encodes.promiseMissed (c : Nat) : Encodes.Statement (.promiseMissed c) := fun _ h => nomatch h

theorem Encodes.barrierTimeout (t : Nat) (b : Nat) : Encodes.Statement (.barrierTimeout t b) := fun _ h => nomatch h

theorem Encodes.heartbeatMissed (region : Nat) : Encodes.Statement (.heartbeatMissed region) := fun _ h => nomatch h

theorem Encodes.xsigTimeout (u : Nat) : Encodes.Statement (.xsigTimeout u) := fun _ h => nomatch h

theorem Encodes.latticeWaitLimit (u : Nat) : Encodes.Statement (.latticeWaitLimit u) := fun _ h => nomatch h

theorem Encodes.remoteBudgetExceeded (u : Nat) : Encodes.Statement (.remoteBudgetExceeded u) := fun _ h => nomatch h

theorem Encodes.postedAckTimeout (p : Nat) : Encodes.Statement (.postedAckTimeout p) := fun _ h => nomatch h

theorem Encodes.ingotArrival (m : Nat) : Encodes.Statement (.ingotArrival m) := fun _ h => nomatch h

theorem Encodes.ingotAdmission (core : Nat) : Encodes.Statement (.ingotAdmission core) := fun _ h => nomatch h

theorem Encodes.distributorPlaceTeam (cores : List Nat) : Encodes.Statement (.distributorPlaceTeam cores) := fun _ h => nomatch h

theorem Encodes.postedOpArrival (m : Nat) : Encodes.Statement (.postedOpArrival m) := fun _ h => nomatch h

theorem Encodes.postedAck (m : Nat) : Encodes.Statement (.postedAck m) := fun _ h => nomatch h

theorem Encodes.heldReleaseSend (p : Nat) : Encodes.Statement (.heldReleaseSend p) := fun _ h => nomatch h

theorem Encodes.flaggedLoadCompletion (l : Nat) : Encodes.Statement (.flaggedLoadCompletion l) := fun _ h => nomatch h

theorem Encodes.forwardedCompletion (m : Nat) : Encodes.Statement (.forwardedCompletion m) := fun _ h => nomatch h

theorem Encodes.exitRemovalMessage (m : Nat) : Encodes.Statement (.exitRemovalMessage m) := fun _ h => nomatch h

theorem Encodes.callArrival (m : Nat) : Encodes.Statement (.callArrival m) := fun _ h => nomatch h

theorem Encodes.replyArrival (m : Nat) : Encodes.Statement (.replyArrival m) := fun _ h => nomatch h

theorem Encodes.retryArrival (m : Nat) : Encodes.Statement (.retryArrival m) := fun _ h => nomatch h

theorem Encodes.replyCacheExpiry (e : Nat) : Encodes.Statement (.replyCacheExpiry e) := fun _ h => nomatch h

theorem Encodes.watermarkExpiry (stack : Nat) (dev : Nat) (core : Nat) : Encodes.Statement (.watermarkExpiry stack dev core) := fun _ h => nomatch h

theorem Encodes.tileMoveAccept (m : Nat) : Encodes.Statement (.tileMoveAccept m) := fun _ h => nomatch h

theorem Encodes.tileMoveCompletion (t : Nat) : Encodes.Statement (.tileMoveCompletion t) := fun _ h => nomatch h

theorem Encodes.tileMoveFault (t : Nat) : Encodes.Statement (.tileMoveFault t) := fun _ h => nomatch h

theorem Encodes.matrixCompletion (core : Nat) : Encodes.Statement (.matrixCompletion core) := fun _ h => nomatch h

theorem Encodes.licenceGrant (pair : Nat) : Encodes.Statement (.licenceGrant pair) := fun _ h => nomatch h

theorem Encodes.licenceReacquire (u : Nat) : Encodes.Statement (.licenceReacquire u) := fun _ h => nomatch h

theorem Encodes.licenceFreeAfterKill (pair : Nat) : Encodes.Statement (.licenceFreeAfterKill pair) := fun _ h => nomatch h

theorem Encodes.burnishRoundStart (base : Nat) : Encodes.Statement (.burnishRoundStart base) := fun _ h => nomatch h

theorem Encodes.roundDelivery (m : Nat) : Encodes.Statement (.roundDelivery m) := fun _ h => nomatch h

theorem Encodes.roundCompletion (base : Nat) : Encodes.Statement (.roundCompletion base) := fun _ h => nomatch h

theorem Encodes.lflushDelivery (m : Nat) : Encodes.Statement (.lflushDelivery m) := fun _ h => nomatch h

theorem Encodes.joinListDelivery (m : Nat) : Encodes.Statement (.joinListDelivery m) := fun _ h => nomatch h

theorem Encodes.replicaReturnCopy (die : Nat) : Encodes.Statement (.replicaReturnCopy die) := fun _ h => nomatch h

theorem Encodes.pageCopyComplete (g : Nat) : Encodes.Statement (.pageCopyComplete g) := fun _ h => nomatch h

theorem Encodes.pageMoveMarker (m : Nat) : Encodes.Statement (.pageMoveMarker m) := fun _ h => nomatch h

theorem Encodes.invalidationAck (v : Nat) (buffer : Nat) : Encodes.Statement (.invalidationAck v buffer) := fun _ h => nomatch h

theorem Encodes.checkpointSave (u : Nat) : Encodes.Statement (.checkpointSave u) := fun _ h => nomatch h

theorem Encodes.launchCompletion (l : Nat) : Encodes.Statement (.launchCompletion l) := fun _ h => nomatch h

theorem Encodes.windowOverrunMark (region : Nat) : Encodes.Statement (.windowOverrunMark region) := fun _ h => nomatch h

theorem Encodes.launch (qp : Nat) : Encodes.Statement (.launch qp) := fun _ h => nomatch h

theorem Encodes.preempt (qp : Nat) : Encodes.Statement (.preempt qp) := fun _ h => nomatch h

theorem Encodes.resume (qp : Nat) : Encodes.Statement (.resume qp) := fun _ h => nomatch h

theorem Encodes.resumeentry (qp : Nat) : Encodes.Statement (.resumeentry qp) := fun _ h => nomatch h

theorem Encodes.killentry (qp : Nat) : Encodes.Statement (.killentry qp) := fun _ h => nomatch h

theorem Encodes.inval (qp : Nat) : Encodes.Statement (.inval qp) := fun _ h => nomatch h

theorem Encodes.pgmove (qp : Nat) : Encodes.Statement (.pgmove qp) := fun _ h => nomatch h

theorem Encodes.clrovr (qp : Nat) : Encodes.Statement (.clrovr qp) := fun _ h => nomatch h

theorem Encodes.latret (qp : Nat) : Encodes.Statement (.latret qp) := fun _ h => nomatch h

theorem Encodes.setwin (qp : Nat) : Encodes.Statement (.setwin qp) := fun _ h => nomatch h

theorem Encodes.setspill (qp : Nat) : Encodes.Statement (.setspill qp) := fun _ h => nomatch h

theorem Encodes.peer (qp : Nat) : Encodes.Statement (.peer qp) := fun _ h => nomatch h

theorem Encodes.inventory (qp : Nat) : Encodes.Statement (.inventory qp) := fun _ h => nomatch h

theorem Encodes.power (qp : Nat) : Encodes.Statement (.power qp) := fun _ h => nomatch h

theorem Encodes.service (qp : Nat) : Encodes.Statement (.service qp) := fun _ h => nomatch h

theorem Encodes.session (qp : Nat) : Encodes.Statement (.session qp) := fun _ h => nomatch h

theorem Encodes.unknownCommand (qp : Nat) : Encodes.Statement (.unknownCommand qp) := fun _ h => nomatch h

theorem Encodes.cmdTail (qp : Nat) (tail : Word) : Encodes.Statement (.cmdTail qp tail) := fun _ h => nomatch h

theorem Encodes.cqHead (qp : Nat) (head : Word) : Encodes.Statement (.cqHead qp head) := fun _ h => nomatch h

theorem Encodes.queuePairSetup (qp : Nat) (bytes : List Byte) : Encodes.Statement (.queuePairSetup qp bytes) := fun _ h => nomatch h

theorem Encodes.rdmaWrite (qp : Nat) (addr : DWord) (bytes : List Byte) : Encodes.Statement (.rdmaWrite qp addr bytes) := fun _ h => nomatch h

theorem Encodes.rdmaRead (qp : Nat) (addr : DWord) (len : Nat) : Encodes.Statement (.rdmaRead qp addr len) := fun _ h => nomatch h

theorem Encodes.roceAtomic (qp : Nat) : Encodes.Statement (.roceAtomic qp) := fun _ h => nomatch h

theorem Encodes.griernDataFrame (k : Nat) : Encodes.Statement (.griernDataFrame k) := fun _ h => nomatch h

theorem Encodes.griernAckFrame (k : Nat) : Encodes.Statement (.griernAckFrame k) := fun _ h => nomatch h

theorem Encodes.griernResendTimer (dev : Nat) (cls : Nat) : Encodes.Statement (.griernResendTimer dev cls) := fun _ h => nomatch h

theorem Encodes.flitCrcError (link : Nat) (lane : Nat) (m : Nat) : Encodes.Statement (.flitCrcError link lane m) := fun _ h => nomatch h

theorem Encodes.laneSampleWindow (link : Nat) (badEye : List Nat) : Encodes.Statement (.laneSampleWindow link badEye) := fun _ h => nomatch h

theorem Encodes.laneSpareSwap (link : Nat) (lane : Nat) : Encodes.Statement (.laneSpareSwap link lane) := fun _ h => nomatch h

theorem Encodes.timeLocked (offset : Word) : Encodes.Statement (.timeLocked offset) := fun _ h => nomatch h

theorem Encodes.timeLockLost (offset : Word) : Encodes.Statement (.timeLockLost offset) := fun _ h => nomatch h

theorem Encodes.coolingLoopLost (bottom : Bool) : Encodes.Statement (.coolingLoopLost bottom) := fun _ h => nomatch h

theorem Encodes.coolingLoopRestored (bottom : Bool) : Encodes.Statement (.coolingLoopRestored bottom) := fun _ h => nomatch h

theorem Encodes.dramOverLimit : Encodes.Statement (.dramOverLimit) := fun _ h => nomatch h

theorem Encodes.stackWake (stack : Nat) : Encodes.Statement (.stackWake stack) := fun _ h => nomatch h

theorem Encodes.deviceReset : Encodes.Statement (.deviceReset) := fun _ h => nomatch h

theorem Encodes.dramCorrectedError (stack : Nat) (bank : Nat) (row : Nat) : Encodes.Statement (.dramCorrectedError stack bank row) := fun _ h => nomatch h

theorem Encodes.uncorrectableError (kind : Nat) (place : Nat) : Encodes.Statement (.uncorrectableError kind place) := fun _ h => nomatch h

theorem Encodes.patrolScrub (stack : Nat) (bank : Nat) (row : Nat) : Encodes.Statement (.patrolScrub stack bank row) := fun _ h => nomatch h

theorem Encodes.registerSpill (u : Nat) : Encodes.Statement (.registerSpill u) := fun _ h => nomatch h

theorem Encodes.selfTestComplete (die : Nat) (pass : Bool) : Encodes.Statement (.selfTestComplete die pass) := fun _ h => nomatch h

theorem Encodes.systemReleaseWindowPassed (u : Nat) : Encodes.Statement (.systemReleaseWindowPassed u) := fun _ h => nomatch h

theorem Encodes.callSequenceReuseWait (u : Nat) : Encodes.Statement (.callSequenceReuseWait u) := fun _ h => nomatch h

theorem Encodes.shippedScratchpadAccess (m : Nat) : Encodes.Statement (.shippedScratchpadAccess m) := fun _ h => nomatch h

theorem Encodes.inlineAccessCompletion (u : Nat) : Encodes.Statement (.inlineAccessCompletion u) := fun _ h => nomatch h

theorem Encodes.issuingCoreRequest (m : Nat) : Encodes.Statement (.issuingCoreRequest m) := fun _ h => nomatch h

theorem Encodes.licenceReleaseMessage (m : Nat) : Encodes.Statement (.licenceReleaseMessage m) := fun _ h => nomatch h

theorem Encodes.barrierReleaseMessage (m : Nat) : Encodes.Statement (.barrierReleaseMessage m) := fun _ h => nomatch h

theorem Encodes.ieee1588Message (port : Nat) (slew : Int) (offset : Int) : Encodes.Statement (.ieee1588Message port slew offset) := fun _ h => nomatch h

end Sys2Proof.Laws
end

