-- ==== Sys2Proof/Laws/State.lean ====
section
/-! SUPPORT. One lemma per field per update of the state: what an update leaves alone, and what it sets. -/

namespace Sys2Proof.Machine

variable (s : State)

/-! ## State.putUnit -/

@[simp] theorem State.putUnit_now (g : Group) : (s.putUnit g).now = s.now := rfl
@[simp] theorem State.putUnit_freeCtr (g : Group) : (s.putUnit g).freeCtr = s.freeCtr := rfl
@[simp] theorem State.putUnit_cur (g : Group) : (s.putUnit g).cur = s.cur := rfl
@[simp] theorem State.putUnit_pipes (g : Group) : (s.putUnit g).pipes = s.pipes := rfl
@[simp] theorem State.putUnit_env (g : Group) : (s.putUnit g).env = s.env := rfl
@[simp] theorem State.putUnit_dram (g : Group) : (s.putUnit g).dram = s.dram := rfl
@[simp] theorem State.putUnit_spad (g : Group) : (s.putUnit g).spad = s.spad := rfl
@[simp] theorem State.putUnit_owners (g : Group) : (s.putUnit g).owners = s.owners := rfl
@[simp] theorem State.putUnit_lat (g : Group) : (s.putUnit g).lat = s.lat := rfl
@[simp] theorem State.putUnit_nextId (g : Group) : (s.putUnit g).nextId = s.nextId := rfl
@[simp] theorem State.putUnit_launches (g : Group) : (s.putUnit g).launches = s.launches := rfl
@[simp] theorem State.putUnit_teams (g : Group) : (s.putUnit g).teams = s.teams := rfl
@[simp] theorem State.putUnit_slots (g : Group) : (s.putUnit g).slots = s.slots := rfl
@[simp] theorem State.putUnit_twins (g : Group) : (s.putUnit g).twins = s.twins := rfl
@[simp] theorem State.putUnit_pairs (g : Group) : (s.putUnit g).pairs = s.pairs := rfl
@[simp] theorem State.putUnit_arrays (g : Group) : (s.putUnit g).arrays = s.arrays := rfl
@[simp] theorem State.putUnit_cores (g : Group) : (s.putUnit g).cores = s.cores := rfl
@[simp] theorem State.putUnit_net (g : Group) : (s.putUnit g).net = s.net := rfl
@[simp] theorem State.putUnit_queue (g : Group) : (s.putUnit g).queue = s.queue := rfl
@[simp] theorem State.putUnit_posted (g : Group) : (s.putUnit g).posted = s.posted := rfl
@[simp] theorem State.putUnit_floads (g : Group) : (s.putUnit g).floads = s.floads := rfl
@[simp] theorem State.putUnit_calls (g : Group) : (s.putUnit g).calls = s.calls := rfl
@[simp] theorem State.putUnit_moves (g : Group) : (s.putUnit g).moves = s.moves := rfl
@[simp] theorem State.putUnit_parked (g : Group) : (s.putUnit g).parked = s.parked := rfl
@[simp] theorem State.putUnit_tlb (g : Group) : (s.putUnit g).tlb = s.tlb := rfl
@[simp] theorem State.putUnit_qps (g : Group) : (s.putUnit g).qps = s.qps := rfl
@[simp] theorem State.putUnit_hostOut (g : Group) : (s.putUnit g).hostOut = s.hostOut := rfl
@[simp] theorem State.putUnit_peers (g : Group) : (s.putUnit g).peers = s.peers := rfl
@[simp] theorem State.putUnit_paths (g : Group) : (s.putUnit g).paths = s.paths := rfl

/-! ## State.modUnit -/

@[simp] theorem State.modUnit_now (u : Nat) (f : Group → Group) : (s.modUnit u f).now = s.now := rfl
@[simp] theorem State.modUnit_freeCtr (u : Nat) (f : Group → Group) : (s.modUnit u f).freeCtr = s.freeCtr := rfl
@[simp] theorem State.modUnit_cur (u : Nat) (f : Group → Group) : (s.modUnit u f).cur = s.cur := rfl
@[simp] theorem State.modUnit_pipes (u : Nat) (f : Group → Group) : (s.modUnit u f).pipes = s.pipes := rfl
@[simp] theorem State.modUnit_env (u : Nat) (f : Group → Group) : (s.modUnit u f).env = s.env := rfl
@[simp] theorem State.modUnit_dram (u : Nat) (f : Group → Group) : (s.modUnit u f).dram = s.dram := rfl
@[simp] theorem State.modUnit_spad (u : Nat) (f : Group → Group) : (s.modUnit u f).spad = s.spad := rfl
@[simp] theorem State.modUnit_owners (u : Nat) (f : Group → Group) : (s.modUnit u f).owners = s.owners := rfl
@[simp] theorem State.modUnit_lat (u : Nat) (f : Group → Group) : (s.modUnit u f).lat = s.lat := rfl
@[simp] theorem State.modUnit_nextId (u : Nat) (f : Group → Group) : (s.modUnit u f).nextId = s.nextId := rfl
@[simp] theorem State.modUnit_launches (u : Nat) (f : Group → Group) : (s.modUnit u f).launches = s.launches := rfl
@[simp] theorem State.modUnit_teams (u : Nat) (f : Group → Group) : (s.modUnit u f).teams = s.teams := rfl
@[simp] theorem State.modUnit_slots (u : Nat) (f : Group → Group) : (s.modUnit u f).slots = s.slots := rfl
@[simp] theorem State.modUnit_twins (u : Nat) (f : Group → Group) : (s.modUnit u f).twins = s.twins := rfl
@[simp] theorem State.modUnit_pairs (u : Nat) (f : Group → Group) : (s.modUnit u f).pairs = s.pairs := rfl
@[simp] theorem State.modUnit_arrays (u : Nat) (f : Group → Group) : (s.modUnit u f).arrays = s.arrays := rfl
@[simp] theorem State.modUnit_cores (u : Nat) (f : Group → Group) : (s.modUnit u f).cores = s.cores := rfl
@[simp] theorem State.modUnit_net (u : Nat) (f : Group → Group) : (s.modUnit u f).net = s.net := rfl
@[simp] theorem State.modUnit_queue (u : Nat) (f : Group → Group) : (s.modUnit u f).queue = s.queue := rfl
@[simp] theorem State.modUnit_posted (u : Nat) (f : Group → Group) : (s.modUnit u f).posted = s.posted := rfl
@[simp] theorem State.modUnit_floads (u : Nat) (f : Group → Group) : (s.modUnit u f).floads = s.floads := rfl
@[simp] theorem State.modUnit_calls (u : Nat) (f : Group → Group) : (s.modUnit u f).calls = s.calls := rfl
@[simp] theorem State.modUnit_moves (u : Nat) (f : Group → Group) : (s.modUnit u f).moves = s.moves := rfl
@[simp] theorem State.modUnit_parked (u : Nat) (f : Group → Group) : (s.modUnit u f).parked = s.parked := rfl
@[simp] theorem State.modUnit_tlb (u : Nat) (f : Group → Group) : (s.modUnit u f).tlb = s.tlb := rfl
@[simp] theorem State.modUnit_qps (u : Nat) (f : Group → Group) : (s.modUnit u f).qps = s.qps := rfl
@[simp] theorem State.modUnit_hostOut (u : Nat) (f : Group → Group) : (s.modUnit u f).hostOut = s.hostOut := rfl
@[simp] theorem State.modUnit_peers (u : Nat) (f : Group → Group) : (s.modUnit u f).peers = s.peers := rfl
@[simp] theorem State.modUnit_paths (u : Nat) (f : Group → Group) : (s.modUnit u f).paths = s.paths := rfl

/-! ## State.dropUnit -/

@[simp] theorem State.dropUnit_now (u : Nat) : (s.dropUnit u).now = s.now := rfl
@[simp] theorem State.dropUnit_freeCtr (u : Nat) : (s.dropUnit u).freeCtr = s.freeCtr := rfl
@[simp] theorem State.dropUnit_cur (u : Nat) : (s.dropUnit u).cur = s.cur := rfl
@[simp] theorem State.dropUnit_pipes (u : Nat) : (s.dropUnit u).pipes = s.pipes := rfl
@[simp] theorem State.dropUnit_env (u : Nat) : (s.dropUnit u).env = s.env := rfl
@[simp] theorem State.dropUnit_dram (u : Nat) : (s.dropUnit u).dram = s.dram := rfl
@[simp] theorem State.dropUnit_spad (u : Nat) : (s.dropUnit u).spad = s.spad := rfl
@[simp] theorem State.dropUnit_owners (u : Nat) : (s.dropUnit u).owners = s.owners := rfl
@[simp] theorem State.dropUnit_lat (u : Nat) : (s.dropUnit u).lat = s.lat := rfl
@[simp] theorem State.dropUnit_nextId (u : Nat) : (s.dropUnit u).nextId = s.nextId := rfl
@[simp] theorem State.dropUnit_launches (u : Nat) : (s.dropUnit u).launches = s.launches := rfl
@[simp] theorem State.dropUnit_teams (u : Nat) : (s.dropUnit u).teams = s.teams := rfl
@[simp] theorem State.dropUnit_slots (u : Nat) : (s.dropUnit u).slots = s.slots := rfl
@[simp] theorem State.dropUnit_twins (u : Nat) : (s.dropUnit u).twins = s.twins := rfl
@[simp] theorem State.dropUnit_pairs (u : Nat) : (s.dropUnit u).pairs = s.pairs := rfl
@[simp] theorem State.dropUnit_arrays (u : Nat) : (s.dropUnit u).arrays = s.arrays := rfl
@[simp] theorem State.dropUnit_cores (u : Nat) : (s.dropUnit u).cores = s.cores := rfl
@[simp] theorem State.dropUnit_net (u : Nat) : (s.dropUnit u).net = s.net := rfl
@[simp] theorem State.dropUnit_queue (u : Nat) : (s.dropUnit u).queue = s.queue := rfl
@[simp] theorem State.dropUnit_posted (u : Nat) : (s.dropUnit u).posted = s.posted := rfl
@[simp] theorem State.dropUnit_floads (u : Nat) : (s.dropUnit u).floads = s.floads := rfl
@[simp] theorem State.dropUnit_calls (u : Nat) : (s.dropUnit u).calls = s.calls := rfl
@[simp] theorem State.dropUnit_moves (u : Nat) : (s.dropUnit u).moves = s.moves := rfl
@[simp] theorem State.dropUnit_parked (u : Nat) : (s.dropUnit u).parked = s.parked := rfl
@[simp] theorem State.dropUnit_tlb (u : Nat) : (s.dropUnit u).tlb = s.tlb := rfl
@[simp] theorem State.dropUnit_qps (u : Nat) : (s.dropUnit u).qps = s.qps := rfl
@[simp] theorem State.dropUnit_hostOut (u : Nat) : (s.dropUnit u).hostOut = s.hostOut := rfl
@[simp] theorem State.dropUnit_peers (u : Nat) : (s.dropUnit u).peers = s.peers := rfl
@[simp] theorem State.dropUnit_paths (u : Nat) : (s.dropUnit u).paths = s.paths := rfl

/-! ## State.addUnit -/

@[simp] theorem State.addUnit_now (g : Group) : (s.addUnit g).now = s.now := rfl
@[simp] theorem State.addUnit_freeCtr (g : Group) : (s.addUnit g).freeCtr = s.freeCtr := rfl
@[simp] theorem State.addUnit_cur (g : Group) : (s.addUnit g).cur = s.cur := rfl
@[simp] theorem State.addUnit_pipes (g : Group) : (s.addUnit g).pipes = s.pipes := rfl
@[simp] theorem State.addUnit_env (g : Group) : (s.addUnit g).env = s.env := rfl
@[simp] theorem State.addUnit_dram (g : Group) : (s.addUnit g).dram = s.dram := rfl
@[simp] theorem State.addUnit_spad (g : Group) : (s.addUnit g).spad = s.spad := rfl
@[simp] theorem State.addUnit_owners (g : Group) : (s.addUnit g).owners = s.owners := rfl
@[simp] theorem State.addUnit_lat (g : Group) : (s.addUnit g).lat = s.lat := rfl
@[simp] theorem State.addUnit_nextId (g : Group) : (s.addUnit g).nextId = s.nextId := rfl
@[simp] theorem State.addUnit_launches (g : Group) : (s.addUnit g).launches = s.launches := rfl
@[simp] theorem State.addUnit_teams (g : Group) : (s.addUnit g).teams = s.teams := rfl
@[simp] theorem State.addUnit_slots (g : Group) : (s.addUnit g).slots = s.slots := rfl
@[simp] theorem State.addUnit_twins (g : Group) : (s.addUnit g).twins = s.twins := rfl
@[simp] theorem State.addUnit_pairs (g : Group) : (s.addUnit g).pairs = s.pairs := rfl
@[simp] theorem State.addUnit_arrays (g : Group) : (s.addUnit g).arrays = s.arrays := rfl
@[simp] theorem State.addUnit_cores (g : Group) : (s.addUnit g).cores = s.cores := rfl
@[simp] theorem State.addUnit_net (g : Group) : (s.addUnit g).net = s.net := rfl
@[simp] theorem State.addUnit_queue (g : Group) : (s.addUnit g).queue = s.queue := rfl
@[simp] theorem State.addUnit_posted (g : Group) : (s.addUnit g).posted = s.posted := rfl
@[simp] theorem State.addUnit_floads (g : Group) : (s.addUnit g).floads = s.floads := rfl
@[simp] theorem State.addUnit_calls (g : Group) : (s.addUnit g).calls = s.calls := rfl
@[simp] theorem State.addUnit_moves (g : Group) : (s.addUnit g).moves = s.moves := rfl
@[simp] theorem State.addUnit_parked (g : Group) : (s.addUnit g).parked = s.parked := rfl
@[simp] theorem State.addUnit_tlb (g : Group) : (s.addUnit g).tlb = s.tlb := rfl
@[simp] theorem State.addUnit_qps (g : Group) : (s.addUnit g).qps = s.qps := rfl
@[simp] theorem State.addUnit_hostOut (g : Group) : (s.addUnit g).hostOut = s.hostOut := rfl
@[simp] theorem State.addUnit_peers (g : Group) : (s.addUnit g).peers = s.peers := rfl
@[simp] theorem State.addUnit_paths (g : Group) : (s.addUnit g).paths = s.paths := rfl

/-! ## State.putSlot -/

@[simp] theorem State.putSlot_now (x : Slot) : (s.putSlot x).now = s.now := rfl
@[simp] theorem State.putSlot_freeCtr (x : Slot) : (s.putSlot x).freeCtr = s.freeCtr := rfl
@[simp] theorem State.putSlot_cur (x : Slot) : (s.putSlot x).cur = s.cur := rfl
@[simp] theorem State.putSlot_pipes (x : Slot) : (s.putSlot x).pipes = s.pipes := rfl
@[simp] theorem State.putSlot_env (x : Slot) : (s.putSlot x).env = s.env := rfl
@[simp] theorem State.putSlot_dram (x : Slot) : (s.putSlot x).dram = s.dram := rfl
@[simp] theorem State.putSlot_spad (x : Slot) : (s.putSlot x).spad = s.spad := rfl
@[simp] theorem State.putSlot_owners (x : Slot) : (s.putSlot x).owners = s.owners := rfl
@[simp] theorem State.putSlot_lat (x : Slot) : (s.putSlot x).lat = s.lat := rfl
@[simp] theorem State.putSlot_nextId (x : Slot) : (s.putSlot x).nextId = s.nextId := rfl
@[simp] theorem State.putSlot_launches (x : Slot) : (s.putSlot x).launches = s.launches := rfl
@[simp] theorem State.putSlot_teams (x : Slot) : (s.putSlot x).teams = s.teams := rfl
@[simp] theorem State.putSlot_units (x : Slot) : (s.putSlot x).units = s.units := rfl
@[simp] theorem State.putSlot_twins (x : Slot) : (s.putSlot x).twins = s.twins := rfl
@[simp] theorem State.putSlot_pairs (x : Slot) : (s.putSlot x).pairs = s.pairs := rfl
@[simp] theorem State.putSlot_arrays (x : Slot) : (s.putSlot x).arrays = s.arrays := rfl
@[simp] theorem State.putSlot_cores (x : Slot) : (s.putSlot x).cores = s.cores := rfl
@[simp] theorem State.putSlot_net (x : Slot) : (s.putSlot x).net = s.net := rfl
@[simp] theorem State.putSlot_queue (x : Slot) : (s.putSlot x).queue = s.queue := rfl
@[simp] theorem State.putSlot_posted (x : Slot) : (s.putSlot x).posted = s.posted := rfl
@[simp] theorem State.putSlot_floads (x : Slot) : (s.putSlot x).floads = s.floads := rfl
@[simp] theorem State.putSlot_calls (x : Slot) : (s.putSlot x).calls = s.calls := rfl
@[simp] theorem State.putSlot_moves (x : Slot) : (s.putSlot x).moves = s.moves := rfl
@[simp] theorem State.putSlot_parked (x : Slot) : (s.putSlot x).parked = s.parked := rfl
@[simp] theorem State.putSlot_tlb (x : Slot) : (s.putSlot x).tlb = s.tlb := rfl
@[simp] theorem State.putSlot_qps (x : Slot) : (s.putSlot x).qps = s.qps := rfl
@[simp] theorem State.putSlot_hostOut (x : Slot) : (s.putSlot x).hostOut = s.hostOut := rfl
@[simp] theorem State.putSlot_peers (x : Slot) : (s.putSlot x).peers = s.peers := rfl
@[simp] theorem State.putSlot_paths (x : Slot) : (s.putSlot x).paths = s.paths := rfl

/-! ## State.freeSlot -/

@[simp] theorem State.freeSlot_now (c k : Nat) : (s.freeSlot c k).now = s.now := rfl
@[simp] theorem State.freeSlot_freeCtr (c k : Nat) : (s.freeSlot c k).freeCtr = s.freeCtr := rfl
@[simp] theorem State.freeSlot_cur (c k : Nat) : (s.freeSlot c k).cur = s.cur := rfl
@[simp] theorem State.freeSlot_pipes (c k : Nat) : (s.freeSlot c k).pipes = s.pipes := rfl
@[simp] theorem State.freeSlot_env (c k : Nat) : (s.freeSlot c k).env = s.env := rfl
@[simp] theorem State.freeSlot_dram (c k : Nat) : (s.freeSlot c k).dram = s.dram := rfl
@[simp] theorem State.freeSlot_spad (c k : Nat) : (s.freeSlot c k).spad = s.spad := rfl
@[simp] theorem State.freeSlot_owners (c k : Nat) : (s.freeSlot c k).owners = s.owners := rfl
@[simp] theorem State.freeSlot_lat (c k : Nat) : (s.freeSlot c k).lat = s.lat := rfl
@[simp] theorem State.freeSlot_nextId (c k : Nat) : (s.freeSlot c k).nextId = s.nextId := rfl
@[simp] theorem State.freeSlot_launches (c k : Nat) : (s.freeSlot c k).launches = s.launches := rfl
@[simp] theorem State.freeSlot_teams (c k : Nat) : (s.freeSlot c k).teams = s.teams := rfl
@[simp] theorem State.freeSlot_units (c k : Nat) : (s.freeSlot c k).units = s.units := rfl
@[simp] theorem State.freeSlot_twins (c k : Nat) : (s.freeSlot c k).twins = s.twins := rfl
@[simp] theorem State.freeSlot_pairs (c k : Nat) : (s.freeSlot c k).pairs = s.pairs := rfl
@[simp] theorem State.freeSlot_arrays (c k : Nat) : (s.freeSlot c k).arrays = s.arrays := rfl
@[simp] theorem State.freeSlot_cores (c k : Nat) : (s.freeSlot c k).cores = s.cores := rfl
@[simp] theorem State.freeSlot_net (c k : Nat) : (s.freeSlot c k).net = s.net := rfl
@[simp] theorem State.freeSlot_queue (c k : Nat) : (s.freeSlot c k).queue = s.queue := rfl
@[simp] theorem State.freeSlot_posted (c k : Nat) : (s.freeSlot c k).posted = s.posted := rfl
@[simp] theorem State.freeSlot_floads (c k : Nat) : (s.freeSlot c k).floads = s.floads := rfl
@[simp] theorem State.freeSlot_calls (c k : Nat) : (s.freeSlot c k).calls = s.calls := rfl
@[simp] theorem State.freeSlot_moves (c k : Nat) : (s.freeSlot c k).moves = s.moves := rfl
@[simp] theorem State.freeSlot_parked (c k : Nat) : (s.freeSlot c k).parked = s.parked := rfl
@[simp] theorem State.freeSlot_tlb (c k : Nat) : (s.freeSlot c k).tlb = s.tlb := rfl
@[simp] theorem State.freeSlot_qps (c k : Nat) : (s.freeSlot c k).qps = s.qps := rfl
@[simp] theorem State.freeSlot_hostOut (c k : Nat) : (s.freeSlot c k).hostOut = s.hostOut := rfl
@[simp] theorem State.freeSlot_peers (c k : Nat) : (s.freeSlot c k).peers = s.peers := rfl
@[simp] theorem State.freeSlot_paths (c k : Nat) : (s.freeSlot c k).paths = s.paths := rfl

/-! ## State.modLaunch -/

@[simp] theorem State.modLaunch_now (l : Nat) (f : Launch → Launch) : (s.modLaunch l f).now = s.now := rfl
@[simp] theorem State.modLaunch_freeCtr (l : Nat) (f : Launch → Launch) : (s.modLaunch l f).freeCtr = s.freeCtr := rfl
@[simp] theorem State.modLaunch_cur (l : Nat) (f : Launch → Launch) : (s.modLaunch l f).cur = s.cur := rfl
@[simp] theorem State.modLaunch_pipes (l : Nat) (f : Launch → Launch) : (s.modLaunch l f).pipes = s.pipes := rfl
@[simp] theorem State.modLaunch_env (l : Nat) (f : Launch → Launch) : (s.modLaunch l f).env = s.env := rfl
@[simp] theorem State.modLaunch_dram (l : Nat) (f : Launch → Launch) : (s.modLaunch l f).dram = s.dram := rfl
@[simp] theorem State.modLaunch_spad (l : Nat) (f : Launch → Launch) : (s.modLaunch l f).spad = s.spad := rfl
@[simp] theorem State.modLaunch_owners (l : Nat) (f : Launch → Launch) : (s.modLaunch l f).owners = s.owners := rfl
@[simp] theorem State.modLaunch_lat (l : Nat) (f : Launch → Launch) : (s.modLaunch l f).lat = s.lat := rfl
@[simp] theorem State.modLaunch_nextId (l : Nat) (f : Launch → Launch) : (s.modLaunch l f).nextId = s.nextId := rfl
@[simp] theorem State.modLaunch_teams (l : Nat) (f : Launch → Launch) : (s.modLaunch l f).teams = s.teams := rfl
@[simp] theorem State.modLaunch_units (l : Nat) (f : Launch → Launch) : (s.modLaunch l f).units = s.units := rfl
@[simp] theorem State.modLaunch_slots (l : Nat) (f : Launch → Launch) : (s.modLaunch l f).slots = s.slots := rfl
@[simp] theorem State.modLaunch_twins (l : Nat) (f : Launch → Launch) : (s.modLaunch l f).twins = s.twins := rfl
@[simp] theorem State.modLaunch_pairs (l : Nat) (f : Launch → Launch) : (s.modLaunch l f).pairs = s.pairs := rfl
@[simp] theorem State.modLaunch_arrays (l : Nat) (f : Launch → Launch) : (s.modLaunch l f).arrays = s.arrays := rfl
@[simp] theorem State.modLaunch_cores (l : Nat) (f : Launch → Launch) : (s.modLaunch l f).cores = s.cores := rfl
@[simp] theorem State.modLaunch_net (l : Nat) (f : Launch → Launch) : (s.modLaunch l f).net = s.net := rfl
@[simp] theorem State.modLaunch_queue (l : Nat) (f : Launch → Launch) : (s.modLaunch l f).queue = s.queue := rfl
@[simp] theorem State.modLaunch_posted (l : Nat) (f : Launch → Launch) : (s.modLaunch l f).posted = s.posted := rfl
@[simp] theorem State.modLaunch_floads (l : Nat) (f : Launch → Launch) : (s.modLaunch l f).floads = s.floads := rfl
@[simp] theorem State.modLaunch_calls (l : Nat) (f : Launch → Launch) : (s.modLaunch l f).calls = s.calls := rfl
@[simp] theorem State.modLaunch_moves (l : Nat) (f : Launch → Launch) : (s.modLaunch l f).moves = s.moves := rfl
@[simp] theorem State.modLaunch_parked (l : Nat) (f : Launch → Launch) : (s.modLaunch l f).parked = s.parked := rfl
@[simp] theorem State.modLaunch_tlb (l : Nat) (f : Launch → Launch) : (s.modLaunch l f).tlb = s.tlb := rfl
@[simp] theorem State.modLaunch_qps (l : Nat) (f : Launch → Launch) : (s.modLaunch l f).qps = s.qps := rfl
@[simp] theorem State.modLaunch_hostOut (l : Nat) (f : Launch → Launch) : (s.modLaunch l f).hostOut = s.hostOut := rfl
@[simp] theorem State.modLaunch_peers (l : Nat) (f : Launch → Launch) : (s.modLaunch l f).peers = s.peers := rfl
@[simp] theorem State.modLaunch_paths (l : Nat) (f : Launch → Launch) : (s.modLaunch l f).paths = s.paths := rfl

/-! ## State.putCore -/

@[simp] theorem State.putCore_now (x : CoreState) : (s.putCore x).now = s.now := rfl
@[simp] theorem State.putCore_freeCtr (x : CoreState) : (s.putCore x).freeCtr = s.freeCtr := rfl
@[simp] theorem State.putCore_cur (x : CoreState) : (s.putCore x).cur = s.cur := rfl
@[simp] theorem State.putCore_pipes (x : CoreState) : (s.putCore x).pipes = s.pipes := rfl
@[simp] theorem State.putCore_env (x : CoreState) : (s.putCore x).env = s.env := rfl
@[simp] theorem State.putCore_dram (x : CoreState) : (s.putCore x).dram = s.dram := rfl
@[simp] theorem State.putCore_spad (x : CoreState) : (s.putCore x).spad = s.spad := rfl
@[simp] theorem State.putCore_owners (x : CoreState) : (s.putCore x).owners = s.owners := rfl
@[simp] theorem State.putCore_lat (x : CoreState) : (s.putCore x).lat = s.lat := rfl
@[simp] theorem State.putCore_nextId (x : CoreState) : (s.putCore x).nextId = s.nextId := rfl
@[simp] theorem State.putCore_launches (x : CoreState) : (s.putCore x).launches = s.launches := rfl
@[simp] theorem State.putCore_teams (x : CoreState) : (s.putCore x).teams = s.teams := rfl
@[simp] theorem State.putCore_units (x : CoreState) : (s.putCore x).units = s.units := rfl
@[simp] theorem State.putCore_slots (x : CoreState) : (s.putCore x).slots = s.slots := rfl
@[simp] theorem State.putCore_twins (x : CoreState) : (s.putCore x).twins = s.twins := rfl
@[simp] theorem State.putCore_pairs (x : CoreState) : (s.putCore x).pairs = s.pairs := rfl
@[simp] theorem State.putCore_arrays (x : CoreState) : (s.putCore x).arrays = s.arrays := rfl
@[simp] theorem State.putCore_net (x : CoreState) : (s.putCore x).net = s.net := rfl
@[simp] theorem State.putCore_queue (x : CoreState) : (s.putCore x).queue = s.queue := rfl
@[simp] theorem State.putCore_posted (x : CoreState) : (s.putCore x).posted = s.posted := rfl
@[simp] theorem State.putCore_floads (x : CoreState) : (s.putCore x).floads = s.floads := rfl
@[simp] theorem State.putCore_calls (x : CoreState) : (s.putCore x).calls = s.calls := rfl
@[simp] theorem State.putCore_moves (x : CoreState) : (s.putCore x).moves = s.moves := rfl
@[simp] theorem State.putCore_parked (x : CoreState) : (s.putCore x).parked = s.parked := rfl
@[simp] theorem State.putCore_tlb (x : CoreState) : (s.putCore x).tlb = s.tlb := rfl
@[simp] theorem State.putCore_qps (x : CoreState) : (s.putCore x).qps = s.qps := rfl
@[simp] theorem State.putCore_hostOut (x : CoreState) : (s.putCore x).hostOut = s.hostOut := rfl
@[simp] theorem State.putCore_peers (x : CoreState) : (s.putCore x).peers = s.peers := rfl
@[simp] theorem State.putCore_paths (x : CoreState) : (s.putCore x).paths = s.paths := rfl

/-! ## State.send -/

@[simp] theorem State.send_now (k : MsgClass) (a b : Nat) (p : Payload) : (s.send k a b p).now = s.now := rfl
@[simp] theorem State.send_freeCtr (k : MsgClass) (a b : Nat) (p : Payload) : (s.send k a b p).freeCtr = s.freeCtr := rfl
@[simp] theorem State.send_cur (k : MsgClass) (a b : Nat) (p : Payload) : (s.send k a b p).cur = s.cur := rfl
@[simp] theorem State.send_pipes (k : MsgClass) (a b : Nat) (p : Payload) : (s.send k a b p).pipes = s.pipes := rfl
@[simp] theorem State.send_env (k : MsgClass) (a b : Nat) (p : Payload) : (s.send k a b p).env = s.env := rfl
@[simp] theorem State.send_dram (k : MsgClass) (a b : Nat) (p : Payload) : (s.send k a b p).dram = s.dram := rfl
@[simp] theorem State.send_spad (k : MsgClass) (a b : Nat) (p : Payload) : (s.send k a b p).spad = s.spad := rfl
@[simp] theorem State.send_owners (k : MsgClass) (a b : Nat) (p : Payload) : (s.send k a b p).owners = s.owners := rfl
@[simp] theorem State.send_lat (k : MsgClass) (a b : Nat) (p : Payload) : (s.send k a b p).lat = s.lat := rfl
@[simp] theorem State.send_launches (k : MsgClass) (a b : Nat) (p : Payload) : (s.send k a b p).launches = s.launches := rfl
@[simp] theorem State.send_teams (k : MsgClass) (a b : Nat) (p : Payload) : (s.send k a b p).teams = s.teams := rfl
@[simp] theorem State.send_units (k : MsgClass) (a b : Nat) (p : Payload) : (s.send k a b p).units = s.units := rfl
@[simp] theorem State.send_slots (k : MsgClass) (a b : Nat) (p : Payload) : (s.send k a b p).slots = s.slots := rfl
@[simp] theorem State.send_twins (k : MsgClass) (a b : Nat) (p : Payload) : (s.send k a b p).twins = s.twins := rfl
@[simp] theorem State.send_pairs (k : MsgClass) (a b : Nat) (p : Payload) : (s.send k a b p).pairs = s.pairs := rfl
@[simp] theorem State.send_arrays (k : MsgClass) (a b : Nat) (p : Payload) : (s.send k a b p).arrays = s.arrays := rfl
@[simp] theorem State.send_cores (k : MsgClass) (a b : Nat) (p : Payload) : (s.send k a b p).cores = s.cores := rfl
@[simp] theorem State.send_queue (k : MsgClass) (a b : Nat) (p : Payload) : (s.send k a b p).queue = s.queue := rfl
@[simp] theorem State.send_posted (k : MsgClass) (a b : Nat) (p : Payload) : (s.send k a b p).posted = s.posted := rfl
@[simp] theorem State.send_floads (k : MsgClass) (a b : Nat) (p : Payload) : (s.send k a b p).floads = s.floads := rfl
@[simp] theorem State.send_calls (k : MsgClass) (a b : Nat) (p : Payload) : (s.send k a b p).calls = s.calls := rfl
@[simp] theorem State.send_moves (k : MsgClass) (a b : Nat) (p : Payload) : (s.send k a b p).moves = s.moves := rfl
@[simp] theorem State.send_parked (k : MsgClass) (a b : Nat) (p : Payload) : (s.send k a b p).parked = s.parked := rfl
@[simp] theorem State.send_tlb (k : MsgClass) (a b : Nat) (p : Payload) : (s.send k a b p).tlb = s.tlb := rfl
@[simp] theorem State.send_qps (k : MsgClass) (a b : Nat) (p : Payload) : (s.send k a b p).qps = s.qps := rfl
@[simp] theorem State.send_hostOut (k : MsgClass) (a b : Nat) (p : Payload) : (s.send k a b p).hostOut = s.hostOut := rfl
@[simp] theorem State.send_peers (k : MsgClass) (a b : Nat) (p : Payload) : (s.send k a b p).peers = s.peers := rfl
@[simp] theorem State.send_paths (k : MsgClass) (a b : Nat) (p : Payload) : (s.send k a b p).paths = s.paths := rfl

/-! ## State.dropMsg -/

@[simp] theorem State.dropMsg_now (m : Nat) : (s.dropMsg m).now = s.now := rfl
@[simp] theorem State.dropMsg_freeCtr (m : Nat) : (s.dropMsg m).freeCtr = s.freeCtr := rfl
@[simp] theorem State.dropMsg_cur (m : Nat) : (s.dropMsg m).cur = s.cur := rfl
@[simp] theorem State.dropMsg_pipes (m : Nat) : (s.dropMsg m).pipes = s.pipes := rfl
@[simp] theorem State.dropMsg_env (m : Nat) : (s.dropMsg m).env = s.env := rfl
@[simp] theorem State.dropMsg_dram (m : Nat) : (s.dropMsg m).dram = s.dram := rfl
@[simp] theorem State.dropMsg_spad (m : Nat) : (s.dropMsg m).spad = s.spad := rfl
@[simp] theorem State.dropMsg_owners (m : Nat) : (s.dropMsg m).owners = s.owners := rfl
@[simp] theorem State.dropMsg_lat (m : Nat) : (s.dropMsg m).lat = s.lat := rfl
@[simp] theorem State.dropMsg_nextId (m : Nat) : (s.dropMsg m).nextId = s.nextId := rfl
@[simp] theorem State.dropMsg_launches (m : Nat) : (s.dropMsg m).launches = s.launches := rfl
@[simp] theorem State.dropMsg_teams (m : Nat) : (s.dropMsg m).teams = s.teams := rfl
@[simp] theorem State.dropMsg_units (m : Nat) : (s.dropMsg m).units = s.units := rfl
@[simp] theorem State.dropMsg_slots (m : Nat) : (s.dropMsg m).slots = s.slots := rfl
@[simp] theorem State.dropMsg_twins (m : Nat) : (s.dropMsg m).twins = s.twins := rfl
@[simp] theorem State.dropMsg_pairs (m : Nat) : (s.dropMsg m).pairs = s.pairs := rfl
@[simp] theorem State.dropMsg_arrays (m : Nat) : (s.dropMsg m).arrays = s.arrays := rfl
@[simp] theorem State.dropMsg_cores (m : Nat) : (s.dropMsg m).cores = s.cores := rfl
@[simp] theorem State.dropMsg_queue (m : Nat) : (s.dropMsg m).queue = s.queue := rfl
@[simp] theorem State.dropMsg_posted (m : Nat) : (s.dropMsg m).posted = s.posted := rfl
@[simp] theorem State.dropMsg_floads (m : Nat) : (s.dropMsg m).floads = s.floads := rfl
@[simp] theorem State.dropMsg_calls (m : Nat) : (s.dropMsg m).calls = s.calls := rfl
@[simp] theorem State.dropMsg_moves (m : Nat) : (s.dropMsg m).moves = s.moves := rfl
@[simp] theorem State.dropMsg_parked (m : Nat) : (s.dropMsg m).parked = s.parked := rfl
@[simp] theorem State.dropMsg_tlb (m : Nat) : (s.dropMsg m).tlb = s.tlb := rfl
@[simp] theorem State.dropMsg_qps (m : Nat) : (s.dropMsg m).qps = s.qps := rfl
@[simp] theorem State.dropMsg_hostOut (m : Nat) : (s.dropMsg m).hostOut = s.hostOut := rfl
@[simp] theorem State.dropMsg_peers (m : Nat) : (s.dropMsg m).peers = s.peers := rfl
@[simp] theorem State.dropMsg_paths (m : Nat) : (s.dropMsg m).paths = s.paths := rfl

/-! ## State.putTwin -/

@[simp] theorem State.putTwin_now (w : TwinWindow) : (s.putTwin w).now = s.now := rfl
@[simp] theorem State.putTwin_freeCtr (w : TwinWindow) : (s.putTwin w).freeCtr = s.freeCtr := rfl
@[simp] theorem State.putTwin_cur (w : TwinWindow) : (s.putTwin w).cur = s.cur := rfl
@[simp] theorem State.putTwin_pipes (w : TwinWindow) : (s.putTwin w).pipes = s.pipes := rfl
@[simp] theorem State.putTwin_env (w : TwinWindow) : (s.putTwin w).env = s.env := rfl
@[simp] theorem State.putTwin_dram (w : TwinWindow) : (s.putTwin w).dram = s.dram := rfl
@[simp] theorem State.putTwin_spad (w : TwinWindow) : (s.putTwin w).spad = s.spad := rfl
@[simp] theorem State.putTwin_owners (w : TwinWindow) : (s.putTwin w).owners = s.owners := rfl
@[simp] theorem State.putTwin_lat (w : TwinWindow) : (s.putTwin w).lat = s.lat := rfl
@[simp] theorem State.putTwin_nextId (w : TwinWindow) : (s.putTwin w).nextId = s.nextId := rfl
@[simp] theorem State.putTwin_launches (w : TwinWindow) : (s.putTwin w).launches = s.launches := rfl
@[simp] theorem State.putTwin_teams (w : TwinWindow) : (s.putTwin w).teams = s.teams := rfl
@[simp] theorem State.putTwin_units (w : TwinWindow) : (s.putTwin w).units = s.units := rfl
@[simp] theorem State.putTwin_slots (w : TwinWindow) : (s.putTwin w).slots = s.slots := rfl
@[simp] theorem State.putTwin_pairs (w : TwinWindow) : (s.putTwin w).pairs = s.pairs := rfl
@[simp] theorem State.putTwin_arrays (w : TwinWindow) : (s.putTwin w).arrays = s.arrays := rfl
@[simp] theorem State.putTwin_cores (w : TwinWindow) : (s.putTwin w).cores = s.cores := rfl
@[simp] theorem State.putTwin_net (w : TwinWindow) : (s.putTwin w).net = s.net := rfl
@[simp] theorem State.putTwin_queue (w : TwinWindow) : (s.putTwin w).queue = s.queue := rfl
@[simp] theorem State.putTwin_posted (w : TwinWindow) : (s.putTwin w).posted = s.posted := rfl
@[simp] theorem State.putTwin_floads (w : TwinWindow) : (s.putTwin w).floads = s.floads := rfl
@[simp] theorem State.putTwin_calls (w : TwinWindow) : (s.putTwin w).calls = s.calls := rfl
@[simp] theorem State.putTwin_moves (w : TwinWindow) : (s.putTwin w).moves = s.moves := rfl
@[simp] theorem State.putTwin_parked (w : TwinWindow) : (s.putTwin w).parked = s.parked := rfl
@[simp] theorem State.putTwin_tlb (w : TwinWindow) : (s.putTwin w).tlb = s.tlb := rfl
@[simp] theorem State.putTwin_qps (w : TwinWindow) : (s.putTwin w).qps = s.qps := rfl
@[simp] theorem State.putTwin_hostOut (w : TwinWindow) : (s.putTwin w).hostOut = s.hostOut := rfl
@[simp] theorem State.putTwin_peers (w : TwinWindow) : (s.putTwin w).peers = s.peers := rfl
@[simp] theorem State.putTwin_paths (w : TwinWindow) : (s.putTwin w).paths = s.paths := rfl

/-! ## State.putTeam -/

@[simp] theorem State.putTeam_now (t : Team) : (s.putTeam t).now = s.now := rfl
@[simp] theorem State.putTeam_freeCtr (t : Team) : (s.putTeam t).freeCtr = s.freeCtr := rfl
@[simp] theorem State.putTeam_cur (t : Team) : (s.putTeam t).cur = s.cur := rfl
@[simp] theorem State.putTeam_pipes (t : Team) : (s.putTeam t).pipes = s.pipes := rfl
@[simp] theorem State.putTeam_env (t : Team) : (s.putTeam t).env = s.env := rfl
@[simp] theorem State.putTeam_dram (t : Team) : (s.putTeam t).dram = s.dram := rfl
@[simp] theorem State.putTeam_spad (t : Team) : (s.putTeam t).spad = s.spad := rfl
@[simp] theorem State.putTeam_owners (t : Team) : (s.putTeam t).owners = s.owners := rfl
@[simp] theorem State.putTeam_lat (t : Team) : (s.putTeam t).lat = s.lat := rfl
@[simp] theorem State.putTeam_nextId (t : Team) : (s.putTeam t).nextId = s.nextId := rfl
@[simp] theorem State.putTeam_launches (t : Team) : (s.putTeam t).launches = s.launches := rfl
@[simp] theorem State.putTeam_units (t : Team) : (s.putTeam t).units = s.units := rfl
@[simp] theorem State.putTeam_slots (t : Team) : (s.putTeam t).slots = s.slots := rfl
@[simp] theorem State.putTeam_twins (t : Team) : (s.putTeam t).twins = s.twins := rfl
@[simp] theorem State.putTeam_pairs (t : Team) : (s.putTeam t).pairs = s.pairs := rfl
@[simp] theorem State.putTeam_arrays (t : Team) : (s.putTeam t).arrays = s.arrays := rfl
@[simp] theorem State.putTeam_cores (t : Team) : (s.putTeam t).cores = s.cores := rfl
@[simp] theorem State.putTeam_net (t : Team) : (s.putTeam t).net = s.net := rfl
@[simp] theorem State.putTeam_queue (t : Team) : (s.putTeam t).queue = s.queue := rfl
@[simp] theorem State.putTeam_posted (t : Team) : (s.putTeam t).posted = s.posted := rfl
@[simp] theorem State.putTeam_floads (t : Team) : (s.putTeam t).floads = s.floads := rfl
@[simp] theorem State.putTeam_calls (t : Team) : (s.putTeam t).calls = s.calls := rfl
@[simp] theorem State.putTeam_moves (t : Team) : (s.putTeam t).moves = s.moves := rfl
@[simp] theorem State.putTeam_parked (t : Team) : (s.putTeam t).parked = s.parked := rfl
@[simp] theorem State.putTeam_tlb (t : Team) : (s.putTeam t).tlb = s.tlb := rfl
@[simp] theorem State.putTeam_qps (t : Team) : (s.putTeam t).qps = s.qps := rfl
@[simp] theorem State.putTeam_hostOut (t : Team) : (s.putTeam t).hostOut = s.hostOut := rfl
@[simp] theorem State.putTeam_peers (t : Team) : (s.putTeam t).peers = s.peers := rfl
@[simp] theorem State.putTeam_paths (t : Team) : (s.putTeam t).paths = s.paths := rfl

/-! ## State.putArray -/

@[simp] theorem State.putArray_now (a : MatArray) : (s.putArray a).now = s.now := rfl
@[simp] theorem State.putArray_freeCtr (a : MatArray) : (s.putArray a).freeCtr = s.freeCtr := rfl
@[simp] theorem State.putArray_cur (a : MatArray) : (s.putArray a).cur = s.cur := rfl
@[simp] theorem State.putArray_pipes (a : MatArray) : (s.putArray a).pipes = s.pipes := rfl
@[simp] theorem State.putArray_env (a : MatArray) : (s.putArray a).env = s.env := rfl
@[simp] theorem State.putArray_dram (a : MatArray) : (s.putArray a).dram = s.dram := rfl
@[simp] theorem State.putArray_spad (a : MatArray) : (s.putArray a).spad = s.spad := rfl
@[simp] theorem State.putArray_owners (a : MatArray) : (s.putArray a).owners = s.owners := rfl
@[simp] theorem State.putArray_lat (a : MatArray) : (s.putArray a).lat = s.lat := rfl
@[simp] theorem State.putArray_nextId (a : MatArray) : (s.putArray a).nextId = s.nextId := rfl
@[simp] theorem State.putArray_launches (a : MatArray) : (s.putArray a).launches = s.launches := rfl
@[simp] theorem State.putArray_teams (a : MatArray) : (s.putArray a).teams = s.teams := rfl
@[simp] theorem State.putArray_units (a : MatArray) : (s.putArray a).units = s.units := rfl
@[simp] theorem State.putArray_slots (a : MatArray) : (s.putArray a).slots = s.slots := rfl
@[simp] theorem State.putArray_twins (a : MatArray) : (s.putArray a).twins = s.twins := rfl
@[simp] theorem State.putArray_pairs (a : MatArray) : (s.putArray a).pairs = s.pairs := rfl
@[simp] theorem State.putArray_cores (a : MatArray) : (s.putArray a).cores = s.cores := rfl
@[simp] theorem State.putArray_net (a : MatArray) : (s.putArray a).net = s.net := rfl
@[simp] theorem State.putArray_queue (a : MatArray) : (s.putArray a).queue = s.queue := rfl
@[simp] theorem State.putArray_posted (a : MatArray) : (s.putArray a).posted = s.posted := rfl
@[simp] theorem State.putArray_floads (a : MatArray) : (s.putArray a).floads = s.floads := rfl
@[simp] theorem State.putArray_calls (a : MatArray) : (s.putArray a).calls = s.calls := rfl
@[simp] theorem State.putArray_moves (a : MatArray) : (s.putArray a).moves = s.moves := rfl
@[simp] theorem State.putArray_parked (a : MatArray) : (s.putArray a).parked = s.parked := rfl
@[simp] theorem State.putArray_tlb (a : MatArray) : (s.putArray a).tlb = s.tlb := rfl
@[simp] theorem State.putArray_qps (a : MatArray) : (s.putArray a).qps = s.qps := rfl
@[simp] theorem State.putArray_hostOut (a : MatArray) : (s.putArray a).hostOut = s.hostOut := rfl
@[simp] theorem State.putArray_peers (a : MatArray) : (s.putArray a).peers = s.peers := rfl
@[simp] theorem State.putArray_paths (a : MatArray) : (s.putArray a).paths = s.paths := rfl

/-! ## State.dramWrite -/

@[simp] theorem State.dramWrite_now (a : Nat) (b : List Byte) : (s.dramWrite a b).now = s.now := rfl
@[simp] theorem State.dramWrite_freeCtr (a : Nat) (b : List Byte) : (s.dramWrite a b).freeCtr = s.freeCtr := rfl
@[simp] theorem State.dramWrite_cur (a : Nat) (b : List Byte) : (s.dramWrite a b).cur = s.cur := rfl
@[simp] theorem State.dramWrite_pipes (a : Nat) (b : List Byte) : (s.dramWrite a b).pipes = s.pipes := rfl
@[simp] theorem State.dramWrite_env (a : Nat) (b : List Byte) : (s.dramWrite a b).env = s.env := rfl
@[simp] theorem State.dramWrite_spad (a : Nat) (b : List Byte) : (s.dramWrite a b).spad = s.spad := rfl
@[simp] theorem State.dramWrite_owners (a : Nat) (b : List Byte) : (s.dramWrite a b).owners = s.owners := rfl
@[simp] theorem State.dramWrite_lat (a : Nat) (b : List Byte) : (s.dramWrite a b).lat = s.lat := rfl
@[simp] theorem State.dramWrite_nextId (a : Nat) (b : List Byte) : (s.dramWrite a b).nextId = s.nextId := rfl
@[simp] theorem State.dramWrite_launches (a : Nat) (b : List Byte) : (s.dramWrite a b).launches = s.launches := rfl
@[simp] theorem State.dramWrite_teams (a : Nat) (b : List Byte) : (s.dramWrite a b).teams = s.teams := rfl
@[simp] theorem State.dramWrite_units (a : Nat) (b : List Byte) : (s.dramWrite a b).units = s.units := rfl
@[simp] theorem State.dramWrite_slots (a : Nat) (b : List Byte) : (s.dramWrite a b).slots = s.slots := rfl
@[simp] theorem State.dramWrite_twins (a : Nat) (b : List Byte) : (s.dramWrite a b).twins = s.twins := rfl
@[simp] theorem State.dramWrite_pairs (a : Nat) (b : List Byte) : (s.dramWrite a b).pairs = s.pairs := rfl
@[simp] theorem State.dramWrite_arrays (a : Nat) (b : List Byte) : (s.dramWrite a b).arrays = s.arrays := rfl
@[simp] theorem State.dramWrite_cores (a : Nat) (b : List Byte) : (s.dramWrite a b).cores = s.cores := rfl
@[simp] theorem State.dramWrite_net (a : Nat) (b : List Byte) : (s.dramWrite a b).net = s.net := rfl
@[simp] theorem State.dramWrite_queue (a : Nat) (b : List Byte) : (s.dramWrite a b).queue = s.queue := rfl
@[simp] theorem State.dramWrite_posted (a : Nat) (b : List Byte) : (s.dramWrite a b).posted = s.posted := rfl
@[simp] theorem State.dramWrite_floads (a : Nat) (b : List Byte) : (s.dramWrite a b).floads = s.floads := rfl
@[simp] theorem State.dramWrite_calls (a : Nat) (b : List Byte) : (s.dramWrite a b).calls = s.calls := rfl
@[simp] theorem State.dramWrite_moves (a : Nat) (b : List Byte) : (s.dramWrite a b).moves = s.moves := rfl
@[simp] theorem State.dramWrite_parked (a : Nat) (b : List Byte) : (s.dramWrite a b).parked = s.parked := rfl
@[simp] theorem State.dramWrite_tlb (a : Nat) (b : List Byte) : (s.dramWrite a b).tlb = s.tlb := rfl
@[simp] theorem State.dramWrite_qps (a : Nat) (b : List Byte) : (s.dramWrite a b).qps = s.qps := rfl
@[simp] theorem State.dramWrite_hostOut (a : Nat) (b : List Byte) : (s.dramWrite a b).hostOut = s.hostOut := rfl
@[simp] theorem State.dramWrite_peers (a : Nat) (b : List Byte) : (s.dramWrite a b).peers = s.peers := rfl
@[simp] theorem State.dramWrite_paths (a : Nat) (b : List Byte) : (s.dramWrite a b).paths = s.paths := rfl

/-! ## State.spadWrite -/

@[simp] theorem State.spadWrite_now (k : Nat) (b : List Byte) : (s.spadWrite k b).now = s.now := rfl
@[simp] theorem State.spadWrite_freeCtr (k : Nat) (b : List Byte) : (s.spadWrite k b).freeCtr = s.freeCtr := rfl
@[simp] theorem State.spadWrite_cur (k : Nat) (b : List Byte) : (s.spadWrite k b).cur = s.cur := rfl
@[simp] theorem State.spadWrite_pipes (k : Nat) (b : List Byte) : (s.spadWrite k b).pipes = s.pipes := rfl
@[simp] theorem State.spadWrite_env (k : Nat) (b : List Byte) : (s.spadWrite k b).env = s.env := rfl
@[simp] theorem State.spadWrite_dram (k : Nat) (b : List Byte) : (s.spadWrite k b).dram = s.dram := rfl
@[simp] theorem State.spadWrite_owners (k : Nat) (b : List Byte) : (s.spadWrite k b).owners = s.owners := rfl
@[simp] theorem State.spadWrite_lat (k : Nat) (b : List Byte) : (s.spadWrite k b).lat = s.lat := rfl
@[simp] theorem State.spadWrite_nextId (k : Nat) (b : List Byte) : (s.spadWrite k b).nextId = s.nextId := rfl
@[simp] theorem State.spadWrite_launches (k : Nat) (b : List Byte) : (s.spadWrite k b).launches = s.launches := rfl
@[simp] theorem State.spadWrite_teams (k : Nat) (b : List Byte) : (s.spadWrite k b).teams = s.teams := rfl
@[simp] theorem State.spadWrite_units (k : Nat) (b : List Byte) : (s.spadWrite k b).units = s.units := rfl
@[simp] theorem State.spadWrite_slots (k : Nat) (b : List Byte) : (s.spadWrite k b).slots = s.slots := rfl
@[simp] theorem State.spadWrite_twins (k : Nat) (b : List Byte) : (s.spadWrite k b).twins = s.twins := rfl
@[simp] theorem State.spadWrite_pairs (k : Nat) (b : List Byte) : (s.spadWrite k b).pairs = s.pairs := rfl
@[simp] theorem State.spadWrite_arrays (k : Nat) (b : List Byte) : (s.spadWrite k b).arrays = s.arrays := rfl
@[simp] theorem State.spadWrite_cores (k : Nat) (b : List Byte) : (s.spadWrite k b).cores = s.cores := rfl
@[simp] theorem State.spadWrite_net (k : Nat) (b : List Byte) : (s.spadWrite k b).net = s.net := rfl
@[simp] theorem State.spadWrite_queue (k : Nat) (b : List Byte) : (s.spadWrite k b).queue = s.queue := rfl
@[simp] theorem State.spadWrite_posted (k : Nat) (b : List Byte) : (s.spadWrite k b).posted = s.posted := rfl
@[simp] theorem State.spadWrite_floads (k : Nat) (b : List Byte) : (s.spadWrite k b).floads = s.floads := rfl
@[simp] theorem State.spadWrite_calls (k : Nat) (b : List Byte) : (s.spadWrite k b).calls = s.calls := rfl
@[simp] theorem State.spadWrite_moves (k : Nat) (b : List Byte) : (s.spadWrite k b).moves = s.moves := rfl
@[simp] theorem State.spadWrite_parked (k : Nat) (b : List Byte) : (s.spadWrite k b).parked = s.parked := rfl
@[simp] theorem State.spadWrite_tlb (k : Nat) (b : List Byte) : (s.spadWrite k b).tlb = s.tlb := rfl
@[simp] theorem State.spadWrite_qps (k : Nat) (b : List Byte) : (s.spadWrite k b).qps = s.qps := rfl
@[simp] theorem State.spadWrite_hostOut (k : Nat) (b : List Byte) : (s.spadWrite k b).hostOut = s.hostOut := rfl
@[simp] theorem State.spadWrite_peers (k : Nat) (b : List Byte) : (s.spadWrite k b).peers = s.peers := rfl
@[simp] theorem State.spadWrite_paths (k : Nat) (b : List Byte) : (s.spadWrite k b).paths = s.paths := rfl

/-! ## State.modQp -/

@[simp] theorem State.modQp_now (q : Nat) (f : QueuePair → QueuePair) : (s.modQp q f).now = s.now := rfl
@[simp] theorem State.modQp_freeCtr (q : Nat) (f : QueuePair → QueuePair) : (s.modQp q f).freeCtr = s.freeCtr := rfl
@[simp] theorem State.modQp_cur (q : Nat) (f : QueuePair → QueuePair) : (s.modQp q f).cur = s.cur := rfl
@[simp] theorem State.modQp_pipes (q : Nat) (f : QueuePair → QueuePair) : (s.modQp q f).pipes = s.pipes := rfl
@[simp] theorem State.modQp_env (q : Nat) (f : QueuePair → QueuePair) : (s.modQp q f).env = s.env := rfl
@[simp] theorem State.modQp_dram (q : Nat) (f : QueuePair → QueuePair) : (s.modQp q f).dram = s.dram := rfl
@[simp] theorem State.modQp_spad (q : Nat) (f : QueuePair → QueuePair) : (s.modQp q f).spad = s.spad := rfl
@[simp] theorem State.modQp_owners (q : Nat) (f : QueuePair → QueuePair) : (s.modQp q f).owners = s.owners := rfl
@[simp] theorem State.modQp_lat (q : Nat) (f : QueuePair → QueuePair) : (s.modQp q f).lat = s.lat := rfl
@[simp] theorem State.modQp_nextId (q : Nat) (f : QueuePair → QueuePair) : (s.modQp q f).nextId = s.nextId := rfl
@[simp] theorem State.modQp_launches (q : Nat) (f : QueuePair → QueuePair) : (s.modQp q f).launches = s.launches := rfl
@[simp] theorem State.modQp_teams (q : Nat) (f : QueuePair → QueuePair) : (s.modQp q f).teams = s.teams := rfl
@[simp] theorem State.modQp_units (q : Nat) (f : QueuePair → QueuePair) : (s.modQp q f).units = s.units := rfl
@[simp] theorem State.modQp_slots (q : Nat) (f : QueuePair → QueuePair) : (s.modQp q f).slots = s.slots := rfl
@[simp] theorem State.modQp_twins (q : Nat) (f : QueuePair → QueuePair) : (s.modQp q f).twins = s.twins := rfl
@[simp] theorem State.modQp_pairs (q : Nat) (f : QueuePair → QueuePair) : (s.modQp q f).pairs = s.pairs := rfl
@[simp] theorem State.modQp_arrays (q : Nat) (f : QueuePair → QueuePair) : (s.modQp q f).arrays = s.arrays := rfl
@[simp] theorem State.modQp_cores (q : Nat) (f : QueuePair → QueuePair) : (s.modQp q f).cores = s.cores := rfl
@[simp] theorem State.modQp_net (q : Nat) (f : QueuePair → QueuePair) : (s.modQp q f).net = s.net := rfl
@[simp] theorem State.modQp_queue (q : Nat) (f : QueuePair → QueuePair) : (s.modQp q f).queue = s.queue := rfl
@[simp] theorem State.modQp_posted (q : Nat) (f : QueuePair → QueuePair) : (s.modQp q f).posted = s.posted := rfl
@[simp] theorem State.modQp_floads (q : Nat) (f : QueuePair → QueuePair) : (s.modQp q f).floads = s.floads := rfl
@[simp] theorem State.modQp_calls (q : Nat) (f : QueuePair → QueuePair) : (s.modQp q f).calls = s.calls := rfl
@[simp] theorem State.modQp_moves (q : Nat) (f : QueuePair → QueuePair) : (s.modQp q f).moves = s.moves := rfl
@[simp] theorem State.modQp_parked (q : Nat) (f : QueuePair → QueuePair) : (s.modQp q f).parked = s.parked := rfl
@[simp] theorem State.modQp_tlb (q : Nat) (f : QueuePair → QueuePair) : (s.modQp q f).tlb = s.tlb := rfl
@[simp] theorem State.modQp_hostOut (q : Nat) (f : QueuePair → QueuePair) : (s.modQp q f).hostOut = s.hostOut := rfl
@[simp] theorem State.modQp_peers (q : Nat) (f : QueuePair → QueuePair) : (s.modQp q f).peers = s.peers := rfl
@[simp] theorem State.modQp_paths (q : Nat) (f : QueuePair → QueuePair) : (s.modQp q f).paths = s.paths := rfl

/-! ## hold -/

@[simp] theorem hold_now : (hold s).now = s.now := rfl
@[simp] theorem hold_freeCtr : (hold s).freeCtr = s.freeCtr := rfl
@[simp] theorem hold_env : (hold s).env = s.env := rfl
@[simp] theorem hold_dram : (hold s).dram = s.dram := rfl
@[simp] theorem hold_spad : (hold s).spad = s.spad := rfl
@[simp] theorem hold_owners : (hold s).owners = s.owners := rfl
@[simp] theorem hold_lat : (hold s).lat = s.lat := rfl
@[simp] theorem hold_nextId : (hold s).nextId = s.nextId := rfl
@[simp] theorem hold_launches : (hold s).launches = s.launches := rfl
@[simp] theorem hold_teams : (hold s).teams = s.teams := rfl
@[simp] theorem hold_units : (hold s).units = s.units := rfl
@[simp] theorem hold_slots : (hold s).slots = s.slots := rfl
@[simp] theorem hold_twins : (hold s).twins = s.twins := rfl
@[simp] theorem hold_pairs : (hold s).pairs = s.pairs := rfl
@[simp] theorem hold_arrays : (hold s).arrays = s.arrays := rfl
@[simp] theorem hold_cores : (hold s).cores = s.cores := rfl
@[simp] theorem hold_net : (hold s).net = s.net := rfl
@[simp] theorem hold_queue : (hold s).queue = s.queue := rfl
@[simp] theorem hold_posted : (hold s).posted = s.posted := rfl
@[simp] theorem hold_floads : (hold s).floads = s.floads := rfl
@[simp] theorem hold_calls : (hold s).calls = s.calls := rfl
@[simp] theorem hold_moves : (hold s).moves = s.moves := rfl
@[simp] theorem hold_parked : (hold s).parked = s.parked := rfl
@[simp] theorem hold_tlb : (hold s).tlb = s.tlb := rfl
@[simp] theorem hold_qps : (hold s).qps = s.qps := rfl
@[simp] theorem hold_hostOut : (hold s).hostOut = s.hostOut := rfl
@[simp] theorem hold_peers : (hold s).peers = s.peers := rfl
@[simp] theorem hold_paths : (hold s).paths = s.paths := rfl

/-! ## What the updates set -/

@[simp] theorem State.addUnit_units (g : Group) : (s.addUnit g).units = s.units ++ [g] := rfl
@[simp] theorem State.send_nextId (k : MsgClass) (a b : Nat) (p : Payload) : (s.send k a b p).nextId = s.nextId + 1 := rfl
@[simp] theorem State.send_net (k : MsgClass) (a b : Nat) (p : Payload) :
    (s.send k a b p).net = s.net ++ [{ id := s.nextId, cls := k, src := a, dst := b, body := p }] := rfl
@[simp] theorem State.takeId_fst : s.takeId.1 = s.nextId := rfl
@[simp] theorem State.takeFree_fst : s.takeFree.1 = s.freeCtr := rfl
@[simp] theorem hold_held : (hold s).cur.held = true := rfl

theorem State.mem_dropUnit {u : Nat} {g : Group} : g ∈ (s.dropUnit u).units ↔ g ∈ s.units ∧ g.uid ≠ u := by
  simp [State.dropUnit]

theorem State.mem_dropMsg {m : Nat} {x : Msg} : x ∈ (s.dropMsg m).net ↔ x ∈ s.net ∧ x.id ≠ m := by
  simp [State.dropMsg]

theorem State.mem_freeSlot {c k : Nat} {y : Slot} : y ∈ (s.freeSlot c k).slots ↔ y ∈ s.slots ∧ (y.core = c → y.slot ≠ k) := by
  simp [State.freeSlot, Decidable.imp_iff_not_or]

theorem State.unit?_uid {s : State} {u : Nat} {g : Group} (h : s.unit? u = some g) : g.uid = u := by
  simpa using List.find?_some h

end Sys2Proof.Machine
end

