-- ==== Sys2Proof/Tests/Slice0.lean ====
section
/-! SUPPORT. Tests: words written out from the encodings of spec/, ill-formed instructions, small steps with results calculated by hand from
the rules, and for every statement of Certificates/Slice0 a state and operands that meet its hypotheses. -/

namespace Sys2Proof.Tests
open Sys2Proof.Machine Sys2Proof.Claims
set_option Elab.async false

/-! ## States -/

/-- The unit 2 of a launch 1 at 0x1004, after reset. -/
def placed : State := State.reset.withFetchWord 32 0

/-- Unit 2 issues, in uniform form or not. -/
def turnOf (s : State) (uni : Bool) : State := { s with cur := { Issue.void with uid := 2, uni := uni } }

/-- The state in which unit 2 issues a vector form. -/
def vec : State := turnOf placed false

/-- The state in which unit 2 issues a uniform form. -/
def uniform : State := turnOf placed true

/-- Every unit changed; every slot changed; the launches changed. -/
def unitsBy (s : State) (f : Group → Group) : State := { s with units := s.units.map f }
def slotsBy (s : State) (f : Slot → Slot) : State := { s with slots := s.slots.map f }
def launchesBy (s : State) (f : Launch → Launch) : State := { s with launches := s.launches.map f }

/-- A vector register set to one value a strand; a scalar register set. -/
def withV (s : State) (k : Nat) (f : Nat → Nat) : State := slotsBy s fun x => { x with v := x.v.set k (perStrand fun j => BitVec.ofNat 32 (f j)) }
def withS (s : State) (k x : Nat) : State := slotsBy s fun y => { y with s := y.s.set k (BitVec.ofNat 32 x) }

/-- A vector pair and a scalar pair that hold a 64-bit value. -/
def withVV (s : State) (k : Nat) (f : Nat → Nat) : State := withV (withV s k f) (k + 1) fun j => f j / 4294967296
def withSS (s : State) (k x : Nat) : State := withS (withS s k x) (k + 1) (x / 4294967296)

/-- The context that an instruction sees. -/
def ctxOf (s : State) : Ctx := (ctx? s).getD default

/-- `Clear`, computed. -/
def clearB (c : Ctx) (i : Instr) (ops : List Opnd) : Bool :=
  (c.s.cur.waitMask ++ i.asyncFlag.toList).all (fun k => !(c.g.flag k).set) &&
  (!i.heldByAcquire || c.g.acqFlags.all fun k => !(c.g.flag k).set) &&
  (c.s.cur.waitMask ++ i.raisesFlag.toList ++ (if i.heldByAcquire then c.g.acqFlags else [])).all (fun k => (c.g.flag k).pending.isNone) &&
  c.g.homeFault.isNone && c.g.deferred.isNone && (c.g.visitor.all fun v => decide (v.issued < 4096) && remoteOk i) && (c.checks i ops).isNone

/-- `Issues`, computed. -/
def issuesB (s : State) (i : Instr) : Bool := (ctx? s).isSome && clearB (ctxOf s) i (i.opnds (ctxOf s).uni)

theorem clear_of {c : Ctx} {i : Instr} {ops : List Opnd} (h : clearB c i ops = true) : Clear c i ops := by
  simp only [clearB, Bool.and_eq_true, Bool.or_eq_true, Bool.not_eq_true', List.all_eq_true, Option.isNone_iff_eq_none, Option.all_eq_true,
    decide_eq_true_eq] at h
  obtain ⟨⟨⟨⟨⟨⟨h1, h2⟩, h3⟩, h4⟩, h5⟩, h6⟩, h7⟩ := h
  exact ⟨h1, fun ha => by simpa [ha] using h2, h3, h4, h5, fun v hv => by simpa using h6 v hv, h7⟩

theorem issues_of {s : State} {i : Instr} (h : issuesB s i = true) : Issues s i (ctxOf s) := by
  simp only [issuesB, Bool.and_eq_true] at h
  refine ⟨?_, clear_of h.2⟩
  obtain ⟨c, hc⟩ := Option.isSome_iff_exists.mp h.1
  simp [ctxOf, hc]

/-- What a read leaves, and the state after it. -/
def stateOf {ε : Type} (r : Except ε (Nat × State)) : State := match r with | .ok p => p.2 | .error _ => State.reset
def reads {ε : Type} (r : Except ε (Nat × State)) (x : Nat) : Bool := match r with | .ok p => p.1 == x | .error _ => false

theorem reads_of {ε : Type} {r : Except ε (Nat × State)} {x : Nat} (h : reads r x = true) : r = .ok (x, stateOf r) := by
  cases r with
  | error e => simp [reads] at h
  | ok p => simp only [reads, beq_iff_eq] at h; simp [stateOf, ← h]

/-- Whether a result is good. -/
def fine {ε α : Type} (r : Except ε α) : Bool := match r with | .ok _ => true | .error _ => false
def good {ε : Type} (r : Except ε State) : State := match r with | .ok s => s | .error _ => State.reset
theorem fine_of {ε : Type} {r : Except ε State} (h : fine r = true) : r = .ok (good r) := by
  cases r with
  | error e => simp [fine] at h
  | ok p => rfl

/-- What a completion flag raises. -/
def ff : FlagFault := flagFault 0x13 0x5000 none
def flagged (s : State) (k : Nat) (f : Flag) : State := unitsBy s fun g => g.putFlag k f
/-- Flag 3 is set, for a load of this unit. -/
def owing : State :=
  { flagged vec 3 { set := true, pending := none } with
    floads := [{ id := 9, gid := 2, core := 0, flag := 3, mask := 0xFFFFFFFF#32
                 acc := { kind := .load, n := 4, strands := [] }
                 dest := { reg := some (.vec 5), pair := false, uni := false }, left := 0, got := [], err := none, absent := 0, spad := false }] }
/-- In a handler, with a trap vector. -/
def trapping (h : Bool) (v p : Nat) : State :=
  launchesBy (unitsBy vec fun g => { g with handler := h, trapPc := p }) fun l => { l with trapVec := v }

theorem ctx_of {s : State} (h : (ctx? s).isSome = true) : ctx? s = some (ctxOf s) := by
  obtain ⟨c, hc⟩ := Option.isSome_iff_exists.mp h
  simp [ctxOf, hc]

/-- `State.Inv`, computed, where no command is carried out over time. -/
def soundB (s : State) : Bool :=
  Memory.wf s.dram && Memory.wf s.spad && decide (s.service ≤ 2) && decide (-200 ≤ s.slew) && decide (s.slew ≤ 200) && decide (s.dies.length = 16) &&
    s.dies.all (decide <| · ≤ 3) && decide (s.replicas.length = 16) && decide (s.acMilli.length = 16) && decide (s.links.length = 46) &&
    decide (1 ≤ s.window) && decide (s.window ≤ 16) && s.pending.isEmpty
theorem inv_of {s : State} (h : soundB s = true) : s.Inv := by
  simp only [soundB, Bool.and_eq_true, decide_eq_true_eq, List.all_eq_true, List.isEmpty_iff] at h
  obtain ⟨⟨⟨⟨⟨⟨⟨⟨⟨⟨⟨⟨h1, h2⟩, h3⟩, h4⟩, h5⟩, h6⟩, h7⟩, h8⟩, h9⟩, h10⟩, h11⟩, h12⟩, h13⟩ := h
  exact ⟨h1, h2, h3, h4, h5, h6, h7, h8, h9, h10, h11, h12, by simp [h13]⟩

/-- The unit of a number, the slot of a core, as they stand. -/
def unitOf (s : State) (u : Nat) : Group := (s.unit? u).getD default
theorem unit_of {s : State} {u : Nat} (h : (s.unit? u).isSome = true) : s.unit? u = some (unitOf s u) := by
  obtain ⟨c, hc⟩ := Option.isSome_iff_exists.mp h
  simp [unitOf, hc]

/-- The value of an option that is there. -/
def val {α : Type} [Inhabited α] (o : Option α) : α := o.getD default
theorem val_of {α : Type} [Inhabited α] {o : Option α} (h : o.isSome = true) : o = some (val o) := by
  obtain ⟨c, hc⟩ := Option.isSome_iff_exists.mp h
  simp [val, hc]


/-! ## Witnesses: registers and control -/

theorem wit_ArithmeticTables : Issues vec (.iadd 5 4 3 1) (ctxOf vec) ∧ arithRow (.iadd 5 4 3 1) = true ∧ (arith (.iadd 5 4 3 1)).isSome = true ∧
    arithRow (.iadd 5 4 3 3) = true ∧ (arith (.iadd 5 4 3 3)).isNone = true :=
  ⟨issues_of (by decide +kernel), by decide, by decide, by decide, by decide⟩
theorem wit_SelectByPredicate : Issues uniform (.sel 5 4 3 1 7) (ctxOf uniform) := issues_of (by decide +kernel)
theorem wit_IntegerResults : Issues vec (.iaddc 5 4 3 1 2) (ctxOf vec) ∧ (integer (ctxOf vec) (.iaddc 5 4 3 1 2)).isSome = true :=
  ⟨issues_of (by decide +kernel), rfl⟩
theorem wit_FloatingResults : Issues vec (.ffma 5 4 3 1) (ctxOf vec) ∧ (floating (ctxOf vec) (.ffma 5 4 3 1)).isSome = true :=
  ⟨issues_of (by decide +kernel), rfl⟩

/-- v4 holds the strand's number, so that strand 31 names v31. -/
def indexed : State := withV vec 4 fun j => j
theorem wit_LaneResults : Issues indexed (.idx 5 4 0 0) (ctxOf indexed) ∧ indicesOk (ctxOf indexed) (.idx 5 4 0 0) ∧
    (lanes (ctxOf indexed) (.idx 5 4 0 0)).isSome = true := by
  refine ⟨issues_of (by decide +kernel), fun _ => ?_, rfl⟩
  decide +kernel
theorem wit_NopAndPadDoNothing : Issues vec .nop (ctxOf vec) ∧ Issues uniform (.pad 1 0xFFFFFF) (ctxOf uniform) :=
  ⟨issues_of (by decide +kernel), issues_of (by decide +kernel)⟩

/-- Strand 7 names the register after the last one of the window. -/
def beyond : State := withV vec 4 fun j => if j = 7 then 112 else j
theorem wit_IndexOutsideFaults : Issues beyond (.idx 0 4 5 1) (ctxOf beyond) ∧
    ((ctxOf beyond).active.find? fun k => !(ctxOf beyond).idxOk ((ctxOf beyond).src 4 k).toNat) = some 7 :=
  ⟨issues_of (by decide +kernel), by decide +kernel⟩

/-- The unit that issues. -/
def me : Group := (ctxOf vec).g
theorem wit_TargetChecks : checkTarget vec me 0x1001 = some (0x03, none) ∧ checkTarget vec me 0x1000 = some (0x03, none) ∧
    checkTarget vec me (0xFB * 2 ^ 56 + 4) = some (0x12, none) ∧ checkTarget vec me (2 ^ 56 + 4) = some (0x15, none) ∧
    (match translate vec me.core (rootOf vec me) (supervisor vec me) .exec 0x1004 with | .ok p => p.res | .error _ => false) = true ∧
    checkTarget vec me 0x1004 = none := by decide +kernel
theorem wit_JumpsGoToTheirTarget : Issues vec (.call 7 1) (ctxOf vec) ∧ (jumps (ctxOf vec) (.call 7 1)).isSome = true ∧
    checkTarget vec (ctxOf vec).g (target (ctxOf vec) 1) = none ∧ checkTarget vec (ctxOf vec).g (target (ctxOf vec) 3) = some (0x03, none) := by
  refine ⟨issues_of ?_, rfl, ?_⟩ <;> decide +kernel

def one : State := withS vec 15 1
theorem wit_LoopCountsDown : Issues one (.loop 15 1) (ctxOf one) ∧ (ctxOf one).sreg 15 = 1 ∧ Issues one (.loop 3 1) (ctxOf one) ∧ (ctxOf one).sreg 3 ≠ 1 ∧
    checkTarget one (ctxOf one).g (target (ctxOf one) 1) = none ∧ checkTarget one (ctxOf one).g (target (ctxOf one) 3) = some (0x03, none) := by
  refine ⟨issues_of ?_, ?_, issues_of ?_, ?_⟩ <;> decide +kernel

/-- p1 holds the strands 0 and 31. -/
def split : State := unitsBy vec fun g => { g with preds := g.preds.set 0 0x80000001#32 }
theorem wit_ConditionalBranch : Issues split (.brc 1 0 0 1) (ctxOf split) ∧
    taken (ctxOf split) 0 0 = (ctxOf split).g.mask ∧ taken (ctxOf split) 0 1 = 0 ∧ (ctxOf split).g.mask ≠ 0 ∧
    taken (ctxOf split) 1 0 ≠ 0 ∧ taken (ctxOf split) 1 0 ≠ (ctxOf split).g.mask ∧ Issues (turnOf split true) (.brc 1 0 3 1) (ctxOf (turnOf split true)) ∧
    (ctxOf (turnOf split true)).uni = true ∧ checkTarget split (ctxOf split).g (target (ctxOf split) 1) = none ∧
    checkTarget split (ctxOf split).g (target (ctxOf split) 3) = some (0x03, none) := by
  refine ⟨issues_of ?_, ?_, ?_, ?_, ?_, ?_, issues_of ?_, ?_⟩ <;> decide +kernel
theorem wit_DivergentBranchSplits : Issues split (.brc 1 0 31 1) (ctxOf split) ∧ taken (ctxOf split) 1 0 ≠ 0 ∧
    taken (ctxOf split) 1 0 ≠ (ctxOf split).g.mask ∧ (ctxOf split).g.visitor = none ∧ checkTarget split (ctxOf split).g (target (ctxOf split) 1) = none := by
  refine ⟨issues_of ?_, ?_⟩ <;> decide +kernel

/-- A table of two entries with label 5 at 0x3000 (in s10, s11): its entries lead to a PAD of its label at 0x3014 and to one of another label at
0x3018; a table without entries stands at 0x3100. -/
def tables : State :=
  withSS ((vec.dramWrite 0x3000 (bytesLE 4 2 ++ bytesLE 4 5 ++ bytesLE 4 0x14 ++ bytesLE 4 0x18)).dramWrite 0x3014
    (bytesLE 4 (7 * 2 ^ 25 + 5) ++ bytesLE 4 (7 * 2 ^ 25 + 6))) 10 0x3000
/-- The context of the JTAB, and the states after its reads. -/
def tc : Ctx := ctxOf tables
def t1 : State := stateOf (readFor tables tc.g .read 0x3000 8)
def t2 : State := stateOf (readFor t1 tc.g .read 0x3008 4)
theorem wit_JumpTableGoesToItsEntry : Issues tables (.jtab 3 10) tc ∧ (tc.sreg 10).toNat = 0x3000 ∧ (tc.sreg 11).toNat = 0 ∧ (tc.sreg 3).toNat = 0 ∧
    readFor tables tc.g .read 0x3000 8 = .ok (2 + 5 * 2 ^ 32, t1) ∧ readFor t1 tc.g .read 0x3008 4 = .ok (0x14, t2) ∧
    checkTarget t2 tc.g 0x3014 = none ∧ readFor t2 tc.g .read 0x3014 4 = .ok (7 * 2 ^ 25 + 5, stateOf (readFor t2 tc.g .read 0x3014 4)) ∧
    readFor t2 tc.g .read 0x3018 4 = .ok (7 * 2 ^ 25 + 6, stateOf (readFor t2 tc.g .read 0x3018 4)) ∧
    readFor tables tc.g .read 0x3100 8 = .ok (0, stateOf (readFor tables tc.g .read 0x3100 8)) := by
  refine ⟨issues_of ?_, ?_, ?_, ?_, reads_of ?_, reads_of ?_, ?_, reads_of ?_, reads_of ?_, reads_of ?_⟩ <;> decide +kernel
/-- A fault is pending on flag 11, which the unit has awaited. -/
def failed11 : State := unitsBy (flagged vec 11 { set := false, pending := some ff }) fun g => g.awaits [11]
theorem wit_ExitEndsStrands : Issues split (.exit 0 1) (ctxOf split) ∧ exits (ctxOf split) 0 1 ≠ 0 ∧ exits (ctxOf split) 0 1 ≠ (ctxOf split).g.mask ∧
    exits (ctxOf split) 1 0 = 0 ∧ exits (ctxOf split) 0 0 = (ctxOf split).g.mask ∧ owed split (ctxOf split).g = [] ∧
    pendingOf (ctxOf split).g (ctxOf split).g.awaited = none ∧ (ctxOf split).g.rejoin = 0 ∧ homeOf (ctxOf split).g.gid = none ∧
    Issues owing (.exit 0 0) (ctxOf owing) ∧ owed owing (ctxOf owing).g ≠ [] ∧
    Issues failed11 (.exit 0 0) (ctxOf failed11) ∧ owed failed11 (ctxOf failed11).g = [] ∧
    pendingOf (ctxOf failed11).g (ctxOf failed11).g.awaited = some (11, ff) := by
  refine ⟨issues_of ?_, ?_, ?_, ?_, ?_, ?_, ?_, ?_, ?_, issues_of ?_, ?_, issues_of ?_, ?_⟩ <;> decide +kernel
theorem wit_TrapEntersTheHandler : Issues (trapping false 0x2004 0) (.trap 0x7FF) (ctxOf (trapping false 0x2004 0)) ∧
    (ctxOf (trapping false 0x2004 0)).g.handler = false ∧ (launchOf (trapping false 0x2004 0) (ctxOf (trapping false 0x2004 0)).g).trapVec = 0x2004 ∧
    checkTarget (trapping false 0x2004 0) (ctxOf (trapping false 0x2004 0)).g 0x2004 = none ∧
    Issues (trapping false 0x2001 0) (.trap 0) (ctxOf (trapping false 0x2001 0)) ∧ (ctxOf (trapping false 0x2001 0)).g.handler = false ∧
    checkTarget (trapping false 0x2001 0) (ctxOf (trapping false 0x2001 0)).g 0x2001 = some (0x03, none) ∧
    Issues (trapping true 0x2004 0) (.trap 0) (ctxOf (trapping true 0x2004 0)) ∧ (ctxOf (trapping true 0x2004 0)).g.handler = true := by
  refine ⟨issues_of ?_, ?_, ?_, ?_, issues_of ?_, ?_, ?_, issues_of ?_, ?_⟩ <;> decide +kernel
theorem wit_EretLeavesTheHandler : Issues (trapping true 0 0x2004) .eret (ctxOf (trapping true 0 0x2004)) ∧
    (ctxOf (trapping true 0 0x2004)).g.handler = true ∧ (ctxOf (trapping true 0 0x2004)).g.trapPc = 0x2004 ∧
    checkTarget (trapping true 0 0x2004) (ctxOf (trapping true 0 0x2004)).g 0x2004 = none ∧
    Issues (trapping true 0 0x2000) .eret (ctxOf (trapping true 0 0x2000)) ∧ (ctxOf (trapping true 0 0x2000)).g.handler = true ∧
    checkTarget (trapping true 0 0x2000) (ctxOf (trapping true 0 0x2000)).g 0x2000 = some (0x03, none) ∧
    Issues vec .eret (ctxOf vec) ∧ (ctxOf vec).g.handler = false := by
  refine ⟨issues_of ?_, ?_, ?_, ?_, issues_of ?_, ?_, ?_, issues_of ?_, ?_⟩ <;> decide +kernel

/-- Unit 2 asleep until rc 5, at rc n. -/
def asleep (n : Nat) : State := { unitsBy vec fun g => { g with wait := .sleep 5, pauseEnd := 5 } with now := n }
theorem wit_PauseAndSleep : Issues vec (.pause 0x7FF) (ctxOf vec) ∧ Issues vec (.sleep 4) (ctxOf vec) ∧
    (∃ g, (asleep 5).unit? 2 = some g ∧ g.wait = .sleep 5) ∧ (∃ g, (asleep 4).unit? 2 = some g ∧ g.pauseEnd = 5) :=
  ⟨issues_of (by decide +kernel), issues_of (by decide +kernel), ⟨_, rfl, rfl⟩, ⟨_, rfl, rfl⟩⟩
theorem wit_WindowBases : Issues vec (.winb 0 13) (ctxOf vec) ∧ window 0 13 (ctxOf vec).g.vwb = 104 ∧ (ctxOf vec).sl.valloc = 112 ∧
    Issues vec (.winb 1 14) (ctxOf vec) ∧ window 1 14 (ctxOf vec).g.vwb = 112 ∧
    Issues vec (.swinb 0 0) (ctxOf vec) ∧ window 0 0 (ctxOf vec).g.swb = 0 ∧ (ctxOf vec).sl.salloc = 112 ∧
    Issues vec (.swinb 1 0x7FF) (ctxOf vec) ∧ window 1 0x7FF (ctxOf vec).g.swb = -8 := by
  refine ⟨issues_of ?_, ?_, ?_, issues_of ?_, ?_, issues_of ?_, ?_, ?_, issues_of ?_, ?_⟩ <;> decide +kernel

/-- The vector window starts at 64. -/
def shifted64 : State := unitsBy vec fun g => { g with vwb := 64 }
theorem wit_LiveDeclaration : Issues vec (.live 110 3 0 0) (ctxOf vec) ∧ Issues vec (.live 110 2 63 31) (ctxOf vec) ∧
    Issues shifted64 (.live 48 1 0 0) (ctxOf shifted64) ∧ (ctxOf shifted64).g.vwb = 64 ∧ (ctxOf shifted64).sl.valloc = 112 := by
  refine ⟨issues_of ?_, issues_of ?_, issues_of ?_, ?_⟩ <;> decide +kernel
theorem wit_CountersAndControlReads : Issues vec (.csrr 4 0x030) (ctxOf vec) ∧ csrListed 0x030 = true ∧ csrWide 0x030 = true ∧
    Issues vec (.csrr 4 0x062) (ctxOf vec) ∧ csrListed 0x062 = false ∧ Issues vec (.csrr 111 0x015) (ctxOf vec) ∧
    Issues vec (.cycle 110 0) (ctxOf vec) ∧ Issues vec (.cycle 4 1) (ctxOf vec) := by
  refine ⟨issues_of ?_, ?_, ?_, issues_of ?_, ?_, issues_of ?_, issues_of ?_, issues_of ?_⟩ <;> decide +kernel

/-- The launch runs in user mode. -/
def user : State := launchesBy vec fun l => { l with chain := [{ wordNode with supervisor := false }] }
/-- v10, v11 hold an address of the mapped GiB; one without a leaf. -/
def asking (a : Nat) : State := withVV vec 10 fun _ => a
theorem wit_ControlWrites : Issues (asking 0x3008) (.csrw 10 0x042) (ctxOf (asking 0x3008)) ∧
    pageRequest (asking 0x3008) (ctxOf (asking 0x3008)).g (ctxOf (asking 0x3008)).low ((ctxOf (asking 0x3008)).src64 10 (ctxOf (asking 0x3008)).low) =
      .ok (good (pageRequest (asking 0x3008) (ctxOf (asking 0x3008)).g (ctxOf (asking 0x3008)).low ((ctxOf (asking 0x3008)).src64 10 (ctxOf (asking 0x3008)).low))) ∧
    Issues (asking (2 ^ 56)) (.csrw 10 0x042) (ctxOf (asking (2 ^ 56))) ∧
    fine (pageRequest (asking (2 ^ 56)) (ctxOf (asking (2 ^ 56))).g (ctxOf (asking (2 ^ 56))).low ((ctxOf (asking (2 ^ 56))).src64 10 (ctxOf (asking (2 ^ 56))).low)) = false ∧
    Issues vec (.csrw 10 0x05F) (ctxOf vec) ∧ csrListed 0x05F = true ∧ supervisor vec (ctxOf vec).g = true ∧
    Issues user (.csrw 10 0x05F) (ctxOf user) ∧ (Instr.csrw 10 0x05F).privileged = true ∧ supervisor user (ctxOf user).g = false ∧
    Issues vec (.csrw 10 0x062) (ctxOf vec) ∧ csrListed 0x062 = false := by
  refine ⟨issues_of ?_, fine_of ?_, issues_of ?_, ?_, issues_of ?_, ?_, ?_, issues_of ?_, ?_, ?_, issues_of ?_, ?_⟩ <;> decide +kernel

/-- The launch's region is persistent, with a heartbeat every 5 ms. -/
def beating : State := launchesBy vec fun l => { l with chain := [{ wordNode with persistent := true, hbeatInt := 5 }] }
theorem wit_ControlWriteRows : ctx? beating = some (ctxOf beating) ∧ (launchOf beating (ctxOf beating).g).node.persistent = true ∧
    (launchOf beating (ctxOf beating).g).node.hbeatInt = 5 ∧
    pageRequest beating (ctxOf beating).g (ctxOf beating).low 0x3008 = .ok (good (pageRequest beating (ctxOf beating).g (ctxOf beating).low 0x3008)) ∧
    fine (translate beating (ctxOf beating).g.core (rootOf beating (ctxOf beating).g) (supervisor beating (ctxOf beating).g) .locate 0x3008) = true ∧
    beating.pageReqs = [] ∧ supervisor beating (ctxOf beating).g = true := by
  refine ⟨ctx_of ?_, ?_, ?_, fine_of ?_, ?_⟩ <;> decide +kernel

/-- A launch with a trace region of two records at 0x8000. -/
def tracing : State := launchesBy vec fun l => { l with traceBase := 0x8000, traceRecs := 2, traceTail := 1 }
/-- Its second record, posted. -/
def marked : State := postMarker tracing (ctxOf tracing).g 0x8040 (List.replicate 32 7)
theorem wit_TraceMarkers : Issues vec (.tracem 3 77) (ctxOf vec) ∧ (launchOf vec (ctxOf vec).g).traceBase = 0 ∧
    Issues tracing (.tracem 3 0x7FF) (ctxOf tracing) ∧ (launchOf tracing (ctxOf tracing).g).traceBase ≠ 0 ∧ (launchOf tracing (ctxOf tracing).g).traceTail = 1 ∧
    (launchOf tracing (ctxOf tracing).g).traceRecs = 2 ∧ (devWrite marked (launchOf tracing (ctxOf tracing).g).ptRoot 0x8000 (bytesLE 4 2 ++ bytesLE 4 0)).isSome = true ∧
    (match lookupPage tracing 0 (rootOf tracing (ctxOf tracing).g) 0x8040 with | .ok p => p.res && p.wr && !p.dup && p.device == 0 | .error _ => false) = true ∧
    heldTo tracing (ctxOf tracing).g 0 8 = [] := by
  refine ⟨issues_of ?_, ?_, issues_of ?_, ?_⟩ <;> decide +kernel

/-! ## Witnesses: memory -/

/-- Unit 2 stands on a core; the pages of the GiB 1 to 4: home 1, not resident, read-duplicated, of module 1; v10, v11 hold an address for each strand;
the first KiB of the core's own scratchpad is its region's. -/
def memOn (s : State) (core : Nat) (f : Nat → Nat) : State :=
  let t := withVV (slotsBy (unitsBy s fun g => { g with core := core, launchCore := core, region := 1 }) fun x => { x with core := core }) 10 f
  ((({ launchesBy t fun l => { l with spads := [BitVec.ofNat 64 (1024 * 2 ^ 32)] } with
      owners := [{ level := 0, index := core, base := 0, size := 1024, region := 1, launch := 1 }] }).dramWrite 0x200008
    (bytesLE 8 0x2BF ++ bytesLE 8 0x3F ++ bytesLE 8 0x1BF ++ bytesLE 8 0x20BF)))

/-- Every strand on the stack core 512 at its own word. -/
def local4 : State := memOn vec 512 fun j => 0x300000 + 4 * j
/-- Every strand on another page kind. -/
def onPage (k : Nat) : State := memOn vec 512 fun j => k * 1073741824 + 4 * j

/-- What a list of places holds. -/
def placesOf (c : Ctx) (op : MemOp) : List (Nat × Place) := match c.places op (c.memActive op) with | .ok l => l | .error _ => []
theorem places_of {c : Ctx} {op : MemOp} (h : fine (c.places op (c.memActive op)) = true) : c.places op (c.memActive op) = .ok (placesOf c op) := by
  cases e : c.places op (c.memActive op) with
  | error x => simp [e, fine] at h
  | ok l => simp [placesOf, e]
theorem marker_of {s : State} {k a : Nat} (h : s.pageMoves = []) : markerHeld s k a = false := by simp [markerHeld, h]

/-- `Proceeds`, computed, where no page moves and the service level is not S1. -/
def proceedsB (c : Ctx) (op : MemOp) : Bool :=
  c.g.visits.isEmpty && !(c.memActive op).isEmpty && fine (c.places op (c.memActive op)) && c.s.pageMoves.isEmpty && c.s.overruns.isEmpty &&
    c.s.service != 1 && (op.rel == 0 || decide (releaseNow c.s c.g op.rel false = .go))
theorem proceeds_of {c : Ctx} {op : MemOp} (h : proceedsB c op = true) : Proceeds c op (placesOf c op) := by
  simp only [proceedsB, Bool.and_eq_true, List.isEmpty_iff, Bool.not_eq_true', Bool.or_eq_true, beq_iff_eq, bne_iff_ne, decide_eq_true_eq] at h
  obtain ⟨⟨⟨⟨⟨⟨h1, h2⟩, h3⟩, h4⟩, h5⟩, h6⟩, h7⟩ := h
  exact ⟨h1, by simpa using h2, places_of h3, fun _ _ _ _ _ => marker_of h4, by simp [overrunHit, h5], fun e => absurd e h6, h7⟩

/-- The operation of a memory instruction. -/
def opOf (i : Instr) : MemOp := (request i).getD { kind := .load, n := 1, a := 0, off := 0 }
theorem request_of {i : Instr} (h : (request i).isSome = true) : request i = some (opOf i) := by
  obtain ⟨x, hx⟩ := Option.isSome_iff_exists.mp h
  simp [opOf, hx]

theorem wit_MemoryAccessHere : request (.ldw 4 10 0 0) = some (opOf (.ldw 4 10 0 0)) ∧ Issues local4 (.ldw 4 10 0 0) (ctxOf local4) ∧
    Proceeds (ctxOf local4) (opOf (.ldw 4 10 0 0)) (placesOf (ctxOf local4) (opOf (.ldw 4 10 0 0))) ∧
    (placesOf (ctxOf local4) (opOf (.ldw 4 10 0 0))).all (fun p => near (ctxOf local4) p.2 && p.2 != .absent) = true ∧
    (placesOf (ctxOf local4) (opOf (.ldw 4 10 0 0))).length = 32 ∧
    (ctxOf local4).mustHold ((opOf (.ldw 4 10 0 0)).access (nearAccesses (ctxOf local4) (opOf (.ldw 4 10 0 0)) (placesOf (ctxOf local4) (opOf (.ldw 4 10 0 0))))) true = false ∧
    fine (performFor local4 1 ((opOf (.ldw 4 10 0 0)).access (nearAccesses (ctxOf local4) (opOf (.ldw 4 10 0 0)) (placesOf (ctxOf local4) (opOf (.ldw 4 10 0 0)))))) = true := by
  refine ⟨request_of ?_, issues_of ?_, proceeds_of ?_, ?_⟩ <;> decide +kernel
theorem wit_FlaggedAndAbsentLoads : Issues local4 (.ldwa 4 10 4 0 11) (ctxOf local4) ∧ (opOf (.ldwa 4 10 4 0 11)).flag = 11 ∧
    Proceeds (ctxOf local4) (opOf (.ldwa 4 10 4 0 11)) (placesOf (ctxOf local4) (opOf (.ldwa 4 10 4 0 11))) ∧
    (ctxOf local4).hereHeld ((opOf (.ldwa 4 10 4 0 11)).access (nearAccesses (ctxOf local4) (opOf (.ldwa 4 10 4 0 11)) (placesOf (ctxOf local4) (opOf (.ldwa 4 10 4 0 11))))) [] = false ∧
    (placesOf (ctxOf local4) (opOf (.ldwa 4 10 4 0 11))).all (fun p => near (ctxOf local4) p.2) = true ∧
    Issues (onPage 2) (.ldw 4 10 0 0) (ctxOf (onPage 2)) ∧ (opOf (.ldw 4 10 0 0)).flag = 12 ∧
    Proceeds (ctxOf (onPage 2)) (opOf (.ldw 4 10 0 0)) (placesOf (ctxOf (onPage 2)) (opOf (.ldw 4 10 0 0))) ∧
    (placesOf (ctxOf (onPage 2)) (opOf (.ldw 4 10 0 0))).all (fun p => p.2 == .absent) = true := by
  refine ⟨issues_of ?_, ?_, proceeds_of ?_, ?_, ?_, issues_of ?_, ?_, proceeds_of ?_, ?_⟩ <;> decide +kernel
theorem wit_GuardedStoreOfNoStrand : Issues local4 (.stw 5 10 0 0 1) (ctxOf local4) ∧ (ctxOf local4).g.visits = [] ∧
    (ctxOf local4).g.mask &&& (ctxOf local4).pred 1 = 0 ∧ (ctxOf local4).uni = false := by
  refine ⟨issues_of ?_, ?_⟩ <;> decide +kernel

/-- The strand at the word 0x300000, which holds 5. -/
def word5 : State := local4.dramWrite 0x300000 (bytesLE 4 5)
def strand0 : StrandAcc := { strand := 0, va := 0x300000, loc := .dram 0 0x300000, data := 7, aux := 5 }
theorem wit_AtomicOperations : word5.Inv ∧ request (.acas 6 10 4 2 3 0) = some (opOf (.acas 6 10 4 2 3 0)) ∧
    atomicValue 5 (BitVec.ofNat 32 strand0.data) (BitVec.ofNat 32 strand0.aux) (.acas 6 10 4 2 3 0) = some 7 ∧ locRead word5 strand0.loc 4 = 5 := by
  refine ⟨inv_of ?_, request_of ?_, ?_⟩ <;> decide +kernel
def dramAcc : Access := { kind := .store, n := 4, strands := [strand0] }
theorem wit_AccessesArePerformedWhole : dramAcc.known = true ∧ ({ dramAcc with acq := 4 } : Access).known = true ∧
    (({ local4 with overruns := [(1, 2, 3)] } : State).overruns.any fun m => m.1 == 1) = true ∧ atomicWithdrawn local4 dramAcc = none ∧
    strandBad local4 dramAcc strand0 = false ∧ strandBad { local4 with dramPoison := [0x300000 / 32] } dramAcc strand0 = true := by decide +kernel
theorem wit_StoresWriteTheirBytes : word5.Inv ∧ strand0.aux < 4294967296 ∧ (0 < 8 ∧ 8 ≤ 8) := ⟨inv_of (by decide +kernel), by decide, by decide⟩

/-- A page found, with a property. -/
def leaf {ε : Type} (r : Except ε Page) (f : Page → Bool) : Bool := match r with | .ok p => f p | .error _ => false

/-- A unit with strand 0's address a. -/
def at0 (a : Nat) : Ctx := ctxOf (memOn vec 512 fun _ => a)
/-- A visitor's body with that address. -/
def bodyAt (a : Nat) : Ctx :=
  ctxOf (unitsBy (memOn vec 512 fun _ => a) fun g => { g with
    visitor := some { srcDev := 0, srcCore := 3, seq := 0, flag := 0, replies := 0, uni := false, issued := 0, stack := 0 } })
theorem wit_StrandChecks : ∃ op, request (.ldw 4 10 0 0) = some op ∧ (at0 (2 ^ 56)).addr op.a op.off 0 / 2 ^ 56 = 1 ∧ (at0 (0xFA * 2 ^ 56)).addr op.a op.off 0 / 2 ^ 56 = 0xFA ∧
    (at0 (0xFB * 2 ^ 56)).addr op.a op.off 0 / 2 ^ 56 = 0xFB ∧ (bodyAt (0xFC * 2 ^ 56)).addr op.a op.off 0 / 2 ^ 56 = 0xFC ∧ (bodyAt (0xFC * 2 ^ 56)).g.visitor ≠ none ∧
    (at0 (0xFC * 2 ^ 56)).addr op.a op.off 0 / 2 ^ 56 = 0xFC ∧
    privateConv (launchOf (at0 (0xFC * 2 ^ 56)).s (at0 (0xFC * 2 ^ 56)).g) (at0 (0xFC * 2 ^ 56)).g 0 4 (0xFC * 2 ^ 56) = none ∧
    (at0 0x300001).addr op.a op.off 0 % op.n ≠ 0 ∧ (at0 (0xFF * 2 ^ 56 + 1024)).addr op.a op.off 0 / 2 ^ 56 = 0xFF ∧
    spadOk (at0 (0xFF * 2 ^ 56 + 1024)).s (launchOf (at0 (0xFF * 2 ^ 56 + 1024)).s (at0 (0xFF * 2 ^ 56 + 1024)).g) 512 0 1024 4 = false ∧
    fine (translate (at0 0x40000000000).s 512 (rootOf (at0 0x40000000000).s (at0 0x40000000000).g) true .read 0x40000000000) = false ∧
    leaf (translate (at0 0xC0000000).s 512 (rootOf (at0 0xC0000000).s (at0 0xC0000000).g) true .write 0xC0000000) (·.dup) = true ∧
    leaf (translate (at0 0x80000000).s 512 (rootOf (at0 0x80000000).s (at0 0x80000000).g) true .write 0x80000000) (fun p => !p.dup && !p.res) = true := by
  refine ⟨_, rfl, ?_⟩
  decide +kernel

/-- Strand 3 misses its alignment. -/
def crooked : State := memOn vec 512 fun j => if j = 3 then 0x300001 else 0x300000 + 4 * j
theorem wit_MemoryFaultsArePrecise : Issues crooked (.ldw 4 10 0 0) (ctxOf crooked) ∧ (ctxOf crooked).g.visits = [] ∧
    (ctxOf crooked).memActive (opOf (.ldw 4 10 0 0)) = [0, 1, 2] ++ 3 :: (List.range 32).drop 4 ∧
    ([0, 1, 2].all fun j => fine ((ctxOf crooked).place (opOf (.ldw 4 10 0 0)) j)) = true ∧
    (match (ctxOf crooked).place (opOf (.ldw 4 10 0 0)) 3 with | .error e => e == (0x16, 0x300001, none) | .ok _ => false) = true := by
  refine ⟨issues_of ?_, ?_⟩ <;> decide +kernel

/-- A posted operation of the unit that is not yet acknowledged. -/
def posted9 : Posted :=
  { id := 9
    core := 512
    slot := 0
    gid := 2
    owners := [2]
    launch := 1
    dev := 0
    die := 8
    addr := 0x300100
    sentAt := 0
    window := none
    held := none
    after := []
    behind := [] }
def earlier : State := { local4 with posted := [posted9] }
/-- The same with the operation held on the core. -/
def behindHeld : State := { local4 with posted := [{ posted9 with held := some (dramAcc, 2) }] }
theorem wit_PostedRecords : heldTo local4 (ctxOf local4).g 0 8 = [] ∧ heldTo behindHeld (ctxOf behindHeld).g 0 8 = [9] ∧ dramAcc.home = (0, 0) := by decide +kernel
theorem wit_PostedOperations : Issues local4 (.stw 5 10 0 1 0) (ctxOf local4) ∧ (opOf (.stw 5 10 0 1 0)).posted = true ∧ (ctxOf local4).g.postErrs = [] ∧
    (ctxOf local4).g.visits = [] ∧ (ctxOf local4).memActive (opOf (.stw 5 10 0 1 0)) ≠ [] ∧
    fine ((ctxOf local4).places (opOf (.stw 5 10 0 1 0)) ((ctxOf local4).memActive (opOf (.stw 5 10 0 1 0)))) = true ∧ local4.pageMoves = [] ∧ local4.service = 2 ∧
    (placesOf (ctxOf local4) (opOf (.stw 5 10 0 1 0))).all (fun p => match p.2 with | .spad _ _ => false | _ => true) = true ∧ local4.posted = [] ∧
    (opOf (.stw 5 10 0 1 0)).rel = 0 ∧ Issues earlier (.stwl 5 10 2 0 1 0) (ctxOf earlier) ∧ (opOf (.stwl 5 10 2 0 1 0)).rel = 2 ∧
    releaseNow earlier (ctxOf earlier).g 2 false = .wait ∧
    (visitsOf (ctxOf earlier) (opOf (.stwl 5 10 2 0 1 0)) (placesOf (ctxOf earlier) (opOf (.stwl 5 10 2 0 1 0)))).all (fun h => !(ctxOf earlier).mustHold h false) = true ∧
    (visitsOf (ctxOf local4) (opOf (.stw 5 10 0 1 0)) (placesOf (ctxOf local4) (opOf (.stw 5 10 0 1 0)))).all (fun h => !(ctxOf local4).mustHold h false) = true := by
  refine ⟨issues_of ?_, ?_, ?_, ?_, ?_, ?_, ?_, ?_, ?_, ?_, ?_, issues_of ?_, ?_⟩ <;> decide +kernel

/-! ## Witnesses: motion -/

def toV5 : Dest := { reg := some (.vec 5), pair := true, uni := false }
/-- Unit 2 waits for an inline access. -/
def inlined (got : List Results) (left : Nat) : State := unitsBy vec fun g => { g with wait := .inlineAccess got left true 12 }
theorem wit_InlineAccessEnds : (inlined [{ dest := toV5, vals := [(31, 7)] }] 0).unit? 2 = some (unitOf (inlined [{ dest := toV5, vals := [(31, 7)] }] 0) 2) ∧
    (unitOf (inlined [{ dest := toV5, vals := [(31, 7)] }] 0) 2).wait = .inlineAccess [{ dest := toV5, vals := [(31, 7)] }] 0 true 12 ∧
    (unitOf (inlined [{ dest := toV5, vals := [(31, 7)] }] 0) 2).homeFault = none ∧ (unitOf (inlined [{ dest := toV5, vals := [(31, 7)] }] 0) 2).lateAbsent = 0 ∧
    (unitOf (inlined [{ dest := toV5, vals := [(31, 7)] }] 0) 2).loc = .resident ∧
    ((inlined [{ dest := toV5, vals := [(31, 7)] }] 0).slot? 0 0).isSome = true ∧
    (inlined [] 1).unit? 2 = some (unitOf (inlined [] 1) 2) ∧ (unitOf (inlined [] 1) 2).wait = .inlineAccess [] 1 true 12 := by
  refine ⟨unit_of ?_, ?_, ?_, ?_, ?_, ?_, unit_of ?_, ?_⟩ <;> decide +kernel

/-- A message in flight. -/
def mailed (s : State) (src dst : Nat) (k : MsgClass) (b : Payload) : State :=
  { s with net := [{ id := 40, cls := k, src := src, dst := dst, body := b }], nextId := 50 }
def spadAcc : Access := { kind := .load, n := 4, strands := [{ strand := 31, va := 0xFE * 2 ^ 56, loc := .spad 0x4000000, data := 0, aux := 0 }] }
def banked : State := mailed (inlined [] 1) 0 0 .request (.spad 2 3 spadAcc toV5)
def badBank : State := { banked with spadPoison := [0x400000] }
theorem wit_ShippedScratchpadAccess : banked.ready? 40 = some (val (banked.ready? 40)) ∧ (val (banked.ready? 40)).body = .spad 2 3 spadAcc toV5 ∧
    banked.unit? 2 = some (unitOf banked 2) ∧ (unitOf banked 2).wait = .inlineAccess [] 1 true 12 ∧
    routeUp banked 0 0 = true ∧ fine (performFor banked (unitOf banked 2).region spadAcc) = true ∧ badBank.ready? 40 = banked.ready? 40 ∧
    fine (performFor badBank (unitOf badBank 2).region spadAcc) = false ∧ (unitOf badBank 2).homeFault = none ∧
    routeUp { banked with links := banked.links.map fun l => { l with state := 2 } } 0 9 = false := by
  refine ⟨val_of ?_, ?_, unit_of ?_, ?_⟩ <;> decide +kernel

/-- A flagged load of unit 2 on flag 11. -/
def loading : State :=
  { flagged vec 11 { set := true, pending := none } with
    floads := [{ id := 9, gid := 2, core := 0, flag := 11, mask := 0xFFFFFFFF#32, acc := spadAcc, dest := toV5, left := 0, got := [], err := none, absent := 0, spad := true }] }
/-- The same load while a bank unit has a part of it. -/
def loadShipped : State :=
  { loading with
    floads := loading.floads.map fun f => { f with left := 1 }
    net := [{ id := 40, cls := .request, src := 0, dst := 0, body := .spadLoad 9 3 spadAcc }] }
theorem wit_ShippedLoad : (loadShipped.ready? 40).map (·.body) = some (.spadLoad 9 3 spadAcc) ∧ (loadShipped.floads.find? fun x => x.id == 9).map (·.left) = some 1 ∧
    fine (performFor loadShipped (regionOf loadShipped 2) spadAcc) = true ∧ routeUp loadShipped 0 0 = true := by decide +kernel
theorem wit_FlaggedLoadEnds : (loading.floads.find? fun x => x.id == 9).isSome = true ∧ owedUnit loading 2 0xFFFFFFFF#32 = some (unitOf loading 2) ∧
    loading.unit? 2 = some (unitOf loading 2) ∧ (unitOf loading 2).loc = .resident ∧ (unitOf loading 2).core = 0 ∧ (loading.slot? 0 0).isSome = true ∧
    fine (performFor loading (regionOf loading 2) spadAcc) = true ∧
    fine (performFor { loading with spadPoison := [0x400000] } (regionOf loading 2) spadAcc) = false := by
  refine ⟨?_, ?_, unit_of ?_, ?_⟩ <;> decide +kernel

def completed (s : State) (gid : Nat) : State := mailed s 0 0 .reply (.completion gid 11 0xFFFFFFFF#32 [{ dest := toV5, vals := [(0, 1)] }] (some ff))
theorem wit_ForwardedCompletions : ((completed vec 2).msg? 40).isSome = true ∧ owedUnit (completed vec 2) 2 0xFFFFFFFF#32 = some (unitOf (completed vec 2) 2) ∧
    (completed vec 2).unit? 2 = some (unitOf (completed vec 2) 2) ∧ (unitOf (completed vec 2) 2).loc = .resident ∧
    owedUnit (completed vec 7) 7 0xFFFFFFFF#32 = none ∧
    (owedUnit (completed (unitsBy vec fun g => { g with loc := .swapped }) 2) 2 0xFFFFFFFF#32).map (·.loc) = some .swapped ∧
    ((mailed vec 0 0 .reply (.cause 2 11 0xFFFFFFFF#32 0x50 5)).msg? 40).map (·.body) = some (.cause 2 11 0xFFFFFFFF#32 0x50 5) := by
  refine ⟨?_, ?_, unit_of ?_, ?_⟩ <;> decide +kernel

/-- A posted operation on its way to stack 0; an acknowledgement with error 0x18, without one. -/
def arriving : State := mailed vec 0 8 .request (.posted 9 dramAcc none 1)
def acked (e : Option Nat) : State := { mailed vec 1032 0 .reply (.ack 9 e) with posted := [posted9] }
theorem wit_PostedOperationsEnd : (arriving.ready? 40).map (·.body) = some (.posted 9 dramAcc none 1) ∧ stackUp arriving 0 = true ∧ routeUp arriving 0 8 = true ∧
    arriving.dies.getD 8 0 = 0 ∧ arriving.pageMoves = [] ∧ fine (performAll arriving dramAcc) = true ∧
    ((acked none).msg? 40).map (·.body) = some (.ack 9 none) ∧ routeUp (acked none) 1032 0 = true ∧ ((acked none).posted.find? fun q => q.id == 9) = some posted9 ∧
    ((acked (some 0x18)).msg? 40).map (·.body) = some (.ack 9 (some 0x18)) ∧ posted9.dev = 0 ∧
    ((acked none).units.filter fun u => posted9.owners.contains u.uid && u.loc != .swapped && u.haltPosted == 0).length = 1 ∧ posted9.held = none ∧
    ({ acked none with now := 999999 } : State).now < posted9.sentAt + 1000000 ∧ posted9.sentAt + 1000000 ≤ ({ acked none with now := 1000000 } : State).now := by
  decide +kernel

/-- A held release that waits for the posted operation 9; one that waits for nothing. -/
def heldOp (after : List Nat) : Posted := { posted9 with id := 10, held := some (dramAcc, 4), after := after, window := some 3 }
def holdingOp (after : List Nat) (t : Nat) : State := { vec with posted := [posted9, heldOp after], ptime := t }
theorem wit_ReleasesSentAndWindowsPassed : ((holdingOp [9] 0).posted.find? fun q => q.id == 10) = some (heldOp [9]) ∧ (heldOp [9]).held = some (dramAcc, 4) ∧
    posted9 ∈ (holdingOp [9] 0).posted ∧ posted9.id ∈ (heldOp [9]).after ∧ (holdingOp [] 79999).ptime < (3 + 2) * vec.window * 1000 ∧
    (3 + 2) * vec.window * 1000 ≤ (holdingOp [] 80000).ptime ∧ (heldOp []).dev = 0 ∧
    (((mailed vec 1040 16 .request (.overrun 1 2 3)).net.findSome? fun x => match x.body with | .overrun q n a => if q = 1 then some (x, n, a) else none | _ => none).map (·.2)) =
      some (2, 3) ∧
    ((unitsBy vec fun g => { g with wait := .window 5 }).unit? 2).map (·.wait) = some (.window 5) := by
  decide +kernel

/-- Every strand's word lies at stack 1, or, for the second state, in module 1's memory. -/
def elsewhere : State := onPage 1
def abroad (up : Bool) : State := { onPage 4 with devNum := 7, sessionId := 9, peers := if up then [{ dev := 1, port := 0, valid := true, ip := [] }] else [] }
theorem wit_AccessElsewhereMigrates : Issues elsewhere (.ldw 4 10 0 0) (ctxOf elsewhere) ∧
    Proceeds (ctxOf elsewhere) (opOf (.ldw 4 10 0 0)) (placesOf (ctxOf elsewhere) (opOf (.ldw 4 10 0 0))) ∧
    (placesOf (ctxOf elsewhere) (opOf (.ldw 4 10 0 0))).all (fun p => match p.2 with | .absent | .here _ | .far _ _ _ => true | _ => false) = true ∧
    (visitsOf (ctxOf elsewhere) (opOf (.ldw 4 10 0 0)) (placesOf (ctxOf elsewhere) (opOf (.ldw 4 10 0 0)))).map (·.home) = [(0, 1)] ∧
    leaveWait elsewhere (ctxOf elsewhere).g 0 9 512 = none ∧
    Issues (abroad true) (.ldw 4 10 0 0) (ctxOf (abroad true)) ∧ peerReach (abroad true) 8 1 = true ∧ peerReach (abroad false) 8 1 = false ∧
    (visitsOf (ctxOf elsewhere) (opOf (.ldw 4 10 0 0)) (placesOf (ctxOf elsewhere) (opOf (.ldw 4 10 0 0)))).all (fun a => !(ctxOf elsewhere).mustHold a false) = true ∧
    Proceeds (ctxOf (abroad true)) (opOf (.ldw 4 10 0 0)) (placesOf (ctxOf (abroad true)) (opOf (.ldw 4 10 0 0))) ∧
    (visitsOf (ctxOf (abroad true)) (opOf (.ldw 4 10 0 0)) (placesOf (ctxOf (abroad true)) (opOf (.ldw 4 10 0 0)))).map (·.home) = [(1, 0)] := by
  refine ⟨issues_of ?_, proceeds_of ?_, ?_, ?_, ?_, issues_of ?_, ?_, ?_, ?_, proceeds_of ?_, ?_⟩ <;> decide +kernel

theorem wit_DepartureFormsAnIngot : (vec.unit? 2).isSome = true ∧ (vec.slot? 0 0).map (·.records.length) = some 0 ∧
    vec.units.all (fun h => h.uid == 2) = true := by decide +kernel

/-- Unit 2 in flight to core 512 with an access, and then the head of its queue. -/
def flying (acc : Option Access) : State :=
  mailed (unitsBy vec fun g => { g with loc := .inFlight, core := 512, carried := some { v := [(5, List.replicate 32 1)], s := [(3, 2)], destV := [], destS := [], full := false, wrote := [] } })
    0 8 .request (.ingot { me with core := 512 } acc toV5 11)
def queued : State := { unitsBy (flying none) fun g => { g with loc := .queued } with net := [], slots := [], queue := [{ core := 512, uid := 2, src := 0, size := 64 }] }
theorem wit_IngotArrives : ((flying (some dramAcc)).ready? 40).map (·.body) = some (.ingot { me with core := 512 } (some dramAcc) toV5 11) ∧
    (flying none).unit? 2 = some (unitOf (flying none) 2) ∧ placeUp (flying none) (val ((flying none).msg? 40)) (unitOf (flying none) 2) = true ∧
    (flying none).dies.getD (dieOf 512) 0 = 0 ∧ (flying none).pageMoves = [] ∧ (flying none).queue = [] ∧ 0 < queueSize 512 ∧ (flying none).crucible = [] ∧
    fine (performFor (flying (some dramAcc)) 1 dramAcc) = true ∧ dramAcc.known = true ∧
    (unitOf (flying none) 2).lateAbsent = 0 ∧ ({ flying none with units := [] } : State).unit? 2 = none := by
  refine ⟨?_, unit_of ?_, ?_⟩ <;> decide +kernel
theorem wit_IngotAdmitted : (queued.queue.find? fun x => x.core == 512).isSome = true ∧ queued.unit? 2 = some (unitOf queued 2) ∧ (unitOf queued 2).core = 512 ∧
    (unitOf queued 2).joinWait = 0 ∧ (unitOf queued 2).haltPosted = 0 ∧ queued.flushes = [] ∧ upperHolder queued 2 = false ∧ queued.net = [] ∧ (unitOf queued 2).rejoining = false ∧ (unitOf queued 2).twinned = false ∧
    (unitOf queued 2).carried.isSome = true ∧ ((queued.launch? 1).map (·.preempted)).getD false = false ∧ (unitOf queued 2).resume.1 = 0 ∧
    (unitOf queued 2).image = none ∧ (unitOf queued 2).wait = .none ∧ queued.crucible = [] ∧
    ((slotFor queued (unitOf queued 2) (headInfo queued (unitOf queued 2)).valloc (headInfo queued (unitOf queued 2)).salloc).map (·.2)) = some false ∧
    (slotFor (launchesBy queued fun l => { l with chain := [{ wordNode with budgetGroups := 0 }] }) (unitOf queued 2) 112 112).isNone = true := by
  refine ⟨?_, unit_of ?_, ?_⟩ <;> decide +kernel

/-- s3 names core 512, or a core of a die that has failed. -/
def going (k : Nat) : State := withS vec 3 k
theorem wit_MigrMovesTheUnit : Issues (going 512) (.migrCore 3) (ctxOf (going 512)) ∧ coreUp (going 512) 512 = true ∧
    leaveWait (going 512) (ctxOf (going 512)).g 0 8 512 = none ∧ Issues vec .migrLaunch (ctxOf vec) ∧ homeOf (ctxOf vec).g.gid = none ∧ (ctxOf vec).g.launchCore = 0 ∧
    Issues elsewhere (.migrAddr 10) (ctxOf elsewhere) ∧ leaf (lookupPage elsewhere 512 (rootOf elsewhere (ctxOf elsewhere).g) 0x40000000) (fun p => p.device == 0) = true ∧
    fine (lookupPage elsewhere 512 (rootOf elsewhere (ctxOf elsewhere).g) 0x40000000000) = false ∧
    coreUp ({ going 64 with dies := (going 64).dies.set 1 3 } : State) 64 = false ∧ earlier.posted ≠ [] ∧ leaveWait earlier (ctxOf earlier).g 0 9 576 ≠ none := by
  refine ⟨issues_of ?_, ?_, ?_, issues_of ?_, ?_, ?_, issues_of ?_, ?_⟩ <;> decide +kernel
theorem wit_HomeReportsPlaces : Issues elsewhere (.home 5 10) (ctxOf elsewhere) ∧
    (ctxOf elsewhere).active.all (fun k => (homeWordOf (ctxOf elsewhere) k ((ctxOf elsewhere).src64 10 k)).isSome) = true ∧
    ((at0 (2 ^ 56)).active.find? fun k => (homeWordOf (at0 (2 ^ 56)) k ((at0 (2 ^ 56)).src64 10 k)).isNone) = some 0 := by
  refine ⟨issues_of ?_, ?_⟩ <;> decide +kernel

/-! ## Witnesses: rejoin, barriers, fences -/

/-- Unit 2 is a fragment of the strands m under barrier 3 of core a, its record standing in slot 0 of core 0. -/
def rec3 (lead : Option Group) : Rejoin :=
  { bar := 3, parent := 0xFF#32, arrived := if lead.isSome then 0x0F#32 else 0, outerDev := 0, outerAnchor := 0, outerBar := 0, lead := lead, uids := [], errs := [],
    joins := [], joinOver := false, joinRegions := [], lastWindow := none }
def fragment (m : Word) (a : Nat) (lead : Option Group) : State :=
  slotsBy (unitsBy vec fun g => { g with mask := m, rejoin := 3, anchor := a }) fun x => { x with records := [rec3 lead] }
/-- A fragment whose record lies on module 3, at a service level. -/
def afar (service : Nat) : State := { unitsBy (fragment 0xF0 0 none) fun g => { g with anchorDev := 3 } with service := service }
/-- A fragment that waited for flag 0, which cleared with a fault. -/
def faultWaits : State := unitsBy (fragment 0xF0 0 none) fun g => ({ g with awaited := [0] } : Group).putFlag 0 { set := false, pending := some ff }
/-- The slot of its record is saved; the fragment itself stands in slot 1. -/
def savedAnchor : State :=
  let s := unitsBy (fragment 0xF0 0 none) fun g => { g with slot := 1 }
  { s with slots := (s.slots.map fun x => { x with slot := 512 }) ++ s.slots.map fun x => { x with slot := 1, records := [] } }
theorem wit_RejoinArrives : Issues vec (.rejoin 3) (ctxOf vec) ∧ (ctxOf vec).g.rejoin = 0 ∧ Issues (fragment 0xF0 0 none) (.rejoin 0) (ctxOf (fragment 0xF0 0 none)) ∧
    Issues (fragment 0xF0 0 none) (.rejoin 4) (ctxOf (fragment 0xF0 0 none)) ∧ (ctxOf (fragment 0xF0 0 none)).g.rejoin = 3 ∧
    owed (fragment 0xF0 0 none) (ctxOf (fragment 0xF0 0 none)).g = [] ∧ pendingOf (ctxOf (fragment 0xF0 0 none)).g (ctxOf (fragment 0xF0 0 none)).g.awaited = none ∧
    (ctxOf (fragment 0xF0 0 none)).g.anchorDev = (fragment 0xF0 0 none).devNum ∧ anchorSaved (fragment 0xF0 0 none) (ctxOf (fragment 0xF0 0 none)).g = false ∧
    Issues (fragment 0xF0 512 none) (.rejoin 3) (ctxOf (fragment 0xF0 512 none)) ∧
    leaveWait (fragment 0xF0 512 none) (ctxOf (fragment 0xF0 512 none)).g 0 8 512 = none ∧
    owed (unitsBy owing fun g => { g with rejoin := 3 }) (unitOf (unitsBy owing fun g => { g with rejoin := 3 }) 2) ≠ [] ∧
    Issues faultWaits (.rejoin 3) (ctxOf faultWaits) ∧ owed faultWaits (ctxOf faultWaits).g = [] ∧
    pendingOf (ctxOf faultWaits).g (ctxOf faultWaits).g.awaited = some (0, ff) ∧ (ctxOf (afar 2)).g.anchorDev = 3 ∧ (afar 2).devNum ≠ 3 ∧
    pendingOf (ctxOf (afar 2)).g (ctxOf (afar 2)).g.awaited = none ∧ owed (afar 2) (ctxOf (afar 2)).g = [] ∧ Issues (afar 2) (.rejoin 3) (ctxOf (afar 2)) ∧
    Issues (afar 1) (.rejoin 3) (ctxOf (afar 1)) ∧ peerReach (afar 2) 0 3 = false ∧
    Issues savedAnchor (.rejoin 3) (ctxOf savedAnchor) ∧ anchorSaved savedAnchor (ctxOf savedAnchor).g = true := by
  refine ⟨issues_of ?_, ?_, issues_of ?_, issues_of ?_, ?_, ?_, ?_, ?_, ?_, issues_of ?_, ?_, ?_, issues_of ?_, ?_, ?_, ?_, ?_, ?_, ?_, issues_of ?_, issues_of ?_, ?_, issues_of ?_, ?_⟩ <;> decide +kernel

/-- The fragment that arrives: the strands 4 to 7, or 4 alone; the lead holds the strands 0 to 3. -/
def second (m : Word) : Group := { unitOf (fragment m 0 none) 2 with uid := 5 }
def meeting : State := fragment 0x0F 0 (some { me with mask := 0x0F#32 })
theorem wit_RecordsMerge : (recordSlot (meeting.dropUnit 5) 2 0 3 0xF0#32).isSome = true ∧
    (val (recordSlot (meeting.dropUnit 5) 2 0 3 0xF0#32)).1.here = true ∧ meeting.slot? 0 0 = some (val (recordSlot (meeting.dropUnit 5) 2 0 3 0xF0#32)).1 ∧
    (val (recordSlot (meeting.dropUnit 5) 2 0 3 0xF0#32)).2.parent = 0xFF#32 ∧ (val (recordSlot (meeting.dropUnit 5) 2 0 3 0xF0#32)).2.lead.isSome = true ∧
    lowest ({ me with mask := 0x0F#32 } : Group).mask < lowest (second 0xF0#32).mask ∧
    (val (recordSlot (meeting.dropUnit 5) 2 0 3 0xF0#32)).2.arrived ||| (second 0xF0#32).mask = 0xFF#32 ∧
    (val (recordSlot (meeting.dropUnit 5) 2 0 3 0x10#32)).2.arrived ||| (second 0x10#32).mask ≠ 0xFF#32 := by
  decide +kernel

/-- The team of the launch with other members, and barrier 31 as given. -/
def teamWith (members : List Nat) (b : Bar) : State :=
  { vec with teams := vec.teams.map fun t => { t with members := members, bars := t.bars.set 31 b } }
def bar2 : Bar := { Bar.blank with n := 2, n0 := 2 }
def team (s : State) : Team := val (s.team? 1 0)
theorem wit_BarriersOfATeam : barrierOf (ctxOf (teamWith [0, 1] bar2)) (.barSync 2 31 0 0) = some (2, 2, 31, none) ∧
    Issues (teamWith [0, 1] bar2) (.barSync 2 31 0 0) (ctxOf (teamWith [0, 1] bar2)) ∧ homeOf (ctxOf vec).g.gid = none ∧
    (teamWith [0, 1] bar2).team? 1 0 = some (team (teamWith [0, 1] bar2)) ∧ overrunHit vec (ctxOf vec).g 2 = false ∧ releaseNow vec (ctxOf vec).g 2 false = .go ∧
    (team (teamWith [0, 1] bar2)).anchor = (ctxOf vec).g.core ∧
    ((barEffect (teamWith [0, 1] bar2) (ctxOf vec).g (team (teamWith [0, 1] bar2)) 31 2 2 none).map (·.2)) = some (some 0) ∧
    (barEffect vec (ctxOf vec).g (team vec) 31 2 2 none).isNone = true ∧
    ((barEffect vec (ctxOf vec).g (team vec) 0 2 2 none).map (·.2)) = some none ∧
    (team ({ vec with teams := vec.teams.map fun t => { t with anchor := 5 } } : State)).anchor ≠ (ctxOf vec).g.core := by
  refine ⟨?_, issues_of ?_, ?_, val_of ?_, ?_⟩ <;> decide +kernel

/-- Another group of the team waits at barrier 31 on the anchor core. -/
def withWaiter : State :=
  { teamWith [0, 1] { bar2 with arrived := 1, groups := [1] } with
    units := vec.units ++ [{ me with uid := 6, gid := 6, grp := 1, slot := 1, wait := .bar 31 2 0 }] }
theorem wit_BarrierGenerations : vec.team? 1 0 = some (team vec) ∧ 31 < (team vec).bars.length ∧ arrivalCount (team vec) 31 none = 0 ∧
    arrivalCount (team (teamWith [0, 1] bar2)) 31 none = 2 ∧ 0 ∉ ((team (teamWith [0, 1] bar2)).bar 31).groups ∧
    ((team (teamWith [0, 1] bar2)).bar 31).arrived + 1 < 2 ∧ aliveMask vec 2 &&& ~~~(0#32 ||| me.mask) = 0 ∧
    aliveMask vec 2 &&& ~~~(0#32 ||| ({ me with mask := 1#32 } : Group).mask) ≠ 0 ∧
    arrivalCount (team withWaiter) 31 none ≤ ((team withWaiter).bar 31).arrived + 1 ∧ 0 ∉ ((team withWaiter).bar 31).groups ∧
    (withWaiter.unit? 6).map (·.wait) = some (.bar 31 2 0) ∧ 6 ≠ me.uid ∧ ((unitOf withWaiter 6).core = (team withWaiter).anchor) ∧
    ({ me with tokens := [(31, 0)] } : Group).tokens.lookup 31 = some ((team vec).bar 31).gen ∧ me.tokens.lookup 31 ≠ some ((team vec).bar 31).gen ∧
    ((team vec).bar 31).arrived = 0 ∧ ((team vec).bar 31).groups = [] ∧ (0 < 512 ∧ 512 ≤ 512) ∧ 512 < 513 := by
  decide +kernel

def arrival (s : State) : State := mailed s 5 0 .request (.barArrive 2 0xFFFFFFFF#32 31 2 2 0)
def released (w : Wait) : State := mailed (unitsBy vec fun g => { g with wait := w }) 1024 0 .reply (.barRelease 2 0xFFFFFFFF#32 true)
def removing : State := mailed (fragment 0xF0 0 none) 5 0 .request (.exitRemove 2 0 3 0x0F#32 [])
theorem wit_BarrierMessages : ((arrival vec).ready? 40).map (·.body) = some (.barArrive 2 0xFFFFFFFF#32 31 2 2 0) ∧
    unitBy (arrival vec) 2 0xFFFFFFFF#32 = some (unitOf (arrival vec) 2) ∧ (unitOf (arrival vec) 2).loc = .resident ∧
    routeUp (arrival vec) 5 0 = true ∧ teamAway (arrival vec) 1 0 = false ∧
    (arrival vec).team? 1 0 = some (team (arrival vec)) ∧ (barEffect ((arrival vec).dropMsg 40) (unitOf (arrival vec) 2) (team (arrival vec)) 31 2 2 none).isNone = true ∧
    ((barEffect ((arrival vec).dropMsg 40) (unitOf (arrival vec) 2) (team (arrival vec)) 0 2 2 none).map (·.2)) = some none ∧
    ((barEffect ((arrival (teamWith [0, 1] bar2)).dropMsg 40) me (team (teamWith [0, 1] bar2)) 31 2 2 none).map (·.2)) = some (some 0) ∧
    ((released (.barSent 31 2 2)).msg? 40).map (·.body) = some (.barRelease 2 0xFFFFFFFF#32 true) ∧
    unitBy (released (.barSent 31 2 2)) 2 0xFFFFFFFF#32 = some (unitOf (released (.barSent 31 2 2)) 2) ∧ (unitOf (released (.barSent 31 2 2)) 2).wait = .barSent 31 2 2 ∧
    (unitOf (released (.bar 31 2 0)) 2).wait = .bar 31 2 0 ∧ (unitOf (released (.bar 31 2 0)) 2).loc ≠ .swapped ∧
    (removing.ready? 40).map (·.body) = some (.exitRemove 2 0 3 0x0F#32 []) ∧ (recordSlot removing 2 0 3 0x0F#32).isSome = true ∧
    (val (recordSlot removing 2 0 3 0x0F#32)).2.outerBar = 0 := by
  refine ⟨?_, ?_, ?_, ?_, ?_, val_of ?_, ?_⟩ <;> decide +kernel

theorem wit_WaitsEndWithTheirAcquire : (∃ n a, (({ me with region := 1 } : Group).region, n, a) ∈ [(1, 7, 64)]) ∧
    ∀ n a, (me.region, n, a) ∉ vec.overruns := by
  refine ⟨⟨7, 64, by decide +kernel⟩, ?_⟩
  simp [show vec.overruns = [] from by decide +kernel]

/-- The unit's last cross-device posted operation lies in window 3. -/
def windowed (t : Nat) : State := { unitsBy vec fun g => { g with lastWindow := some 3 } with ptime := t }
theorem wit_ReleaseConditions : ({ me with postErrs := [(0, 0x19, 5)] } : Group).postErrs = (0, 0x19, 5) :: [] ∧ posted9 ∈ earlier.posted ∧ me.uid ∈ posted9.owners ∧
    me.postErrs = [] ∧ loadsOut owing (unitOf owing 2) = true ∧ loadsOut vec me = false ∧ movesOut vec me = false ∧ vec.posted = [] ∧
    (unitOf (windowed 79999) 2).lastWindow = some 3 ∧ (windowed 79999).ptime < (3 + 2) * (windowed 0).window * 1000 ∧
    (3 + 2) * (windowed 0).window * 1000 ≤ (windowed 80000).ptime := by decide +kernel

def overrunning : State := { unitsBy vec fun g => { g with region := 1 } with overruns := [(1, 7, 64)] }
def erring : State := unitsBy vec fun g => { g with postErrs := [(0, 0x19, 5), (1, 0x18, 6)] }
theorem wit_FenceWaitsForItsHalves : Issues overrunning (.fence 4 1 3) (ctxOf overrunning) ∧ (3#2).getLsbD 0 = true ∧ (3#2).getLsbD 1 = true ∧
    (∃ n a, ((ctxOf overrunning).g.region, n, a) ∈ overrunning.overruns) ∧ Issues vec (.fence 3 1 3) (ctxOf vec) ∧ releaseNow vec (ctxOf vec).g 3 true = .go ∧
    loadsOut vec (ctxOf vec).g = false ∧ movesOut vec (ctxOf vec).g = false ∧ Issues earlier (.fence 2 0 2) (ctxOf earlier) ∧
    releaseNow earlier (ctxOf earlier).g 2 false = .wait ∧ Issues erring (.fence 1 0 2) (ctxOf erring) ∧ releaseNow erring (ctxOf erring).g 1 false = .error 0x19 5 ∧
    Issues owing (.fence 1 0 1) (ctxOf owing) ∧ loadsOut owing (ctxOf owing).g = true := by
  refine ⟨issues_of ?_, ?_, ?_, ⟨7, 64, ?_⟩, issues_of ?_, ?_, ?_, ?_, issues_of ?_, ?_, issues_of ?_, ?_, issues_of ?_, ?_⟩ <;> decide +kernel

/-! ## Witnesses: lattice -/

theorem wit_StrandsInOrder : ∀ y ∈ [strand0], ∀ d pa, y.loc = .dram d pa →
    0x2FFFFF < fwdPa word5 pa ∨ fwdPa word5 pa + 4 ≤ 0x2FFFFF := by
  intro y hy d pa h
  simp only [List.mem_singleton] at hy
  subst hy
  simp only [strand0, Loc.dram.injEq] at h
  obtain ⟨-, rfl⟩ := h
  exact .inl (by decide +kernel)
theorem wit_LatticeTypes : cellValue 11 (2 ^ 32) ∧ cellValue 11 1 ∧ cellValue 11 (2 ^ 32 + 1) ∧ cellValue 10 0x7FC00000 ∧ cellValue 1 0 := by
  unfold cellValue
  decide +kernel

/-- A lattice region of type 2 (a minimum) of 1 KiB at 0x1000, which the launch sees; rc is n. -/
def lat (n : Nat) (f : Nat → Nat) : State :=
  { launchesBy (withVV vec 10 f) (fun l => { l with regions := [0x1000] }) with
    latRegions := [{ (default : LatRegion) with base := 0x1000, size := 0x400, typ := 2, period := 100, nextAt := 100 }]
    now := n }
def cellsAt (j : Nat) : Nat := 0xFB * 2 ^ 56 + 0x1000 + 4 * j
def meshed : State := lat 0 cellsAt
/-- The list of a result. -/
def listOf {ε α : Type} (r : Except ε (List α)) : List α := match r with | .ok l => l | .error _ => []
theorem list_of {ε α : Type} {r : Except ε (List α)} (h : fine r = true) : r = .ok (listOf r) := by
  cases r with
  | error e => simp [fine] at h
  | ok p => rfl
def cellList (s : State) : CellList := listOf ((ctxOf s).cells 2 ((ctxOf s).addr 10 0) (ctxOf s).active)
def failsAt (c : Ctx) (t a code : Nat) : Bool := match c.cell t a with | .error e => e == (code, a) | .ok _ => false
/-- Strand 3 at another address; the replica of die 0 out of service. -/
def straying (a : Nat) : State := lat 0 fun j => if j = 3 then a else cellsAt j
def replicaOut (s : State) : State := { s with replicas := s.replicas.set 0 false }
theorem wit_LatticeChecks :
    latticeOf (ctxOf (straying (2 ^ 56))) (.ljoin 10 12 2) = some (2, (ctxOf (straying (2 ^ 56))).addr 10 0, (ctxOf (straying (2 ^ 56))).active) ∧
    Issues (straying (2 ^ 56)) (.ljoin 10 12 2) (ctxOf (straying (2 ^ 56))) ∧
    (ctxOf meshed).s.replicas.getD (dieOf (ctxOf meshed).g.core) false = true ∧
    Issues (replicaOut meshed) (.ljoin 10 12 2) (ctxOf (replicaOut meshed)) ∧
    (replicaOut meshed).replicas.getD (dieOf (ctxOf (replicaOut meshed)).g.core) false = false ∧
    (ctxOf (straying (2 ^ 56))).active = [0, 1, 2] ++ 3 :: (List.range 32).drop 4 ∧
    ([0, 1, 2].all fun j => fine ((ctxOf (straying (2 ^ 56))).cell 2 ((ctxOf (straying (2 ^ 56))).addr 10 0 j))) = true ∧
    failsAt (ctxOf (straying (2 ^ 56))) 2 (2 ^ 56) 0x15 = true ∧ failsAt (ctxOf meshed) 2 (0xFA * 2 ^ 56) 0x15 = true ∧
    failsAt (ctxOf meshed) 2 0x1000 0x31 = true ∧ failsAt (ctxOf meshed) 2 (0xFC * 2 ^ 56 + 0x1000) 0x31 = true ∧
    failsAt (ctxOf meshed) 2 (0xFB * 2 ^ 56 + 0xFFC) 0x31 = true ∧ failsAt (ctxOf meshed) 2 (0xFB * 2 ^ 56 + 0x1400) 0x31 = true ∧
    fine ((ctxOf meshed).cell 2 (0xFB * 2 ^ 56 + 0x13FC)) = true := by
  refine ⟨rfl, issues_of ?_, ?_, issues_of ?_, ?_⟩ <;> decide +kernel

/-- The thresholds v12 at f; the cells hold the bottom 0xFFFFFFFF. -/
def awaiting (n f : Nat) : State := withV (lat n cellsAt) 12 fun _ => f
theorem wit_JoinsAndReads : meshed.replicas.getD (dieOf (ctxOf meshed).g.core) false = true ∧ Issues meshed (.ljoin 10 12 2) (ctxOf meshed) ∧
    latticeOf (ctxOf meshed) (.ljoin 10 12 2) = some (2, (ctxOf meshed).addr 10 0, (ctxOf meshed).active) ∧
    (ctxOf meshed).cells 2 ((ctxOf meshed).addr 10 0) (ctxOf meshed).active = .ok (cellList meshed) ∧ (cellList meshed).length = 32 ∧
    Issues meshed (.ljoinr 6 10 12 2) (ctxOf meshed) ∧ Issues meshed (.lld 112 10 0 2) (ctxOf meshed) ∧
    latticeOf (ctxOf meshed) (.lld 112 10 0 2) = some (2, (ctxOf meshed).addr 10 0, (ctxOf meshed).active) ∧
    Issues (awaiting 9 0xFFFFFFFF) (.lldw 6 10 12 2) (ctxOf (awaiting 9 0xFFFFFFFF)) ∧
    ((cellList (awaiting 9 0xFFFFFFFF)).all fun x => latLeq 2 ((ctxOf (awaiting 9 0xFFFFFFFF)).latVal 2 12 x.1)
      (latGet (awaiting 9 0xFFFFFFFF) x.2.1.typ 0 x.2.2)) = true ∧
    Issues (awaiting 9 0) (.lldw 6 10 12 2) (ctxOf (awaiting 9 0)) ∧
    ((cellList (awaiting 9 0)).find? fun x => !latLeq 2 ((ctxOf (awaiting 9 0)).latVal 2 12 x.1) (latGet (awaiting 9 0) x.2.1.typ 0 x.2.2)).isSome = true ∧
    (awaiting 9 0).now - 9 < latLimit (awaiting 9 0) (ctxOf (awaiting 9 0)).g ∧
    Issues (unitsBy (awaiting 1000000000 0) fun g => { g with wait := .lldw 0 }) (.lldw 6 10 12 2)
      (ctxOf (unitsBy (awaiting 1000000000 0) fun g => { g with wait := .lldw 0 })) ∧
    latLimit (awaiting 1000000000 0) (ctxOf (awaiting 1000000000 0)).g ≤ (awaiting 1000000000 0).now := by
  refine ⟨?_, issues_of ?_, rfl, list_of ?_, ?_, issues_of ?_, issues_of ?_, rfl, issues_of ?_, ?_, issues_of ?_, ?_, ?_, issues_of ?_, ?_⟩ <;> decide +kernel

/-- What joining the stores' values reads. -/
def storeJoins (s : State) : List (Nat × Nat) × State :=
  joinCells s (ctxOf s).g.uid (dieOf (ctxOf s).g.core) (cellList s) fun k => latNorm 2 ((ctxOf s).latVal 2 12 k)
/-- The cell of strand 31 holds 5. -/
def lowered : State := { meshed with lat := [{ key := latKey 0 0x107C, val := 5, dirty := [], changed := 0 }] }
theorem wit_StoresFlushesEpochs : Issues meshed (.lstx 12 10 0 2) (ctxOf meshed) ∧
    latticeOf (ctxOf meshed) (.lstx 12 10 0 2) = some (2, (ctxOf meshed).addr 10 0, (ctxOf meshed).active) ∧
    (ctxOf meshed).cells 2 ((ctxOf meshed).addr 10 0) (ctxOf meshed).active = .ok (cellList meshed) ∧ (storeJoins meshed).1.length = 32 ∧
    ((storeJoins (awaiting 0 0xFFFFFFFF)).1.all fun x => latLeq 2 x.2 (latNorm 2 ((ctxOf (awaiting 0 0xFFFFFFFF)).latVal 2 12 x.1))) = true ∧
    Issues (withV lowered 12 fun _ => 6) (.lstx 12 10 0 2) (ctxOf (withV lowered 12 fun _ => 6)) ∧
    ((storeJoins (withV lowered 12 fun _ => 6)).1.find? fun x => !latLeq 2 x.2 (latNorm 2 ((ctxOf (withV lowered 12 fun _ => 6)).latVal 2 12 x.1))).map (·.1)
      = some 31 ∧
    Issues meshed (.lflush 10 2) (ctxOf meshed) ∧ latticeOf (ctxOf meshed) (.lflush 10 2) =
      some (2, fun k => ((ctxOf meshed).vsrc 10 k).toNat + 4294967296 * ((ctxOf meshed).vsrc 11 k).toNat, strands (ctxOf meshed).g.mask) ∧
    cellList meshed ≠ [] ∧ Issues meshed (.lepoch 6 10 2) (ctxOf meshed) ∧ Issues meshed (.lepoch 112 10 2) (ctxOf meshed) := by
  refine ⟨issues_of ?_, rfl, list_of ?_, ?_, ?_, issues_of ?_, ?_, issues_of ?_, rfl, ?_, issues_of ?_, issues_of ?_⟩ <;> decide +kernel
theorem wit_CellsOnlyRise : ((cellList meshed).all fun x => x.2.1.typ == 2) = true ∧ cellList meshed ≠ [] ∧
    ((cellList meshed).all fun x => latKey 0 x.2.2 != latKey 15 x.2.2 && latKey 0 x.2.2 != latKey 0 0x1080) = true := by decide +kernel

/-- A region on its way: a round that began, with k deliveries out; a flush of unit 2 with k deliveries out; messages of each. -/
def region2 : LatRegion := { (default : LatRegion) with base := 0x1000, size := 0x400, typ := 2, period := 100, nextAt := 100 }
def rounding (n k : Nat) (st : Option Nat) : State := { meshed with latRegions := [{ region2 with left := k, started := st }], now := n }
def spreading : State := mailed (rounding 100 1 (some 100)) 1024 1 .request (.round 0x1000 0 1 0 [(0x1000, 4)])
def flushing (k : Nat) : State :=
  { mailed (unitsBy meshed fun g => { g with wait := .flush 8, joinList := [0x1000, 0x2000], joinRegions := [0x1000] }) 1024 1 .request
      (.flush 8 0x1000 1 0 [(0x13FC, 4)]) with flushes := [{ id := 8, uid := 2, base := 0x1000, left := k }] }
def joining : State := mailed (unitsBy meshed fun g => { g with joinWait := 1 }) 0 1 .request (.joinCells 2 1 [(0x13FC, 4)])
theorem wit_JoinsTravel : (latBase (rounding 100 0 none) 0x1000).map (fun r => (r.started, r.nextAt)) = some (none, 100) ∧
    (latBase (rounding 99 0 none) 0x1000).map (·.nextAt) = some 100 ∧ (spreading.msg? 40).map (·.body) = some (.round 0x1000 0 1 0 [(0x1000, 4)]) ∧
    (latBase spreading 0x1000).map (fun r => (r.started, r.left)) = some (some 100, 1) ∧
    (latBase (rounding 100 0 (some 100)) 0x1000).map (fun r => (r.started, r.left)) = some (some 100, 0) ∧
    ((flushing 2).msg? 40).map (·.body) = some (.flush 8 0x1000 1 0 [(0x13FC, 4)]) ∧ (flushing 2).flushes.map (·.left) = [2] ∧
    ((flushing 1).flushes.filter fun f => f.id == 8) = [{ id := 8, uid := 2, base := 0x1000, left := 1 }] ∧
    ((flushing 1).unit? 2).map (·.wait) = some (.flush 8) ∧ (joining.ready? 40).map (·.body) = some (.joinCells 2 1 [(0x13FC, 4)]) ∧
    joining.latRegions = [region2] ∧ (joining.unit? 2).isSome = true ∧ routeUp spreading 1024 1 = true ∧ routeUp (flushing 1) 1024 1 = true ∧
    routeUp joining 0 1 = true ∧ routeUp { spreading with links := spreading.links.map fun l => { l with state := 2 } } 1024 9 = false ∧ (replicaOut meshed).dies.getD 0 2 = 0 ∧ (replicaOut meshed).replicas[0]? = some false ∧
    (replicasUp (replicaOut meshed)).find? (fun x => decide (0 < x)) = some 1 := by decide +kernel

/-- Unit 2 holds the bundle of its pc, whose words are all w. -/
def bundled (s : State) (w : Word) : State :=
  unitsBy s fun g => { g with bundle := some { addr := 0x1000, hallmark := 0, words := [w, w, w], entry := 0, waited := false } }
theorem wit_LatticeWaitLimit : ((unitsBy (awaiting 5 0) fun g => { g with wait := .lldw 0 }).unit? 2).map (·.wait) = some (.lldw 0) ∧
    (slotIssue (unitOf (bundled (unitsBy (awaiting 5 0) fun g => { g with wait := .lldw 0 }) 0xC6181072) 2)).map (·.1) = some 0xC6181072 ∧
    decodeWord 0xC6181072 = .ok (.lldw 6 2 7 2) ∧ (awaiting 5 0).now < latLimit (awaiting 5 0) me ∧
    latLimit (awaiting 5 0) me ≤ (awaiting 1000000000 0).now := by
  refine ⟨?_, ?_, rfl, ?_⟩ <;> decide +kernel

/-! ## Witnesses: remote calls, moves -/

/-- The launch's remote table: entry 0 takes two payload and two reply registers; strand 0's address is a. -/
def callingTo (a : Nat) : State :=
  launchesBy (memOn vec 512 fun _ => a) fun l => { l with remote := [{ offset := 0x100, payload := 2, reply := 2, valid := true }] }
def calling : State := callingTo 0x300100
def call0 (e : BitVec 4) : Instr := .rcall 0 5 3 10 12 e
def opnds (s : State) (e : BitVec 4) : List Opnd := (ctxOf s).callOpnds 5 10 12 e
def runs (c : Ctx) (a dev core : Nat) : Bool := match c.executor a with | .ok p => (p.1, p.2.1) == (dev, core) | .error _ => false
def noLeaf (s : State) (a : Nat) : Bool := match lookupPage s 512 (rootOf s (ctxOf s).g) a with | .error none => true | _ => false
def numbered (n : Nat) : State :=
  { calling with now := n, cores := [{ (default : CoreState) with core := 512, callSeq := 65535, callTimes := [(65535, 0)] }] }
theorem wit_CallsAreSent : Clear (ctxOf (numbered 999999)) (call0 0) (opnds (numbered 999999) 0) ∧ ctx? calling = some (ctxOf calling) ∧ Clear (ctxOf calling) (call0 0) (opnds calling 0) ∧
    ((ctxOf calling).remoteEntry 0).valid = true ∧ ((ctxOf calling).remoteEntry 1).valid = false ∧ Clear (ctxOf calling) (call0 1) (opnds calling 1) ∧
    calling.service = 2 ∧ (ctxOf calling).addr 10 0 (ctxOf calling).low = 0x300100 ∧ runs (ctxOf calling) 0x300100 0 513 = true ∧
    executorUp calling 512 0 513 = true ∧ seqFree calling (calling.coreState 512) = true ∧
    [2 ^ 56, 0xFA * 2 ^ 56, 0xFB * 2 ^ 56, 0xFC * 2 ^ 56, 0xFD * 2 ^ 56, 0xFF * 2 ^ 56, 0x40000000000].all (fun a =>
      clearB (ctxOf (callingTo a)) (call0 0) (opnds (callingTo a) 0) && (ctxOf (callingTo a)).addr 10 0 (ctxOf (callingTo a)).low == a) = true ∧
    privateConv (launchOf calling (ctxOf calling).g) (ctxOf calling).g 0 1 (0xFC * 2 ^ 56) = none ∧ noLeaf calling 0x40000000000 = true ∧
    executorUp { calling with dies := calling.dies.set 8 3 } 512 0 513 = false ∧ executorUp calling 512 1 513 = false ∧
    heldTo calling (ctxOf calling).g 0 8 = [] ∧ calling.pageMoves = [] ∧ (ctxOf calling).g.core = 512 ∧
    heldTo { calling with posted := [{ posted9 with held := some (dramAcc, 2), dev := 0, die := 8 }] } (ctxOf calling).g 0 8 = [9] ∧
    markerHeld { calling with pageMoves := [{ id := 3, qp := 0, tag := 0, va := 0, size := 4096, oldPa := 0x900000, newPa := 0x300000, copied := true, cores := [512] }] }
      512 0x300100 = true ∧
    seqFree (numbered 999999) ((numbered 999999).coreState 512) = false ∧ seqFree (numbered 1000000) ((numbered 1000000).coreState 512) = true := by
  refine ⟨clear_of ?_, ctx_of ?_, clear_of ?_, ?_, ?_, clear_of ?_, ?_⟩ <;> decide +kernel

/-- The record of a call on flag 3, issued at a core. -/
def record (core : Nat) : Call :=
  { id := 7
    gid := 2
    launch := 1
    mask := 0xFFFFFFFF
    flag := 3
    core := core
    seq := 65535
    exDev := 0
    exCore := 513
    entry := 0
    rb := 5
    replies := 2
    vwb := 0
    swb := 0
    uni := false
    deadline := 100
    overdue := false
    retried := false
    delivered := false
    answered := false
    pa := 0x300100 }
def recorded (core : Nat) : State := { flagged calling 3 { set := true, pending := none } with calls := [record core] }
def retry0 (e : BitVec 4) : Instr := .rcallRetry 0 5 3 10 12 e
def unnumbered (n : Nat) : State := bundled (unitsBy (numbered n) fun g => { g with wait := .callSeq }) 0
theorem wit_CallsAreRetried : ctx? calling = some (ctxOf calling) ∧ Clear (ctxOf calling) (retry0 0) (opnds calling 0) ∧
    callOf calling (ctxOf calling).g 3 = none ∧ ((ctxOf calling).g.flag 3).set = false ∧
    [512, 0].all (fun k => (ctx? (recorded k)).isSome && clearB (ctxOf (recorded k)) (retry0 0) (opnds (recorded k) 0) &&
      clearB (ctxOf (recorded k)) (retry0 1) (opnds (recorded k) 1) && (callOf (recorded k) (ctxOf (recorded k)).g 3 == some (record k))) = true ∧
    (recorded 0).launch? 1 ≠ none ∧ ((unnumbered 5).unit? 2).map (·.wait) = some .callSeq ∧ (slotIssue (unitOf (unnumbered 5) 2)).isSome = true ∧
    seqFree (unnumbered 999999) ((unnumbered 999999).coreState 512) = false ∧ seqFree (unnumbered 1000000) ((unnumbered 1000000).coreState 512) = true ∧
    (match decodeWord ((encode (call0 0)).getD 0) with | .ok i => i == call0 0 | .error _ => false) = true := by
  refine ⟨ctx_of ?_, clear_of ?_, ?_⟩ <;> decide +kernel

/-- Unit 2 is the body of a call from core 3. -/
def caller : Visitor := { srcDev := 0, srcCore := 3, seq := 65535, flag := 3, replies := 2, uni := false, issued := 0, stack := 0 }
def body (n : Nat) : State := unitsBy (memOn vec 512 fun _ => 0) fun g => { g with visitor := some { caller with issued := n } }
def executing (k : Option Reply) (a : Nat) : CacheEntry := { id := 6, stack := 0, dev := 0, core := 3, seq := 65535, reply := k, attached := a, doneAt := 0 }
def storing : State := { body 4095 with posted := [posted9], cache := [executing none 0] }
def errs : State := unitsBy (body 0) fun g => { g with postErrs := [(0, 0x19, 5)] }
theorem wit_BodiesEnd : Issues vec (.rret 0) (ctxOf vec) ∧ (ctxOf vec).g.visitor = none ∧ ctx? (body 0) = some (ctxOf (body 0)) ∧
    (ctxOf (body 0)).g.visitor = some caller ∧ Clear (ctxOf (body 0)) (.rret 5) [.src 5 caller.replies] ∧ releaseNow (body 0) (ctxOf (body 0)).g 3 false = .go ∧
    ctx? storing = some (ctxOf storing) ∧ (ctxOf storing).g.visitor = some { caller with issued := 4095 } ∧ Clear (ctxOf storing) (.rret 5) [.src 5 2] ∧
    releaseNow storing (ctxOf storing).g 3 false = .wait ∧ ctx? errs = some (ctxOf errs) ∧ Clear (ctxOf errs) (.rret 5) [.src 5 2] ∧
    releaseNow errs (ctxOf errs).g 3 false = .error 0x19 5 ∧ ((body 4096).unit? 2).map (·.visitor) = some (some { caller with issued := 4096 }) ∧
    ((body 4096).unit? 2).map (fun g => (g.loc, g.wait)) = some (.resident, .none) ∧ (body 4096).cache = [] := by
  refine ⟨issues_of ?_, ?_, ctx_of ?_, ?_, clear_of ?_, ?_, ctx_of ?_, ?_, clear_of ?_, ?_, ctx_of ?_, clear_of ?_, ?_⟩ <;> decide +kernel

/-- A move of 2 rows of 16 bytes on flag 3, from 0x300000 to 0x300100. -/
def desc : List Word := [0x300000, 0, 0x300100, 0, 0x00020001, 16, 16, 0]
def move3 (core stage progress : Nat) : Move :=
  { id := 7
    gid := 2
    launch := 1
    mask := 0xFFFFFFFF
    flag := 3
    core := core
    slot := 0
    uid := 2
    engine := 8
    desc := desc
    progress := progress
    promise := 100
    missed := false
    delivered := false
    stage := stage
    after := []
    window := none }
def moving (core stage progress : Nat) : State := { flagged calling 3 { set := true, pending := none } with moves := [move3 core stage progress] }
theorem wit_StatusReads : [512, 0].all (fun k => issuesB (recorded k) (.rstat 6 3) && (callOf (recorded k) (ctxOf (recorded k)).g 3 == some (record k)) &&
      issuesB (moving k 0 0) (.tstat 6 3) && issuesB (moving k 0 0) (.tstatProm 6 3) && (moveOf (moving k 0 0) (ctxOf (moving k 0 0)).g 3 == some (move3 k 0 0)))
      = true ∧ (ctxOf (recorded 0)).g.core = 512 ∧
    [Instr.rstat 6 11, .tstat 6 11, .tstatProm 6 11].all (issuesB calling) = true ∧ callOf calling (ctxOf calling).g 11 = none ∧
    moveOf calling (ctxOf calling).g 11 = none ∧ ((ctxOf calling).g.flag 11).set = false := by decide +kernel

/-- The message of a call from core 3, and its reply. -/
def message : CallMsg :=
  { launch := 1, gid := 2, team := 0, grp := 0, entry := 0x1000, payload := [], replies := 2, seq := 65535, flag := 3, mask := 1, uni := false, srcDev := 0, srcCore := 3
    dstCore := 513, pa := 0x300100 }
def answer3 (f : Option FlagFault) : Reply := { dstDev := 0, dstCore := 512, seq := 65535, flag := 3, uni := false, vals := [], fault := f }
def retrying (cache : List CacheEntry) (marks : List Watermark) : State :=
  { mailed calling 3 8 .request (.retry message) with cache := cache, watermarks := marks }
def mark (n : Nat) : Watermark := { stack := 0, dev := 0, core := 3, seq := n, lastFree := 0 }
def answered (calls : List Call) : State := { mailed (recorded 512) 513 8 .reply (.reply (answer3 none)) with calls := calls }
theorem wit_CallsArriveAndReturn : ((mailed calling 3 8 .request (.call message)).ready? 40).map (·.body) = some (.call message) ∧
    stackUp calling 0 = true ∧ routeUp calling 3 8 = true ∧ calling.dies.getD 8 0 ≠ 1 ∧ (callLaunch calling message).isSome = true ∧ calling.cache = [] ∧
    calling.queue = [] ∧ 0 < queueSize 513 ∧ calling.crucible = [] ∧
    ((retrying [executing (some (answer3 none)) 0] []).cache.find? fun e => cacheHit e 0 message) = some (executing (some (answer3 none)) 0) ∧
    ((retrying [executing none 0] []).cache.find? fun e => cacheHit e 0 message) = some (executing none 0) ∧
    ((retrying [] []).ready? 40).map (·.body) = some (.retry message) ∧ watermark? (retrying [] []) 0 0 3 = none ∧
    watermark? (retrying [] [mark 65534]) 0 0 3 = some (mark 65534) ∧ seqBelow 65534 65535 = true ∧ seqBelow 65535 65535 = false ∧ seqBelow 0 65535 = false ∧
    ((answered [record 512]).msg? 40).map (·.body) = some (.reply (answer3 none)) ∧ routeUp (answered []) 513 8 = true ∧
    recordOf (answered [record 512]) (answer3 none) = some (record 512) ∧
    (owedUnit (answered [record 512]) 2 0xFFFFFFFF).map (·.uid) = some 2 ∧
    ((answered [record 512]).unit? 2).map (fun g => (g.loc, g.core)) = some (.resident, 512) ∧ ((answered [record 512]).slot? 512 0).isSome = true ∧
    (answered []).calls = [] ∧
    moveOver calling message.pa = none ∧ moveInto calling message.pa = none ∧
    (moveOver { calling with pageMoves := [{ id := 3, qp := 0, tag := 0, va := 0, size := 4096, oldPa := 0x300000, newPa := 0x900000, copied := true, cores := [] }] }
      message.pa).isSome = true := by decide +kernel

def asking3 (b : Payload) : State := mailed (recorded 0) 512 0 .request b
theorem wit_CallRecords : ({ recorded 0 with now := 99 } : State).calls.find? (·.id == 7) = some (record 0) ∧ (record 0).overdue = false ∧
    99 < (record 0).deadline ∧ (record 0).deadline ≤ ({ recorded 0 with now := 100 } : State).now ∧
    (owedUnit (recorded 0) 2 0xFFFFFFFF).map (·.loc) = some .resident ∧ (executing (some (answer3 none)) 0).reply ≠ none ∧ (executing none 0).reply = none ∧
    (executing (some (answer3 none)) 0).doneAt + 1000000 ≤ ({ calling with now := 1000000 } : State).now ∧
    watermark? (retrying [] [mark 5]) 0 0 3 = some (mark 5) ∧ 999999 < (mark 5).lastFree + 1000000 ∧ (mark 5).lastFree + 1000000 ≤ 1000000 ∧
    (executing none 0).stack = 0 ∧ ((asking3 (.askCall 2 3 0xFFFFFFFF toV5)).ready? 40).map (fun x => (x.src, x.body)) = some (512, .askCall 2 3 0xFFFFFFFF toV5) ∧
    ((asking3 (.askMove 2 3 0xFFFFFFFF true toV5)).ready? 40).map (·.body) = some (.askMove 2 3 0xFFFFFFFF true toV5) ∧
    (owedUnit (asking3 (.askMove 2 3 0xFFFFFFFF false toV5)) 2 0xFFFFFFFF).isSome = true := by decide +kernel

/-- A descriptor in s0 to s7. -/
def describing (d : List Nat) : State := (List.range 8).foldl (fun s j => withS s j (d.getD j 0)) calling
def plain (src dst rows prog : Nat) : List Nat := [src, src / 4294967296, dst, dst / 4294967296, 65536 * rows + 1, 16, 16, 4096 * prog]
def rowsOf (s : State) : List Word := (List.range 8).map fun j => (ctxOf s).sreg (0 + j)
def side (s : State) (w : Bool) : Option Nat :=
  if w then tmSideFault s (ctxOf s).g (rowsOf s) (tmDst (rowsOf s)) (tmDstStride (rowsOf s))
  else tmSideFault s (ctxOf s).g (rowsOf s) (tmSrc (rowsOf s)) (tmSrcStride (rowsOf s))
theorem wit_TileMovesIssue : [plain 0x300000 0x300100 2 0, plain 0x300000 0x300100 2 1, plain 0x300000 0x300100 2 2, plain 0x300000 0x300100 0 0,
      plain 0x300000 0x300100 4097 0, plain 0x300001 0x300100 4096 4096, plain 0x300000 (0xFA * 2 ^ 56) 1 0].all
      (fun d => issuesB (describing d) (.tmove 112 0 3) && issuesB (describing d) (.tmove 20 0 11)) = true ∧
    descriptorOk (rowsOf (describing (plain 0x300000 0x300100 4096 4096))) ∧ ¬descriptorOk (rowsOf (describing (plain 0x300000 0x300100 0 0))) ∧
    ¬descriptorOk (rowsOf (describing (plain 0x300000 0x300100 4097 0))) ∧ ¬descriptorOk (rowsOf (describing (plain 0x300000 0x300100 1 4097))) ∧
    side (describing (plain 0x300001 0x300100 4096 4096)) false = some 0x16 ∧ side (describing (plain 0x300000 (0xFA * 2 ^ 56) 1 0)) false = none ∧
    side (describing (plain 0x300000 (0xFA * 2 ^ 56) 1 0)) true = some 0x15 ∧ side (describing (plain 0x300000 0x300100 2 1)) true = none ∧
    tmRows (rowsOf (describing (plain 0x300000 0x300100 2 2))) ≤ tmProgress (rowsOf (describing (plain 0x300000 0x300100 2 2))) ∧
    tmProgress (rowsOf (describing (plain 0x300000 0x300100 2 1))) < tmRows (rowsOf (describing (plain 0x300000 0x300100 2 1))) := by
  unfold descriptorOk
  decide +kernel

/-- What a row meets. -/
def rowGoes (s : State) (v : Move) : Bool :=
  match s.launch? v.launch with | some l => (match rowMeets s l v with | .ok _ => true | .error _ => false) | none => false
def rowFails (s : State) (v : Move) (code addr : Nat) : Bool :=
  match s.launch? v.launch with | some l => (match rowMeets s l v with | .error e => e == .bad code addr | .ok _ => false) | none => false
def lost3 (stage : Nat) : Move := { move3 512 stage 1 with desc := [0x300000, 0, 0, 1024, 0x00020001, 16, 16, 0] }
theorem wit_TileMovesRun : (moving 512 0 0).moves.find? (·.id == 7) = some (move3 512 0 0) ∧
    ((mailed (moving 512 0 0) 512 8 .request (.move 7)).ready? 40).map (·.body) = some (.move 7) ∧
    [1, 2].all (fun k => !rowHeld (moving 512 k 0) (move3 512 k 0) && rowGoes (moving 512 k 0) (move3 512 k 0) && rowGoes (moving 512 k 1) (move3 512 k 1)) = true ∧
    (move3 512 2 0).progress + 1 < tmRows desc ∧ tmRows desc ≤ (move3 512 2 1).progress + 1 ∧ (owedUnit (moving 512 2 1) 2 0xFFFFFFFF).map (·.uid) = some 2 ∧
    ((moving 512 2 1).unit? 2).map (fun g => (g.loc, g.core)) = some (.resident, 512) ∧ rowFails (moving 512 2 1) (lost3 2) 0x11 0x40000000010 = true ∧
    rowHeld ({ moving 512 1 1 with posted := [posted9] } : State)
      { move3 512 1 1 with desc := [0x300000, 0, 0x300100, 0, 0x00020001, 16, 16, 0x80], after := [9] } = true ∧
    99 < (move3 512 0 0).promise ∧ (move3 512 0 0).promise ≤ 100 ∧ (move3 512 0 0).missed = false ∧ (move3 512 2 0).stage < 3 ∧ 3 ≤ (move3 512 3 0).stage := by
  decide +kernel

/-- Unit 2 has waited for a number, and its bundle holds the call. -/
def renumbered : State := bundled (unitsBy (numbered 1000000) fun g => { g with wait := .callSeq }) ((encode (call0 0)).getD 0)
def reissued : State :=
  { renumbered.putUnit { unitOf renumbered 2 with wait := .none } with cur := ((slotIssue (unitOf renumbered 2)).map (·.2)).getD Issue.void }
/-- A move of one row with REL at device scope. -/
def relRow : List Nat := (plain 0x300000 0x300100 1 0).take 7 ++ [0x380]
theorem wit_WaitingCallsGoOn : renumbered.unit? 2 = some (unitOf renumbered 2) ∧ (unitOf renumbered 2).wait = .callSeq ∧
    (slotIssue (unitOf renumbered 2)).isSome = true ∧ seqFree renumbered (renumbered.coreState 512) = true ∧ ctx? reissued = some (ctxOf reissued) ∧
    Clear (ctxOf reissued) (call0 0) ((ctxOf reissued).callOpnds 5 10 12 0) ∧ ((ctxOf reissued).remoteEntry 0).valid = true ∧
    runs (ctxOf reissued) 0x300100 0 513 = true ∧ executorUp reissued 512 0 513 = true ∧ heldTo reissued (ctxOf reissued).g 0 8 = [] ∧ reissued.pageMoves = [] ∧
    ((asking3 (.askRetry [] 0 2 3 0xFFFFFFFF)).ready? 40).map (·.body) = some (.askRetry [] 0 2 3 0xFFFFFFFF) ∧ routeUp (recorded 0) 512 0 = true ∧
    issuesB (unitsBy (describing relRow) fun g => { g with postErrs := [(0, 0x19, 5)] }) (.tmove 112 0 3) = true ∧ tmRel (rowsOf (describing relRow)) = true ∧
    tmScope (rowsOf (describing relRow)) ≠ 0 ∧ side (describing relRow) false = none ∧ side (describing relRow) true = none ∧
    routeUp { moving 512 0 0 with links := (moving 512 0 0).links.map fun l => { l with state := 2 } } 512 9 = false := by
  refine ⟨unit_of ?_, ?_, ?_, ?_, ctx_of ?_, clear_of ?_, ?_⟩ <;> decide +kernel

/-! ## Witnesses: licences, matrices, twins -/

/-- The licence of the pair of core 0 as given; the array of core 0 with operations; scalar pairs s10 (control) and s12 (format block). -/
def pair0 (holder : Option Nat) (core : Nat) (waiters : List (Nat × Nat)) (dying : Bool) : TwinPair :=
  { lower := 0, holder := holder, core := core, waiters := waiters, saving := false, dying := dying, prefer := none }
def seq0 (kind row ctl flag : Nat) : SeqOp :=
  { kind := kind
    gid := 2
    uid := 2
    mask := 0xFFFFFFFF
    flag := flag
    fb := 0
    ctl := ctl
    row := row
    dest := { reg := none, pair := false, uni := false }
    novf := 0
    low := 0xFFFFFFFF
    maps := [] }
def licensed (p : TwinPair) (ops : List SeqOp) (ctl fb : Nat) : State :=
  { withSS (withSS (memOn vec 0 fun _ => 0) 10 ctl) 12 fb with pairs := [p], arrays := [{ core := 0, m := Matrix.zeroImage, ops := ops }] }
def holdingIt (ops : List SeqOp) : State := licensed (pair0 (some 2) 0 [] false) ops (2 ^ 48) 0
def free (w : List (Nat × Nat)) : State := licensed (pair0 none 0 w false) [] 0 0
def other : State := licensed (pair0 (some 9) 64 [] false) [] 0 0
def released9 (ops : List SeqOp) : State := mailed (holdingIt ops) 512 0 .request (.licRelease 0 2)
theorem wit_LicenceInstructions : [Instr.mlicAcq, .mlicTry 7, .mlicRel, .mlicQry 110].all (fun i =>
      [holdingIt [], holdingIt [seq0 0 0 0 0], free [], free [(9, 64)], other].all fun s => issuesB s i) = true ∧ pairOf (ctxOf other).g.core = 0 ∧
    (ctxOf other).g.gid = 2 ∧ ((holdingIt []).pair 0).holder = some 2 ∧ licenceFault other (ctxOf other).g = none ∧
    licenceFault ({ other with pairs := [pair0 none 0 [] false, { pair0 (some 2) 1 [] false with lower := 1 }] } : State) (ctxOf other).g = some 0x40 ∧
    ((free []).pair 0).holder = none ∧ ((free []).pair 0).waiters = [] ∧ ((free [(9, 64)]).pair 0).waiters ≠ [] ∧ (other.pair 0).holder ≠ none ∧
    ((holdingIt []).licenceOf 2) = some (pair0 (some 2) 0 [] false) ∧ ((holdingIt [seq0 0 0 0 0]).array 0).ops ≠ [] ∧ ((holdingIt []).array 0).ops = [] ∧
    (free []).licenceOf 2 = none ∧ isStackCore (ctxOf other).g.core = false ∧
    licenceFault ({ unitsBy other (fun g => { g with core := 64 }) with topLost := true } : State) { (ctxOf other).g with core := 64 } = some 0x42 := by
  decide +kernel

/-- Unit 2 waits with an image of an interrupted stream. -/
def interrupted (p : TwinPair) : State := unitsBy (licensed p [] 0 0) fun g => { g with image := some { Matrix.zeroImage with stream := some (seq0 1 3 0 0) } }
theorem wit_LicenceEvents : nextWaiter (free [(2, 0)]) ((free [(2, 0)]).pair 0) = some (2, 0) ∧ ((free [(2, 0)]).pair 0).dying = false ∧
    (free [(2, 0)]).unit? 2 ≠ none ∧ nextWaiter (free []) ((free []).pair 0) = none ∧
    wantsLicence (interrupted (pair0 none 0 [] false)) (unitOf (interrupted (pair0 none 0 [] false)) 2) = true ∧
    licenceFault (interrupted (pair0 none 0 [] false)) (unitOf (interrupted (pair0 none 0 [] false)) 2) = none ∧
    wantsLicence (interrupted (pair0 (some 9) 64 [] false)) (unitOf (interrupted (pair0 (some 9) 64 [] false)) 2) = true ∧
    ((interrupted (pair0 (some 9) 64 [] false)).pair 0).holder ≠ none ∧ ((licensed (pair0 (some 9) 0 [] true) [] 0 0).pair 0).dying = true ∧
    ((released9 []).ready? 40).map (·.body) = some (.licRelease 0 2) ∧ ((released9 []).pair 0).holder = some 2 ∧
    ((released9 [seq0 0 0 0 0]).array 0).ops ≠ [] := by decide +kernel

def matrixRows : List Instr := [.mldw 10 12 0, .mstream 10 12 0, .mdrain 112 10 12 0, .mdrain 20 10 12 11]
theorem wit_MatrixInstructions : (Instr.mswap :: matrixRows).all (fun i => issuesB other i && issuesB (holdingIt []) i && issuesB (holdingIt [seq0 0 0 0 0]) i &&
      issuesB (licensed (pair0 (some 2) 0 [] false) [] 1 0) i && issuesB (licensed (pair0 (some 2) 0 [] false) [] (2 ^ 48) 0xC) i &&
      issuesB (licensed (pair0 (some 2) 0 [] false) [] (2 ^ 48 + 1024) 0) i) = true ∧ other.licenceOf 2 = none ∧ imageOf other 2 = none ∧
    matrixRows.all (fun i => (matrixOf (ctxOf (holdingIt [])) i).isSome) = true ∧ (holdingIt []).licenceOf 2 = some (pair0 (some 2) 0 [] false) ∧
    (holdingIt []).service = 2 ∧ ctlBad 0 0 (2 ^ 48) = none ∧ ctlBad 1 0 (255 * 2 ^ 48) = none ∧ ctlBad 2 0 (2 ^ 56 + 255 * 2 ^ 48) = some 1 ∧ ctlBad 0 0 1 = some 0 ∧
    fbOk 0 = true ∧ fbOk 0xC = false ∧ matBound (holdingIt []) (launchOf (holdingIt []) me) 0 (matAreas 0 0 (2 ^ 48) Matrix.zeroImage.tagA 0) = none ∧
    (matBound (holdingIt []) (launchOf (holdingIt []) me) 0 (matAreas 0 0 (2 ^ 48 + 1024) Matrix.zeroImage.tagA 0)).isSome = true ∧ Matrix.zeroImage.tagA.valid = false ∧
    (ctxOf (holdingIt [])).sreg 11 = 0x10000 := by decide +kernel

theorem wit_SequencerRows : ((holdingIt [seq0 0 126 (2 ^ 48) 0]).array 0).ops = [seq0 0 126 (2 ^ 48) 0] ∧ 126 + 1 < seqRows (seq0 0 126 (2 ^ 48) 0) ∧
    seqRows (seq0 0 127 (2 ^ 48) 0) ≤ 127 + 1 ∧ ((holdingIt []).pair 0).dying = false ∧ ((holdingIt []).pair 0).saving = false ∧ ((holdingIt []).pair 0).core = 0 ∧
    ((holdingIt []).units.find? fun h => h.gid == 2).map (·.uid) = some 2 ∧ ((holdingIt []).launch? 1).isSome = true ∧
    (((holdingIt []).launches.find? fun l => ((holdingIt []).units.find? fun g => g.gid == 2).any fun g => g.launch == l.idx) == (holdingIt []).launch? 1) = true ∧
    ((unitsBy (holdingIt [seq0 0 127 (2 ^ 48) 0]) fun g => { g with wait := .matrix }).unit? 2).map (·.wait) = some .matrix ∧
    (owedUnit (flagged (holdingIt [seq0 1 0 0 11]) 11 { set := true, pending := none }) 2 0xFFFFFFFF).map (fun g => (g.uid, g.loc, g.core)) =
      some (2, .resident, 0) := by decide +kernel
theorem wit_ResiduePassesAreExact : (-66585344 ≤ (-66585344 : Int) ∧ (66585343 : Int) ≤ 66585343) ∧ fbOk 0x7070707 = false ∧ fbOk 0x707 = true ∧
    elemResidue (fbA 0x707) = true ∧ fbABlk 0x707 = 0 ∧ Matrix.zeroImage.tagA.bblk = 0 := by decide +kernel

/-- Unit 2 is the lower group of a twin window; n of its signals stand, k of its twin's; its twin is unit 3, or gone. -/
def twin (n k : Nat) (alive : Bool) : State :=
  { unitsBy vec fun g => { g with twinned := true, core := 0, launchCore := 0, launchSlot := 0 } with
    twins := [{ lower := 0, slot := 0, launch := 1, gidLower := 2, gidUpper := 3, x := [], sentL := BitVec.ofNat 32 n, usedL := 0, sentU := BitVec.ofNat 32 k,
                usedU := 0, timeL := 0, timeU := 0, late := [], lateAt := 0 }]
    units := { me with twinned := true } :: (if alive then [{ me with uid := 3, gid := 3, core := 64 }] else []) }
theorem wit_TwinSignals : [Instr.xsigSig 2, .xsigWait 2, .xsigSync 2].all (fun i => [twin 254 0 true, twin 255 0 true, twin 255 1 false, twin 0 1 true].all
      fun s => issuesB s i && (ctxOf s).twin?.isSome && !upperSide (ctxOf s).g.core && !overrunHit s (ctxOf s).g 2 &&
        decide (releaseNow s (ctxOf s).g 2 false = .go)) = true ∧
    ((ctxOf (twin 254 0 true)).twin?.map fun w => (sent w false - used w true).toNat) = some 254 ∧
    ((ctxOf (twin 255 0 true)).twin?.map fun w => ((sent w false - used w true).toNat, twinAlive (twin 255 0 true) w true)) = some (255, true) ∧
    ((ctxOf (twin 255 0 false)).twin?.map fun w => (twinAlive (twin 255 0 false) w true, sent w true == used w false)) = some (false, true) ∧
    ((ctxOf (twin 0 1 true)).twin?.map fun w => sent w true == used w false) = some false ∧
    [Instr.xsigWait 4, .xsigSync 4].all (fun i => issuesB { twin 0 1 true with overruns := [(me.region, 7, 64)] } i) = true ∧ (ctxOf (twin 0 1 true)).g.region = me.region := by decide +kernel

/-! ## Witnesses: faults -/

/-- Unit 2 with 8 registers of each kind, none live. The region of unit 2: the session root at 0x420000; a fault queue of 2 entries from 0x500000, with HEAD and TAIL; a checkpoint area of 2 slots from 0x600000. -/
def node1 : Node :=
  { (default : Node) with
    regionId := 1
    supervisor := true
    budgetCores := 1024
    budgetGroups := 1024
    barTimeout := 5
    hbeatInt := 7
    persistent := true
    faultQueue := 0x400000
    checkpoint := 0x410000 }
def small : State :=
  launchesBy (slotsBy (unitsBy vec fun g => { g with grp := 1, region := 1, live := { vbase := 0, vcount := 0, sbase := 0, scount := 0, bar := 0, declared := true } })
    fun x => { x with valloc := 8, salloc := 8 }) fun l => { l with chain := [node1], valloc := 8, salloc := 8 }
def regional (head tail : Nat) : State :=
  ((small.dramWrite 0x400000
    (bytesLE 8 0x500000 ++ bytesLE 8 2 ++ bytesLE 8 head ++ bytesLE 8 tail)).dramWrite 0x410000
    (bytesLE 8 2 ++ bytesLE 8 0 ++ bytesLE 8 0x600000 ++ bytesLE 8 0 ++ bytesLE 8 0x411000))
def slotOf (s : State) : Slot := (s.slot? 0 0).getD default

def late3 (v : Nat) : State := { trapping false v 0 with calls := [{ record 0 with overdue := true }, { record 0 with overdue := true, flag := 11 }] }
theorem wit_TrapsAreDelivered : (late3 0x2004).unit? 2 = some (unitOf (late3 0x2004) 2) ∧ ((late3 0x2004).slot? 0 0).isSome = true ∧
    causesOf (late3 0x2004) (unitOf (late3 0x2004) 2) = [(3, 0x21, 0), (11, 0x21, 0)] ∧ atBoundary (unitOf (late3 0x2004) 2) = true ∧
    (unitOf (late3 0x2004) 2).handler = false ∧ (launchOf (late3 0x2004) (unitOf (late3 0x2004) 2)).trapVec = 0x2004 ∧
    ((markDelivered (late3 0x2004) (unitOf (late3 0x2004) 2) 3 0x21).unit? 2).map (fun h =>
      checkTarget (markDelivered (late3 0x2004) (unitOf (late3 0x2004) 2) 3 0x21) h 0x2004) = some none ∧
    (launchOf (late3 0) (unitOf (late3 0) 2)).trapVec = 0 :=
  ⟨unit_of (by decide +kernel), by decide +kernel⟩

/-- A fault of the unit at strand 0's address. -/
def request0 : FaultReq := Ctx.faultReq 0x16 0x300001
theorem wit_FaultsAreEntered : (unitOf (regional 0 1) 2).visitor = none ∧ (regional 0 1).licenceOf 2 = none ∧ (unitOf (regional 0 1) 2).image = none ∧
    unitOf (regional 0 1) 2 ∈ (regional 0 1).units ∧ (regional 0 1).units.length = 1 ∧ ((regional 0 1).slot? 0 0).isSome = true ∧
    queueState (regional 0 1) 0x1000001 0x400000 = .room 1 0x504000 ∧
    (queuePut (regional 0 1) 0x1000001 0x400000 1 0x504000 (faultBytes (regional 0 1) (unitOf (regional 0 1) 2) (slotOf (regional 0 1)) (false, []) request0)).isSome
      = true ∧
    queueState (regional 0 2) 0x1000001 0x400000 = .full ∧ queueState vec 0x1000001 0 = .unusable ∧ (slotOf (regional 0 1)).records = [] := by decide +kernel

/-- An entry of unit 2 that waits for room, or one without an image. -/
def waiting1 (uid : Option Nat) : HeldEntry :=
  { domain := 0
    qaddr := 0x400000
    ptRoot := 0x1000001
    head := List.replicate 64 1
    image := []
    tag := 5
    qp := none
    region := 1
    code := 0x16
    uid := uid
    dest := (false, [])
    move := none
    after := [] }
def held2 (tail : Nat) (uid : Option Nat) : State := { regional 0 tail with heldEntries := [waiting1 uid, waiting1 none] }
theorem wit_HeldEntriesAreWritten : (held2 2 none).heldEntries[1]? = some (waiting1 none) ∧ (held2 2 none).heldEntries[0]? = some (waiting1 none) ∧
    waiting1 none ∈ (held2 2 none).heldEntries.take 1 ∧ (held2 2 none).heldEntries.take 0 = [] ∧ queueState (held2 2 none) 0x1000001 0x400000 = .full ∧
    queueState (held2 1 none) 0x1000001 0x400000 = .room 1 0x504000 ∧
    (queuePut (held2 1 none) 0x1000001 0x400000 1 0x504000 (waiting1 none).head).isSome = true ∧ ((held2 1 (some 2)).unit? 2).isSome = true ∧
    ((held2 1 (some 2)).slot? 0 0).isSome = true ∧ (unitOf (held2 1 (some 2)) 2).image = none ∧
    (queuePut (held2 1 (some 2)) 0x1000001 0x400000 1 0x504000 (withLength (waiting1 none).head 64 ++
      ingotBytes (writtenOut (unitOf (held2 1 (some 2)) 2) (carry (unitOf (held2 1 (some 2)) 2) (slotOf (held2 1 (some 2))) false []))
        (headInfo (held2 1 (some 2)) (writtenOut (unitOf (held2 1 (some 2)) 2) (carry (unitOf (held2 1 (some 2)) 2) (slotOf (held2 1 (some 2))) false [])))
        (carry (unitOf (held2 1 (some 2)) 2) (slotOf (held2 1 (some 2))) false []))).isSome = true := by decide +kernel

def chained (n h : Nat) : State := unitsBy vec fun g => { g with chainLen := n, chainHold := h }
theorem wit_LongWaitsEndChains : ((chained 1 64).unit? 2).map (fun g => (g.chainLen, g.chainHold)) = some (1, 64) ∧ ((chained 1 64).slot? 0 0).isSome = true ∧
    ((chained 1 63).unit? 2).map (·.chainHold) = some 63 ∧ ((chained 0 64).unit? 2).map (·.chainLen) = some 0 := by decide +kernel

/-- A generation of barrier 31 that began at rc 0; a twin that waits; a region with a deadline. -/
def lasting (n : Nat) : State :=
  { regional 0 0 with now := n, teams := (regional 0 0).teams.map fun t => { t with bars := t.bars.set 31 { bar2 with firstAt := some 0, first := (0, 0x1004, 2) } } }
def twinWaits (n : Nat) : State :=
  { twin 0 0 true with
    now := n
    launches := (regional 0 0).launches
    units := (twin 0 0 true).units.map fun g => { g with wait := .xsig 2 true true 0 } }
def beatless : State := { regional 0 0 with now := 8, hearts := [{ region := 1, deadline := 7, last := 0 }] }
theorem wit_WatchdogsKill : ((lasting 5000).team? 1 0).map (fun t => (t.launch, t.idx, (t.bar 31).firstAt, (t.bar 31).skipped)) = some (1, 0, some 0, 0) ∧
    ((lasting 5000).launch? 1).map (fun l => (l.idx, l.preempted, l.node.barTimeout)) = some (1, false, 5) ∧ 1000 * 5 ≤ (lasting 5000).now - 0 - 0 ∧
    ((twinWaits 5000).unit? 2).map (fun g => (g.wait, g.halting)) = some (.xsig 2 true true 0, false) ∧
    ((twinWaits 5000).twinWindow? 1 0 0).map (fun w => (w.time false, w.gidUpper)) = some (0, 3) ∧ ((twinWaits 5000).team? 1 0).isSome = true ∧
    ((twinWaits 5000).units.all fun h => !h.halted) = true ∧ (launchOf (twinWaits 5000) (unitOf (twinWaits 5000) 2)).node.barTimeout = 5 ∧
    (beatless.hearts.find? fun h => h.region == 1 && decide (h.deadline < beatless.now)).isSome = true ∧
    (beatless.launches.find? fun l => l.node.regionId == 1 && !l.ended && l.killed.isNone && !l.preempted).isSome = true := by decide +kernel

/-! ## Witnesses: commands -/

/-- The bytes of a command record: opcode, tag 77, operands by eights; a queue pair 1 whose ring holds it; the session root and a kernel descriptor in memory. -/
def cmd (op a10 a18 a20 a28 a30 a38 : Nat) : List Byte :=
  bytesLE 8 op ++ bytesLE 8 77 ++ bytesLE 8 a10 ++ bytesLE 8 a18 ++ bytesLE 8 a20 ++ bytesLE 8 a28 ++ bytesLE 8 a30 ++ bytesLE 8 a38
def queue1 : QueuePair :=
  { id := 1
    cmdBase := 0x430000
    physical := false
    cmdCount := 4
    cqAddr := 0x440000
    cqKey := 0
    cqCount := 4
    cmdTail := 1
    cmdHead := 0
    cqHead := 0
    cqTail := 0
    held := []
    busy := false
    error := false }
def hosting (s : State) (bs : List Byte) : State :=
  ((({ s with sessionRoot := some 0x420000, ptRoot := 0x1000001, sessionId := 9, devNum := 7, qps := [queue1] } : State).dramWrite 0x430000 bs).dramWrite 0x420000
    (bytesLE 8 0x100000001 ++ bytesLE 8 0 ++ bytesLE 8 0x1000001 ++ bytesLE 8 0 ++ bytesLE 8 8 ++ bytesLE 8 0x40000000400 ++ bytesLE 8 0xFFFFF ++ bytesLE 8 0x3FFFF ++
      bytesLE 8 0x1000007000000)).dramWrite 0x450000 (bytesLE 8 1 ++ bytesLE 8 0x100080008 ++ bytesLE 8 0x104)
def takesB (s : State) (qp op : Nat) (bs : List Byte) : Bool :=
  match s.qp? qp with
  | some q => !q.error && !q.busy && q.held.isEmpty && q.cmdTail != q.cmdHead &&
      hostRead s q.physical (q.cmdBase + 64 * (q.cmdHead % q.cmdCount)) 64 == some bs && cmdOp bs == some op && !notPhysical s op bs
  | none => false
theorem takes_of {s : State} {qp op : Nat} {bs : List Byte} (h : takesB s qp op bs = true) : Takes s qp op bs := by
  unfold takesB at h
  split at h
  · rename_i q hq
    simp only [Bool.and_eq_true, Bool.not_eq_true', List.isEmpty_iff, bne_iff_ne, beq_iff_eq] at h
    obtain ⟨⟨⟨⟨⟨⟨h1, h2⟩, h3⟩, h4⟩, h5⟩, h6⟩, h7⟩ := h
    exact ⟨q, hq, h1, h2, h3, h4, h5, h6, h7⟩
  · simp at h

def launchCmd : List Byte := cmd 0x01 0x420000 0x450000 0x10001 0 0 0
def launching : State := hosting vec launchCmd
def badLaunch : List Byte := cmd 0x01 0x420000 0x450000 0x10000 0 0 0
theorem wit_LaunchCreatesAContext : Takes launching 1 0x01 launchCmd ∧ fine (launchOfRecord (takeUp launching 1) 1 launchCmd) = true ∧
    Takes (hosting vec badLaunch) 1 0x01 badLaunch ∧ fine (launchOfRecord (takeUp (hosting vec badLaunch) 1) 1 badLaunch) = false := by
  refine ⟨takes_of ?_, ?_, takes_of ?_, ?_⟩ <;> decide +kernel
theorem wit_LaunchContextIsChecked : vec.sessionRoot = none ∧ launching.sessionRoot ≠ none ∧ ({ launching with service := 0 } : State).service = 0 ∧
    ({ launching with topLost := true, bottomLost := true } : State).topLost = true ∧ launching.service ≠ 0 ∧ launching.topLost = false ∧ field badLaunch 0x20 2 = 0 ∧
    field (cmd 0x01 0 0 0x30001 0 0 0) 0x22 1 ∉ [1, 2, 4, 8, 16] ∧ 1 < field (cmd 0x01 0 0 0x2010001 0 0 0) 0x23 1 ∧
    fine (launchOfRecord launching 1 launchCmd) = true := by decide +kernel

/-- A launch of 4 teams of one group, of which the last ones wait. -/
def placing (twin : Bool) : State := launchesBy vec fun l => { l with toPlace := [2, 3], teams := 4, twin := twin }
theorem wit_TeamsArePlaced : (nextToPlace (placing true)).map (fun l => (l.idx, l.toPlace, l.cores)) = some (1, [2, 3], 1) ∧
    (nextToPlace (placing true)).map (fun l => (placeOk (placing true) l [1], placeOk (placing true) l [])) = some (true, false) ∧
    (nextToPlace (placing false)).map (·.twin) = some false ∧
    ((placing true).units.all fun u => u.team != 2 && u.team != 3) = true ∧ ((placing true).launch? 1 == nextToPlace (placing true)) = true := by decide +kernel

/-- Launch 1 with its groups gone; a last cross-device operation in window 3; a kill. -/
def finished (t : Nat) (code : Option Nat) : State :=
  { launchesBy launching (fun l => { l with toPlace := [], lastWindow := some 3, killed := code }) with units := [], slots := [], ptime := t }
theorem wit_LaunchesComplete : ((finished 80000 none).launch? 1).map (fun l => (l.ended, l.toPlace, l.killed, l.lastWindow)) = some (false, [], none, some 3) ∧
    (finished 80000 none).pending = [] ∧ (finished 79999 none).ptime < (3 + 2) * (finished 0 none).window * 1000 ∧ (3 + 2) * (finished 0 none).window * 1000 ≤ (finished 80000 none).ptime ∧
    (finished 0 none).posted = [] ∧ (finished 0 none).calls = [] ∧ (finished 0 none).moves = [] ∧ (finished 0 none).net = [] ∧ (placing false).launches.length = 1 ∧
    (match exec (.launchCompletion 1) (finished 80000 (some 0x60)) with | .next t => t != finished 80000 (some 0x60) | _ => false) = true := by decide +kernel

/-! ## Witnesses: pre-emption, resuming -/

def preemptCmd : List Byte := cmd 0x02 0x420000 0 0 0 0 0
/-- Unit 2 at barrier 31, or in an inline access, its region the session root's. -/
def busy1 (w : Wait) (n : Nat) : State := hosting (unitsBy (regional 0 0) fun g => { g with wait := w, chainLen := n }) preemptCmd
theorem wit_PreemptHalts : Takes (busy1 (.bar 31 2 0) 0) 1 0x02 preemptCmd ∧ nodeKey (takeUp (busy1 (.bar 31 2 0) 0) 1) 0x420000 = 0 ∧
    ((busy1 (.bar 31 2 0) 0).launches.map fun l => (l.idx, l.ended, l.killed, l.chain.map (·.addr))) = [(1, false, none, [0])] ∧
    ((busy1 (.bar 31 2 0) 0).unit? 2).map (fun g => (g.uid, g.loc, g.halted, g.chainLen, g.launch, finishesInline (busy1 (.bar 31 2 0) 0) g)) =
      some (2, .resident, false, 0, 1, false) ∧
    ((busy1 (.inlineAccess [] 1 true 12) 0).unit? 2).map (finishesInline (busy1 (.inlineAccess [] 1 true 12) 0)) = some true ∧
    ((busy1 .none 1).unit? 2).map (·.chainLen) = some 1 ∧ (busy1 .none 0).licenceOf 2 = none ∧ Takes (hosting vec preemptCmd) 1 0x02 preemptCmd := by
  refine ⟨takes_of ?_, ?_, ?_, ?_, ?_, ?_, ?_, takes_of ?_⟩ <;> decide +kernel

/-- Unit 2 halted, its launch pre-empted, with or without a checkpoint area; what its save leaves. -/
def halted2 (s : State) : State := launchesBy (unitsBy s fun g => { g with halting := true, halted := true }) fun l => { l with preempted := true }
def saved2 : State := match exec (.checkpointSave 2) (halted2 (regional 0 0)) with | .next t => t | _ => State.reset
theorem wit_CheckpointsSwapOut : ((halted2 (regional 0 0)).unit? 2).map (fun g => (g.loc, g.halted, g.image)) = some (.resident, true, none) ∧
    haltReported (halted2 (regional 0 0)) 1 = true ∧ (halted2 (regional 0 0)).heldEntries = [] ∧ (halted2 (regional 0 0)).licenceOf 2 = none ∧
    (saveUnit (halted2 (regional 0 0)) (unitOf (halted2 (regional 0 0)) 2)).isSome = true ∧
    (saveUnit (halted2 vec) (unitOf (halted2 vec) 2)).isNone = true ∧ (slotOf (halted2 vec)).records = [] ∧ (halted2 vec).units.length = 1 := by decide +kernel

def resumeCmd : List Byte := cmd 0x03 0x420000 0 0 0 0 0
def resuming (s : State) : State := hosting s resumeCmd
theorem wit_ResumeReenters : Takes (resuming saved2) 1 0x03 resumeCmd ∧ nodeKey (takeUp (resuming saved2) 1) 0x420000 = 0 ∧
    (coveredBy (takeUp (resuming saved2) 1) 0).map (fun l => (l.idx, l.preempted)) = [(1, true)] ∧
    ((takeUp (resuming saved2) 1).saved.map fun x => (x.used, x.kind != 2, x.launch, x.unit.map (·.uid))) = [(true, true, 1, some 2)] ∧
    (saved2.unit? 2).map (·.loc) = some .swapped ∧ (takeUp (resuming saved2) 1).preempts = [] ∧
    ((takeUp (resuming saved2) 1).saved.head?.bind fun x =>
      unitBack (unpreempt (takeUp (resuming saved2) 1) (coveredBy (takeUp (resuming saved2) 1) 0)) x (unitOf saved2 2)).map (·.uid) = some 2 ∧
    (halted2 (regional 0 0)).saved = [] ∧
    (({ halted2 (regional 0 0) with preempts := [{ node := 0, qp := 1, tag := 0, since := 0, haltTold := true, saveTold := false }] } : State).preempts.all
      fun p => p.saveTold) = false :=
  ⟨takes_of (by decide +kernel), by decide +kernel⟩

/-- The unit in the queue of its domain, at entry 1; its image is at 0x504100. -/
def entered : State := takeFault (regional 0 1) (unitOf (regional 0 1) 2) request0 (false, [])
def entryCmd (op addr index : Nat) : List Byte := cmd op addr 0x420000 index 0 0 0
def returning (op addr index : Nat) : State := hosting entered (entryCmd op addr index)
def parked1 : Parked := val entered.parked.head?
def imageAt1 (s : State) (a : Nat) : Option (List Byte) := readImage s 0x1000001 a parked1.u (val parked1.u.carried)
theorem wit_EntriesAreResumedOrKilled : Takes (returning 0x04 0x504100 1) 1 0x04 (entryCmd 0x04 0x504100 1) ∧
    Takes (returning 0x05 0 1) 1 0x05 (entryCmd 0x05 0 1) ∧ nodeKey (takeUp (returning 0x04 0x504100 1) 1) 0x420000 = 0 ∧
    parkedAt (takeUp (returning 0x04 0x504100 1) 1) 0 1 = some parked1 ∧ parkedAt (takeUp (returning 0x04 0x504100 2) 1) 0 2 = none ∧
    (returning 0x04 0x504100 1).pending = [] ∧ parked1.u.carried.isSome = true ∧ parked1.u.image = none ∧ parked1.move = none ∧
    ((imageAt1 (takeUp (returning 0x04 0x504100 1) 1) 0x504100).bind fun img =>
      readIngot parked1.u (headInfo (takeUp (returning 0x04 0x504100 1) 1) parked1.u) (val parked1.u.carried) img).isSome = true ∧
    (imageAt1 (takeUp (returning 0x04 0x504000 1) 1) 0x504000).map (fun img =>
      (readIngot parked1.u (headInfo (takeUp (returning 0x04 0x504000 1) 1) parked1.u) (val parked1.u.carried) img).isNone) = some true ∧
    (returning 0x04 0x504100 1).unit? 2 ≠ none := by
  refine ⟨takes_of ?_, takes_of ?_, ?_⟩ <;> decide +kernel

/-- One late call; one late move; a cause kept from a record that ended. -/
def lateCall : State := { trapping false 0x2004 0 with calls := [{ record 0 with overdue := true }] }
def lateMove : State := { flagged (trapping false 0x2004 0) 3 { set := true, pending := none } with moves := [{ move3 0 1 0 with missed := true }] }
def keptCause : State := unitsBy (trapping false 0x2004 0) fun g => { g with causes := [(3, 0x21, 0)] }
theorem wit_CausesHaveOneSource : (lateCalls lateCall (unitOf lateCall 2)).map (·.flag) = [3] ∧ causesOf lateCall (unitOf lateCall 2) = [(3, 0x21, 0)] ∧
    lateCalls lateMove (unitOf lateMove 2) = [] ∧ (lateMoves lateMove (unitOf lateMove 2)).map (·.flag) = [3] ∧
    causesOf lateMove (unitOf lateMove 2) = [(3, 0x50, 0x300100)] ∧ lateCalls keptCause (unitOf keptCause 2) = [] ∧ lateMoves keptCause (unitOf keptCause 2) = [] ∧
    causesOf keptCause (unitOf keptCause 2) = [(3, 0x21, 0)] ∧ atBoundary (unitOf keptCause 2) = true ∧ (unitOf keptCause 2).handler = false := by decide +kernel
theorem wit_KilledLaunches : ((finished 80000 (some 0x60)).launch? 1).map (fun l => (l.killed, launchQuiet (finished 80000 (some 0x60)) l)) = some (some 0x60, true) ∧
    ((finished 79999 (some 0x60)).launch? 1).map (fun l => launchQuiet (finished 79999 (some 0x60)) l) = some false ∧
    arrivalsIn (halted2 (regional 0 0)) 1 0 = true ∧ noteNode (takeUp (resuming saved2) 1) 0x420000 = takeUp (resuming saved2) 1 ∧
    (unitOf (regional 0 0) 2).grp ≠ 0 := by decide +kernel

/-! ## Witnesses: session, services, pages -/

def hosted (op a10 a18 a20 a28 : Nat) : State := hosting vec (cmd op a10 a18 a20 a28 0 0)
theorem takes_hosted {op a b c d : Nat} (h : takesB (hosted op a b c d) 1 op (cmd op a b c d 0 0) = true) : Takes (hosted op a b c d) 1 op (cmd op a b c d 0 0) :=
  takes_of h
/-- The ring of queue pair 1 elsewhere; without a session. -/
def ringAt (s : State) (a : Nat) (phys : Bool) : State := { s with qps := [{ queue1 with cmdBase := a, physical := phys }] }
def before (s : State) : State := { ringAt s 0x430000 true with sessionRoot := none, devNum := 0 }
def readsOf (s : State) : Option Nat := (hostRead s false 0x430000 64).map fun bs => field bs 0 8
theorem wit_RecordsAreTakenUp : (hosted 0x11 0 0 0 0).qp? 1 = some queue1 ∧ readsOf (hosted 0x11 0 0 0 0) = some 0x11 ∧ readsOf (hosted 0 0 0 0 0) = some 0 ∧
    readsOf (hosted 0x8000000000000001 0 0 0 0) = some 0x8000000000000001 ∧ readsOf (hosted 0x0D 0 0 0 0) = some 0x0D ∧
    (hostRead (ringAt vec 0x40000000000 false) false 0x40000000000 64).isNone = true ∧ cmdOp (cmd 0x10 0 0 0 0 0 0) = some 0x10 := by decide +kernel

theorem wit_SessionWindowAndRegionCommands : takesB (hosted 0x10 0x420000 0xFFF 0 0) 1 0x10 (cmd 0x10 0x420000 0xFFF 0 0 0 0) = true ∧
    takesB (before (hosted 0x10 0x420000 0xFFF 0 0)) 1 0x10 (cmd 0x10 0x420000 0xFFF 0 0 0 0) = true ∧
    (hostRead (takeUp (before (hosted 0x10 0x420000 0xFFF 0 0)) 1) true 0x420000 256).map (fun n => (field n 8 8, field n 4 1)) = some (0, 1) ∧
    takesB (before (hosted 0x10 0x420080 0xFFF 0 0)) 1 0x10 (cmd 0x10 0x420080 0xFFF 0 0 0 0) = true ∧
    takesB (before (hosted 0x10 0x420000 0x1000 0 0)) 1 0x10 (cmd 0x10 0x420000 0x1000 0 0 0 0) = true ∧
    [0, 1, 16, 17].all (fun w => takesB (hosted 0x0A w 0 0 0) 1 0x0A (cmd 0x0A w 0 0 0 0 0)) = true ∧
    takesB { hosted 0x0A 16 0 0 0 with launches := [] } 1 0x0A (cmd 0x0A 16 0 0 0 0 0) = true ∧
    takesB { hosted 0x08 1 0 0 0 with overruns := [(1, 7, 64)] } 1 0x08 (cmd 0x08 1 0 0 0 0 0) = true ∧
    [0, 0x1000].all (fun b => takesB (hosting meshed (cmd 0x09 b 0 0 0 0 0)) 1 0x09 (cmd 0x09 b 0 0 0 0 0)) = true ∧
    takesB { hosting meshed (cmd 0x09 0x1000 0 0 0 0 0) with launches := [] } 1 0x09 (cmd 0x09 0x1000 0 0 0 0 0) = true ∧
    (meshed.latRegions.filter fun r => r.base == 0x1000).length = 1 := by decide +kernel

def spill (base size : Nat) : Nat := 1 + 4294967296 * base + 0 * size
def frame (n : Nat) : Frame :=
  { version := 1, ftype := 1, cls := 0, srcDev := 7, dstDev := 1, session := 9, seq := n, ackSeq := 0, len := 0, w := 8, body := none }
def path1 (l : List (Frame × Nat × Nat)) : Path := { dev := 1, cls := 0, sendSeq := 6, recvSeq := 4, unacked := l, failed := false }
def replacing : State :=
  { hosted 0x0C 0x1010001 0 0 0 with peers := [{ dev := 1, port := 0, valid := true, ip := [] }], paths := [path1 [(frame 5, 0, 1)]] }
theorem wit_SpillAndPeerCommands : [(spill 0x40000000 0, 0x100), (spill 0 0, 0x100), (spill 0x80 0, 0x100), (spill 0 0 + 0x3FF, 0)].all (fun x =>
      takesB (hosted 0x0B x.1 x.2 0 0) 1 0x0B (cmd 0x0B x.1 x.2 0 0 0 0)) = true ∧ spadSize 1 0 < 0x40000000 + 0x100 ∧ 0x100 ≤ spadSize 1 0 ∧
    takesB { hosted 0x0B (spill 0 0) 0x100 0 0 with owners := [{ level := 0, index := 1, base := 0xFF, size := 1, region := 1, launch := 1 }] } 1 0x0B
      (cmd 0x0B (spill 0 0) 0x100 0 0 0 0) = true ∧ (vec.slots.filter fun x => x.here && x.core == 1) = [] ∧
    [0x1010001, 0x1010FFF, 0x0000FFF, 0x1000, 0x1020001, 0x2010001].all (fun x => takesB (hosted 0x0C x 0 0 0) 1 0x0C (cmd 0x0C x 0 0 0 0 0)) = true ∧
    takesB replacing 1 0x0C (cmd 0x0C 0x1010001 0 0 0 0 0) = true ∧ (pathOf replacing 1 0).sendSeq = (frame 5).seq + 1 ∧
    takesB { hosted 0x0C 0x1010001 0 0 0 with devNum := 0 } 1 0x0C (cmd 0x0C 0x1010001 0 0 0 0 0) = true ∧ vec.pending = [] := by decide +kernel

/-- POWER of a die (kind, index, goal); the die in a state. -/
def powering (kind idx goal st : Nat) : State :=
  { hosted 0x0E (kind + 256 * idx + 65536 * goal) 0 0 0 with dies := vec.dies.set (if kind = 0 then 8 + idx else idx) st }
theorem wit_PowerAndServiceCommands : [(2, 0, 0, 0), (0, 8, 0, 0), (0, 7, 3, 0), (1, 7, 1, 0), (0, 7, 0, 3), (0, 7, 0, 1), (0, 7, 0, 2), (0, 7, 1, 0), (0, 7, 2, 0), (1, 0, 2, 0), (1, 7, 2, 0)].all
      (fun x => takesB (powering x.1 x.2.1 x.2.2.1 x.2.2.2) 1 0x0E (cmd 0x0E (x.1 + 256 * x.2.1 + 65536 * x.2.2.1) 0 0 0 0 0)) = true ∧
    groupsOnDie (powering 1 0 2 0) 0 true = true ∧ groupsOnDie (powering 1 7 2 0) 7 true = false ∧ licenceOnDie (powering 1 7 2 0) 7 = false ∧
    groupsOnDie (powering 0 7 1 0) 15 false = false ∧ groupsOnDie (unitsBy vec fun g => { g with core := 512 }) 8 false = true ∧
    (powering 0 7 2 0).crucible = [] ∧ (powering 0 7 2 0).net = [] ∧
    takesB { hosted 0x0E 0x10000 0 0 0 with units := (unitsBy vec fun g => { g with core := 512 }).units } 1 0x0E (cmd 0x0E 0x10000 0 0 0 0 0) = true ∧
    takesB (hosted 0x0D 0x460000 0 0 0) 1 0x0D (cmd 0x0D 0x460000 0 0 0 0 0) = true ∧ takesB (hosted 0x0D 0x460800 0 0 0) 1 0x0D (cmd 0x0D 0x460800 0 0 0 0 0) = true ∧
    [(0, 2), (3, 2), (1, 2), (2, 2), (1, 0), (2, 0), (2, 1)].all (fun x =>
      takesB { hosted 0x0F x.1 0 0 0 with service := x.2, dies := List.replicate 16 0 } 1 0x0F (cmd 0x0F x.1 0 0 0 0 0)) = true := by decide +kernel
/-- An inventory block is 4096 bytes and 512 row maps of 128. -/
theorem inventory_length (s : State) (h : s.links.length = 46) (d : s.dies.length = 16) : (inventoryBytes s).length = 69632 := by
  have r : ∀ c, (rowMapOf c).length = 128 := by
    intro c
    unfold rowMapOf
    split
    · rename_i k
      simp only [rowMapOk, Bool.and_eq_true, beq_iff_eq] at k
      omega
    · simp
  have f : ∀ l : List Nat, (l.flatMap fun c => (rowMapOf c).map (BitVec.ofNat 8)).length = 128 * l.length := by
    intro l
    induction l with
    | nil => rfl
    | cons x t ih => simp [List.flatMap_cons, r, ih]; omega
  have k : (s.links.flatMap fun l => [BitVec.ofNat 8 l.state, BitVec.ofNat 8 (min l.spares.1 l.spares.2)] ++ List.replicate 14 (0 : Byte)).length = 16 * s.links.length := by
    induction s.links with
    | nil => rfl
    | cons x t ih => simp only [List.flatMap_cons, List.length_append, ih, List.length_cons, List.length_nil, List.length_replicate]; omega
  unfold inventoryBytes
  simp only [List.length_append, f, k, List.length_map, List.length_range, List.length_replicate, List.length_cons, List.length_nil, h, d, bytesLE]
/-- Whether bytes can be written depends on their number alone. -/
theorem devWrite_isSome (s : State) (root : DWord) (a : Nat) (bs : List Byte) : (devWrite s root a bs).isSome =
    (spans (bs.length / 2 ^ 16 + 2) a bs.length).all fun x => (devPage s root true x.1 x.2).isSome := by
  unfold devWrite
  simp only
  split <;> simp_all
theorem wit_InventoryIsWritten : (hostWrite { takeUp (hosted 0x0D 0x460000 0 0 0) 1 with freeCtr := 1 } false 0x460000
    (inventoryBytes (takeUp (hosted 0x0D 0x460000 0 0 0) 1))).isSome = true := by
  unfold hostWrite
  rw [if_neg (by decide)]
  rw [devWrite_isSome, inventory_length _ (by decide +kernel) (by decide +kernel)]
  decide +kernel

def pend (op target arg : Nat) (left : List Nat) : PendCmd :=
  { qp := 1, tag := 5, opcode := op, region := 0, target := target, arg := arg, arg2 := 0, left := left, peer := none }
theorem wit_SelfTestsEnd : 15 < ({ vec with pending := [pend 0x0F 2 2 [15]], locked := true } : State).dies.length ∧ (pend 0x0F 2 2 [15]).arg = (pend 0x0F 2 2 [15]).target ∧
    ({ vec with pending := [pend 0x0F 2 2 [15]] } : State).topLost = false ∧ vec.peers = [] ∧ (pend 0x0F 2 1 [8]).target = 2 ∧ vec.dies.getD 15 2 ≤ 1 ∧
    (pend 0x0E 15 0 [15]).target = 15 ∧ vec.replicas.getD 15 false = true ∧ (vec.replicas.set 15 false).getD 15 false = false := by decide +kernel

/-- An invalidation of the first 64 KiB for which buffers have still to answer; a flagged load of core 0 in its range. -/
def inval7 (left : List Nat) : Inval := { id := 7, qp := 1, tag := 5, base := 0, pages := 1, left := left }
def invalidating (left : List Nat) : State := { owing with invals := [inval7 left] }
def inRange : State := { invalidating [0] with floads := [{ id := 9, gid := 2, core := 0, flag := 3, mask := 1, acc := dramAcc, dest := toV5, left := 0, got := [], err := none, absent := 0, spad := false }] }
/-- A move of a page of 64 KiB from 0x300000 of stack 0 to 0x310000 of stack 7. -/
def move7 (copied : Bool) (cores : List Nat) : PageMove :=
  { id := 7, qp := 1, tag := 5, va := 0x300000, size := 65536, oldPa := 0x300000, newPa := 7 * 2 ^ 36 + 0x310000, copied := copied, cores := cores }
def marking (dst : Nat) (copied : Bool) (cores : List Nat) : State := { mailed vec 0 dst .request (.marker 7 1023) with pageMoves := [move7 copied cores] }
theorem wit_PagesAreInvalidatedAndMoved : takesB (hosted 0x06 0x10000 1 0 0) 1 0x06 (cmd 0x06 0x10000 1 0 0 0 0) = true ∧
    takesB (hosted 0x06 0x8000 1 0 0) 1 0x06 (cmd 0x06 0x8000 1 0 0 0 0) = true ∧ takesB (hosted 0x06 0x10000 0 0 0) 1 0x06 (cmd 0x06 0x10000 0 0 0 0 0) = true ∧
    ((invalidating [0, 1103]).invals.filter fun x => x.id == 7) = [inval7 [0, 1103]] ∧ loadsInRange (invalidating [0, 1103]) (inval7 [0, 1103]) 1103 = false ∧
    loadsInRange { inRange with invals := [{ inval7 [0] with base := 0x300000 }] } { inval7 [0] with base := 0x300000 } 0 = true ∧ vec.pageMoves = [] ∧
    takesB (hosted 0x07 0x300000 0x0700 0x300000 0x310000) 1 0x07 (cmd 0x07 0x300000 0x0700 0x300000 0x310000 0 0) = true ∧ sizeOfCode 0 = 65536 ∧
    0x310000 + 65536 ≤ crucibleBase ∧ takesB (hosted 0x07 0x300000 3 0 0) 1 0x07 (cmd 0x07 0x300000 3 0 0 0 0) = true ∧
    ((marking 15 false [1023]).pageMoves.find? fun q => q.id == 7 && !q.copied) = some (move7 false [1023]) ∧
    (move7 false [1023]).oldPa + (move7 false [1023]).size ≤ (move7 false [1023]).newPa ∧ Memory.wf (marking 15 false [1023]).dram = true ∧
    ((marking 8 false [1023]).ready? 40).map (fun m => (m.dst, m.body)) = some (8, .marker 7 1023) ∧ 15 = 8 + (move7 true [1023]).newPa / 2 ^ 36 ∧
    ((marking 15 true [0, 1023]).ready? 40).map (fun m => (m.dst, m.body)) = some (15, .marker 7 1023) := by decide +kernel

/-! ## Witnesses: host accesses, frames, links, time, memory errors -/

/-- The bytes of a set-up SEND for rings of 16 · 2^j and 16 · 2^k records at 0x430000. -/
def setup (base j k : Nat) : List Byte := bytesLE 8 base ++ bytesLE 4 (16 * 2 ^ j) ++ bytesLE 12 0 ++ bytesLE 4 (16 * 2 ^ k) ++ bytesLE 36 0
def heldBack (n : Nat) : State := { vec with qps := [{ queue1 with held := List.replicate n (Machine.record 3 1 0 1 5 0), cqTail := 4, cmdHead := 0 }] }
theorem wit_HostAccesses :
    (∃ addr : DWord, (∀ d ∈ (heldBack 0).qps, ¬(Config.doorbell d.id ≤ addr.toNat ∧ addr.toNat < Config.doorbell d.id + 64)) ∧
      hostStacksUp (heldBack 0) addr.toNat 8 = true ∧ (hostWrite (heldBack 0) true addr.toNat (bytesLE 8 5)).isSome = true ∧
      (hostRead (heldBack 0) true addr.toNat 8).isSome = true) ∧
    (∃ addr : DWord, (∀ d ∈ (heldBack 0).qps, ¬(Config.doorbell d.id ≤ addr.toNat ∧ addr.toNat < Config.doorbell d.id + 64)) ∧
      (hostWrite (heldBack 0) true addr.toNat (bytesLE 8 5)).isNone = true ∧ (hostRead (heldBack 0) true addr.toNat 8).isNone = true) ∧
    (setup 0x430000 12 0).length = 64 ∧ field (setup 0x430000 12 0) 8 4 = 65536 ∧ field (setup 0x430000 12 0) 0x18 4 = 16 ∧
    field (setup 0x430800 0 0) 0 8 % 4096 ≠ 0 ∧ vec.qps = [] ∧ (heldBack 0).qp? 1 = some { queue1 with cqTail := 4 } ∧
    (4 + 2 ^ 32 - queue1.cmdHead) % 2 ^ 32 ≤ queue1.cmdCount ∧ queue1.cmdCount < (5 + 2 ^ 32 - queue1.cmdHead) % 2 ^ 32 ∧
    ((heldBack 1).qp? 1).map (·.held) = some [Machine.record 3 1 0 1 5 0] ∧ (4 + 2 ^ 32 - 1) % 2 ^ 32 ≠ queue1.cqCount ∧
    vec.sessionRoot = none ∧ vec.dramPoison = [] := by
  refine ⟨?_, ?_, by decide +kernel⟩
  · by_cases h : Config.doorbell 1 = 0
    · exact ⟨64, by simp [heldBack, queue1, h], by decide +kernel, by decide +kernel, by decide +kernel⟩
    · exact ⟨0, by simp [heldBack, queue1, h], by decide +kernel, by decide +kernel, by decide +kernel⟩
  · by_cases h : Config.doorbell 1 = 2 ^ 40
    · exact ⟨0x10000000040, by simp [heldBack, queue1, h], by decide +kernel, by decide +kernel⟩
    · by_cases g : Config.doorbell 1 ≤ 2 ^ 40 ∧ 2 ^ 40 < Config.doorbell 1 + 64
      · refine ⟨0x10000000040, ?_, by decide +kernel, by decide +kernel⟩
        simp [heldBack, queue1]
        omega
      · refine ⟨0x10000000000, ?_, by decide +kernel, by decide +kernel⟩
        simp [heldBack, queue1]
        omega

/-- A frame of module 1 stands on a port; the path has received 4. -/
def inFrame (t seq : Nat) (b : Option Msg) : Frame :=
  { version := 1, ftype := t, cls := 0, srcDev := 1, dstDev := 7, session := 9, seq := seq, ackSeq := 5, len := 0, w := State.reset.window, body := b }
def wired (f : Frame) : State :=
  { vec with devNum := 7, sessionId := 9, env := { vec.env with wire := [{ port := 0, head := f.header, body := f.body }] }, paths := [path1 [(frame 5, 0, 1), (frame 6, 0, 1)]] }
def letter (b : Payload) : Option Msg := some { id := 3, cls := .reply, src := 1024, dst := 16, body := b }
theorem wit_FramesArriveInOrder : (wired (inFrame 1 5 none)).env.wire[0]?.map (fun p => p.frame) = some (inFrame 1 5 none) ∧
    ((wired (inFrame 1 5 (letter (.ack 9 none)))).env.wire[0]?.map fun p => p.frame) = some (inFrame 1 5 (letter (.ack 9 none))) ∧ Agrees (wired (inFrame 1 5 none)) (inFrame 1 5 none) ∧
    (inFrame 1 5 none).seq = ((pathOf (wired (inFrame 1 5 none)) 1 0).recvSeq + 1) % 2 ^ 32 ∧ (inFrame 1 6 none).seq ≠ (4 + 1) % 2 ^ 32 ∧
    (inFrame 1 5 (letter (.ack 9 none))).body.map (·.body) = some (.ack 9 none) ∧ (inFrame 1 5 (letter (.overrun 1 7 64))).body.map (·.body) = some (.overrun 1 7 64) ∧
    Agrees (wired (inFrame 2 0 none)) (inFrame 2 0 none) ∧ ({ inFrame 1 5 none with w := 15 } : Frame).w ≠ (wired (inFrame 1 5 none)).window ∧
    ({ inFrame 1 5 none with session := 8 } : Frame).session ≠ (wired (inFrame 1 5 none)).sessionId ∧ (wired (inFrame 1 5 none)).mismatched = [] ∧
    (wired (inFrame 1 5 none)).pending = [] := by
  unfold Agrees
  decide +kernel

/-- A frame sent n times, last at rc 0. -/
def resending (now n : Nat) : State := { vec with devNum := 7, paths := [path1 [(frame 5, 0, n)]], now := now }
theorem wit_FramesAreSentAgain : (pathOf (resending 20000 15) 1 0).unacked = [(frame 5, 0, 15)] ∧ 0 + 20000 ≤ (resending 20000 15).now ∧
    (resending 19999 15).now < 0 + 20000 ∧ (pathOf (resending 20000 16) 1 0).unacked = [(frame 5, 0, 16)] ∧ (frame 5).body = none ∧
    (pathOf (resending 20000 16) 1 1).unacked = [] ∧ (resending 20000 16).pending = [] := by decide +kernel

/-- Link 0, between die 0 and die 8, with a message on it. -/
def linked (l : Link) (b : Payload) : State := { mailed (inlined [] 1) 0 8 .request b with links := State.reset.links.set 0 l }
def worn (state spares n : Nat) (lasting : List Nat) : Link :=
  { state := state, spares := (spares, 4), half := if state = 0 then [] else [0], errors := [(63, 65)], lasting := lasting, retries := [(40, n)], windowAt := 0 }
theorem wit_LinksFailInSteps : (linked (worn 0 0 2 []) (.ack 9 none)).links[0]? = some (worn 0 0 2 []) ∧
    ((linked (worn 0 0 2 []) (.ack 9 none)).msg? 40).map (·.body) = some (.ack 9 none) ∧ 0 ∈ routeLinks (sourceDie 0) 8 ∧ 63 < linkLanes 0 ∧
    countAt (worn 0 0 1 []).retries 40 < 2 ∧ 2 ≤ countAt (worn 0 0 2 []).retries 40 ∧ messageLaunch (linked (worn 0 0 2 []) (.ack 9 none)) (.ack 9 none) = none ∧
    messageLaunch { linked (worn 0 0 2 []) (.spad 2 3 spadAcc toV5) with launches := [] } (.spad 2 3 spadAcc toV5) = none ∧
    ({ linked (worn 0 0 2 []) (.spad 2 3 spadAcc toV5) with launches := [] } : State).unit? 2 ≠ none ∧
    0 / 1000000 < ({ linked (worn 0 0 2 []) (.ack 9 none) with now := 1000000 } : State).now / 1000000 ∧ 999999 / 1000000 ≤ 0 / 1000000 ∧
    63 ∈ (worn 0 1 0 [63]).lasting ∧ 63 ∈ (worn 1 0 0 [63]).lasting ∧ 63 ∉ (worn 0 0 0 []).lasting ∧ (worn 2 0 0 [63]).state = 2 ∧
    (worn 0 0 0 [63]).half = [] ∧ (worn 1 0 0 [63]).half = [63 / 256] ∧ linkDir (sourceDie 0) 8 0 = 0 ∧
    ((moving 512 0 0).moves.find? fun x => x.id == 7) = some (move3 512 0 0) ∧ (owedUnit (moving 512 0 0) 2 0xFFFFFFFF).map (fun g => (g.uid, g.loc, g.core)) =
      some (2, .resident, 512) := by decide +kernel

def clocked (since : Option Nat) (locked : Bool) (offset : Int) (n : Nat) : State := { vec with lockSince := since, locked := locked, offset := offset, now := n }
theorem wit_TimeIsKept : (clocked (some 0) false 100 1000000000).lockSince = some 0 ∧ 0 + 1000000000 ≤ (clocked (some 0) false 100 1000000000).now ∧
    (clocked (some 0) false 100 999999999).now < 0 + 1000000000 ∧ (clocked none true 126 0).locked = true ∧ 125 < (clocked none true 126 0).offset ∧
    (clocked none true (-126) 0).offset < -125 ∧ (-125 ≤ (clocked none true 125 0).offset ∧ (clocked none true 125 0).offset ≤ 125) ∧
    ({ vec with ptimeSet := true } : State).ptimeSet = true ∧ vec.ptimeSet = false ∧ vec.pending = [] := by decide +kernel

def cooled (t b : Bool) : State := { regional 0 0 with topLost := t, bottomLost := b }
theorem wit_CoolingAndWaking : (cooled false false).topLost = false ∧ (cooled true false).bottomLost = false ∧ (cooled false true).bottomLost = true ∧
    (cooled true true).topLost = true ∧ ((cooled true false).launches.all fun l => !l.ended && l.killed.isNone && l.chain.any fun n => n.addr == 0) = true ∧
    (cooled true true).dies.length = 16 ∧ (cooled true true).dies.getD (8 + 7) 2 ≤ 1 ∧ 2 ≤ (vec.dies.set 15 2).getD (8 + 7) 2 ∧ (cooled true true).pending = [] ∧
    (cooled true true).pairs = [] ∧ ((cooled true true).units.all fun g => !g.halting) = true ∧
    ({ arriving with dies := vec.dies.set 8 1 } : State).dies.getD (8 + 0) 0 = 1 ∧ (arriving.net.any fun m => m.dst == 8 + 0) = true := by decide +kernel

def counted (times : List Nat) (lasting : Bool) (spares now : Nat) : State :=
  { vec with rowCounts := [{ stack := 7, bank := 2, row := 3, times := times, lasting := lasting }], spareRows := [(7 * 2 ^ 32 + 2, spares)], now := now }
def rowHit (r : RowCount) : Bool := r.stack == 7 && r.bank == 2 && r.row == 3
theorem wit_MemoryErrorsAreHandled : ((counted [2, 1, 0] false 15 5).rowCounts.find? rowHit).map (·.times) = some [2, 1, 0] ∧
    ([2, 1, 0].filter fun t => decide ((counted [2, 1, 0] false 15 5).now < t + 600000000000)).length = 3 ∧
    ([2, 1, 0].filter fun t => decide ((counted [2, 1, 0] false 15 600000000000).now < t + 600000000000)).length = 2 ∧
    sparesUsed (counted [2, 1, 0] false 15 5) 7 2 = 15 ∧ sparesUsed (counted [2, 1, 0] false 16 5) 7 2 = 16 ∧
    ((counted [] true 16 5).rowCounts.find? rowHit).map (·.lasting) = some true ∧ (ringPartners lowered 15).head? = some 0 ∧
    (lowered.lat.find? fun c => c.key == latKey 0 0x107C).isSome = true ∧ (vec.unit? 2).map (fun g => (g.loc, g.visitor)) = some (.resident, none) := by decide +kernel

/-! ## Witnesses: the machine -/

theorem wit_InvariantKept : vec.Inv ∧ (match step vec with | .next _ => true | _ => false) = true := ⟨inv_of (by decide +kernel), by decide +kernel⟩

/-- The word of IADD v5, v4, v3 stands where the next step fetches. -/
def fetching : State := State.reset.withFetchWord 32 0x20142030
def ticked : State := tick fetching
/-- A unit reads its bundle, the low half of which is x. -/
def enters (s : State) (g : Group) (x : Nat) : Bool := match readBundle s g (g.pc / 16 * 16) with | .ok p => p.1 == x | .error _ => false
theorem wit_StepRunsInstruction : ticked.env.agenda = [] ∧ ticked.turn % 2 = 1 ∧ (nextPart ticked).map (fun k => (k, inOrder ticked k)) = some (0, [2]) ∧
    (unitOf ticked 2).bundle = none ∧ (unitOf ticked 2).visitor = none ∧ (unitOf ticked 2).pc = 0x1004 ∧ trapDue ticked (unitOf ticked 2) = false ∧
    enters ticked (unitOf ticked 2) 0x2014203000000000 = true ∧
    decodeWord (highWord 0x2014203000000000) = .ok (.iadd 5 4 3 0) := by
  refine ⟨?_, ?_, ?_, ?_, ?_, ?_, ?_, ?_, rfl⟩ <;> decide +kernel
theorem wit_PipesAreServedInOrder : inOrder ticked 0 = [2] ∧ (candidates ticked 0).length = 1 ∧
    (launchOf ticked (unitOf ticked 2)).node.priority ≤ 7 ∧ (unitOf ticked 2).age ≤ 65535 := by decide +kernel
theorem wit_EveryRowAnswers : encode (.iadd 5 4 3 0) ≠ none ∧ (ctx? vec).isSome = true ∧ (ctx? State.reset).isNone = true ∧ encode .deviceReset = none := by
  decide +kernel

def waitsOn (s : State) (l : List Nat) : State := { s with cur := { s.cur with waitMask := l } }
theorem wit_FaultsInOrder : ctx? vec = some (ctxOf vec) ∧ encode (.iadd 5 4 3 0) ≠ none ∧ (ctxOf vec).g.homeFault = none ∧ (ctxOf vec).g.deferred = none ∧
    (ctxOf vec).g.visitor = none ∧ ((ctxOf (waitsOn owing [3])).g.flag 3).set = true ∧ (ctxOf (waitsOn owing [3])).s.cur.waitMask = [3] ∧
    Instr.legal false (.iaddc 5 4 3 1 2) = true ∧ Instr.legal true (.rejoin 3) = false ∧ (Instr.csrw 5 0x30).privileged = true ∧ Instr.legal false (.rcall 3 5 3 10 12 0) = false ∧
    (Instr.mswap).needsMatrix = true ∧ (Instr.ljoin 10 12 2).isLattice = true ∧ (Instr.xsigSig 2).isXsig = true ∧ (ctxOf vec).twin?.isNone = true ∧
    Ctx.namesTwin (.src 120 1) = true ∧ ((Instr.iadd 5 111 3 0).opnds false).findSome? (ctxOf small).outside ≠ none ∧
    ((Instr.iadd 5 112 3 0).opnds false).findSome? (ctxOf vec).voidLatch = some 112 ∧ (ctxOf vec).g.acqFlags = [] :=
  ⟨ctx_of (by decide +kernel), by decide +kernel⟩

/-- The instruction's stay bit is set, in a chain of n. -/
def staying (n : Nat) (stay : Bool) : State := { unitsBy vec fun g => { g with chainLen := n } with cur := { vec.cur with stay := stay, holdA := true } }
theorem wit_StayChains : Issues (staying 4 true) (.iadd 5 4 3 0) (ctxOf (staying 4 true)) ∧ Issues (staying 5 true) (.iadd 5 4 3 0) (ctxOf (staying 5 true)) ∧
    Issues (staying 0 false) (.iadd 112 4 3 0) (ctxOf (staying 0 false)) ∧ (ctxOf (staying 4 true)).g.holdPtr < 3 ∧
    seen (.vec 5) 31 { reg := .vec 5, mask := 0x80000000, vals := [], cls := 1, k := 1 } ∧
    ¬seen (.vec 5) 31 { reg := .vec 5, mask := 0x80000000, vals := [], cls := 2, k := 1 } :=
  ⟨issues_of (by decide +kernel), issues_of (by decide +kernel), issues_of (by decide +kernel), by decide +kernel, by unfold seen; decide, by unfold seen; decide⟩

theorem wit_MemoryHoldsBytes : Memory.wf vec.dram = true ∧ vec.dram ≠ [] := by decide +kernel
theorem wit_RoundingIsCorrect : Fmt.e2m1 ∈ formats ∧ (0 < 25 ∧ 0 < 4) ∧ ((25 : Nat) : Rat) * (2 : Rat) ^ (-2 : Int) = 25 / 4 ∧ magnitude .e2m1 Fmt.e2m1.maxCode = 6 ∧
    ((1 : Nat) : Rat) * (2 : Rat) ^ (16 : Int) = 65536 ∧ magnitude .fp16 Fmt.fp16.maxCode = 65504 ∧ Fmt.fp16.hasInf = true := by
  decide +kernel
theorem wit_ArithmeticIsExact : ratOf (.fin true 3 (-1)) = some (-3 / 2) := by
  decide +kernel
theorem wit_ImagesReadBack : me.pc % 4 = 0 ∧ me.pc < 2 ^ 56 ∧ ({ v := [(5, [])], s := [(3, 1)], destV := [], destS := [], full := false, wrote := [] } : Carried).destV = [] := by
  decide +kernel

/-- Unit 2 has waited for cells that meet its thresholds. -/
def metLate : State :=
  bundled (unitsBy (awaiting 1000000000 0xFFFFFFFF) fun g => { g with wait := .lldw 0 }) ((encode (.lldw 6 10 12 2)).getD 0)
def metNow : State := { metLate with cur := ((slotIssue (unitOf metLate 2)).map (·.2)).getD Issue.void }
theorem wit_InternalFormsComplete : Issues vec (.exit 0 0) (ctxOf vec) ∧ exits (ctxOf vec) 0 0 ≠ 0 ∧ exits (ctxOf vec) 0 0 = (ctxOf vec).g.mask ∧
    owed vec (ctxOf vec).g = [] ∧ pendingOf (ctxOf vec).g (ctxOf vec).g.awaited = none ∧ (ctxOf vec).g.rejoin = 0 ∧ homeOf (ctxOf vec).g.gid = none ∧
    (metLate.unit? 2).map (·.wait) = some (.lldw 0) ∧ latLimit metLate (unitOf metLate 2) ≤ metLate.now ∧ Issues metNow (.lldw 6 10 12 2) (ctxOf metNow) ∧
    metLate.replicas.getD (dieOf (ctxOf metNow).g.core) false = true ∧ fine ((ctxOf metNow).cells 2 ((ctxOf metNow).addr 10 0) (ctxOf metNow).active) = true ∧
    ((cellList metNow).all fun x => latLeq 2 ((ctxOf metNow).latVal 2 12 x.1) (latGet metLate x.2.1.typ 0 x.2.2)) = true ∧ ctx? small = some (ctxOf small) ∧
    ((launchOf small (ctxOf small).g).node.persistent, (launchOf small (ctxOf small).g).node.hbeatInt) = (true, 7) ∧ supervisor small (ctxOf small).g = true ∧
    (small.launch? (ctxOf small).g.launch).isSome = true ∧
    fine (translate calling (ctxOf calling).g.core (rootOf calling (ctxOf calling).g) (supervisor calling (ctxOf calling).g) .locate 0x300000) = true ∧
    ((body 4096).unit? 2).map (fun g => (g.visitor.map (·.issued), g.loc, g.wait)) = some (some 4096, .resident, .none) ∧ (body 4096).cache = [] ∧
    (val (recordSlot removing 2 0 3 0x0F#32)).2.parent &&& ~~~0x0F#32 ≠ 0 ∧
    (val (recordSlot removing 2 0 3 0x0F#32)).2.parent &&& ~~~0x0F#32 ≠ (val (recordSlot removing 2 0 3 0x0F#32)).2.arrived ∧
    stackUp (retrying [] []) 0 = true ∧ routeUp (retrying [] []) 3 8 = true := by
  refine ⟨issues_of ?_, ?_, ?_, ?_, ?_, ?_, ?_, ?_, ?_, issues_of ?_, ?_, ?_, ?_, ctx_of ?_, ?_⟩ <;> decide +kernel

/-- A RESUME of a pre-empted launch of which nothing is saved. -/
def unsaved : State := resuming (halted2 (regional 0 0))
/-- The bytes of a record of an unknown opcode. -/
def strange : List Byte := cmd 0x11 0 0 0 0 0 0
theorem wit_HostFormsComplete : takesB unsaved 1 0x03 resumeCmd = true ∧ noteNode (takeUp unsaved 1) 0x420000 = takeUp unsaved 1 ∧ unsaved.preempts = [] ∧
    unsaved.saved = [] ∧ takesB { hosted 0x0A 16 0 0 0 with launches := [] } 1 0x0A (cmd 0x0A 16 0 0 0 0 0) = true ∧
    (hosting vec strange).qp? 1 = some queue1 ∧ queue1.cmdTail ≠ queue1.cmdHead ∧ 16 < (strange.getD 0 0).toNat ∧
    (hostRead (hosting vec strange) false 0x430000 64 == some strange) = true ∧
    ((invalidating [0, 1103]).invals.filter fun x => x.id == (inval7 [0, 1103]).id) = [inval7 [0, 1103]] ∧ 1103 ∈ (inval7 [0, 1103]).left ∧
    loadsInRange (invalidating [0, 1103]) (inval7 [0, 1103]) 1103 = false ∧ routeUp (marking 15 true [0, 1023]) 0 15 = true ∧
    ((marking 15 true [0, 1023]).pageMoves.find? fun q => q.id == 7) = some (move7 true [0, 1023]) ∧ 15 = 8 + (move7 true [0, 1023]).newPa / 2 ^ 36 ∧
    (vec.launch? 1).isSome = true := by decide +kernel

/-! ## Decoding: a word of every row, from the match bits and field positions of its encoding (R86 to R90) -/

theorem test_decode_01_to_0F : [
(0x02000000, Instr.nop),
    (0x0400ABCD, Instr.bra 0xABCD),
    (0x0775ABCD, Instr.brc 5 1 0x15 0xABCD),
    (0x0940ABCD, Instr.call 5 0xABCD),
    (0x0A015000, Instr.ret 0x2A),
    (0x0C015330, Instr.jtab 0x2A 0x33),
    (0x0FABCDEF, Instr.pad 1 0xABCDEF),
    (0x1000000E, Instr.exit 1 6),
    (0x120005A3, Instr.trap 0x5A3),
    (0x15A0ABCD, Instr.loop 0xD 0xABCD),
    (0x16000DA3, Instr.winb 1 0x5A3),
    (0x18000DA3, Instr.swinb 1 0x5A3),
    (0x1B5AD6AA, Instr.live 0x56 0x2D 0x1A 0x15),
    (0x1C0005A3, Instr.pause 0x5A3),
    (0x1E015000, Instr.sleep 0x2A)
].all (fun x => decodeTableWord 32 x.1 == some x.2 && x.2.wf && encode x.2 == some (BitVec.ofNat 32 x.1)) = true := by decide +kernel
theorem test_decode_10_to_1E : [
(0x21595332, Instr.iadd 0x56 0x2A 0x33 2),
    (0x23595332, Instr.isub 0x56 0x2A 0x33 2),
    (0x25595332, Instr.imul 0x56 0x2A 0x33 2),
    (0x27595332, Instr.imad 0x56 0x2A 0x33 2),
    (0x29595332, Instr.imnx 0x56 0x2A 0x33 2),
    (0x2A195332, Instr.isetp 6 0x2A 0x33 2),
    (0x2D59533E, Instr.sel 0x56 0x2A 0x33 1 6),
    (0x2F59533E, Instr.iaddc 0x56 0x2A 0x33 1 6),
    (0x31595330, Instr.land 0x56 0x2A 0x33),
    (0x33595330, Instr.lor 0x56 0x2A 0x33),
    (0x35595330, Instr.lxor 0x56 0x2A 0x33),
    (0x37595330, Instr.andn 0x56 0x2A 0x33),
    (0x39595331, Instr.shl 0x56 0x2A 0x33 1),
    (0x3B595332, Instr.shr 0x56 0x2A 0x33 2),
    (0x3D595332, Instr.bfx 0x56 0x2A 0x33 2)
].all (fun x => decodeTableWord 32 x.1 == some x.2 && x.2.wf && encode x.2 == some (BitVec.ofNat 32 x.1)) = true := by decide +kernel
theorem test_decode_1F_to_2D : [
(0x3F595004, Instr.bitop 0x56 0x2A 4),
    (0x415955A3, Instr.iaddi 0x56 0x2A 0x5A3),
    (0x435955A3, Instr.andi 0x56 0x2A 0x5A3),
    (0x455955A3, Instr.ori 0x56 0x2A 0x5A3),
    (0x475955A3, Instr.xori 0x56 0x2A 0x5A3),
    (0x49595055, Instr.shi 0x56 0x2A 2 0x15),
    (0x4B5ABCDE, Instr.movi 0x56 0x2BCDE),
    (0x4D5ABCDE, Instr.movhi 0x56 0x2BCDE),
    (0x4E1956A3, Instr.isetpi 6 0x2A 6 0xA3),
    (0x51595339, Instr.fadd 0x56 0x2A 0x33 9),
    (0x53595332, Instr.fmul 0x56 0x2A 0x33 2),
    (0x55595332, Instr.ffma 0x56 0x2A 0x33 2),
    (0x57595331, Instr.fmnx 0x56 0x2A 0x33 1),
    (0x58195332, Instr.fsetp 6 0x2A 0x33 2),
    (0x5B595009, Instr.fsfu 0x56 0x2A 9)
].all (fun x => decodeTableWord 32 x.1 == some x.2 && x.2.wf && encode x.2 == some (BitVec.ofNat 32 x.1)) = true := by decide +kernel
theorem test_decode_2E_to_3C : [
(0x5D5952F2, Instr.fcvt 0x56 0x2A 0xB 1 1 2),
    (0x5F595003, Instr.fclass 0x56 0x2A 3),
    (0x61595332, Instr.hadd2 0x56 0x2A 0x33 2),
    (0x63595332, Instr.hmul2 0x56 0x2A 0x33 2),
    (0x65595332, Instr.hfma2 0x56 0x2A 0x33 2),
    (0x67595332, Instr.bfma2 0x56 0x2A 0x33 2),
    (0x6959533D, Instr.dot4 0x56 0x2A 0x33 0xD),
    (0x6B59533D, Instr.pcvt 0x56 0x2A 0x33 0xD),
    (0x6D595002, Instr.mov 0x56 0x2A 2),
    (0x6F595000, Instr.idx 0x56 0x2A 0 0),
    (0x70182832, Instr.plop 6 5 3 2),
    (0x73582803, Instr.vote 0x56 5 3),
    (0x75595332, Instr.shfl 0x56 0x2A 0x33 2),
    (0x7759500B, Instr.redux 0x56 0x2A 0xB),
    (0x78195001, Instr.pmov 6 0x2A 1)
].all (fun x => decodeTableWord 32 x.1 == some x.2 && x.2.wf && encode x.2 == some (BitVec.ofNat 32 x.1)) = true := by decide +kernel
theorem test_decode_3D_to_4D : [
(0x7A180002, Instr.pset 6 2),
    (0x815950DA, Instr.ldb 0x56 0x2A 0xD 0xA),
    (0x835950DA, Instr.ldh 0x56 0x2A 0xD 0xA),
    (0x855950DA, Instr.ldw 0x56 0x2A 0xD 0xA),
    (0x875950DA, Instr.ldd 0x56 0x2A 0xD 0xA),
    (0x895954DA, Instr.ldba 0x56 0x2A 4 0xD 0xA),
    (0x8B5954DA, Instr.ldha 0x56 0x2A 4 0xD 0xA),
    (0x8D5954DA, Instr.ldwa 0x56 0x2A 4 0xD 0xA),
    (0x8F5954DA, Instr.ldda 0x56 0x2A 4 0xD 0xA),
    (0x915950DE, Instr.stb 0x56 0x2A 0xD 1 6),
    (0x935950DE, Instr.sth 0x56 0x2A 0xD 1 6),
    (0x955950DE, Instr.stw 0x56 0x2A 0xD 1 6),
    (0x975950DE, Instr.std 0x56 0x2A 0xD 1 6),
    (0x995954DE, Instr.stbl 0x56 0x2A 4 0xD 1 6),
    (0x9B5954DE, Instr.sthl 0x56 0x2A 4 0xD 1 6)
].all (fun x => decodeTableWord 32 x.1 == some x.2 && x.2.wf && encode x.2 == some (BitVec.ofNat 32 x.1)) = true := by decide +kernel
theorem test_decode_4E_to_5C : [
(0x9D5954DE, Instr.stwl 0x56 0x2A 4 0xD 1 6),
    (0x9F5954DE, Instr.stdl 0x56 0x2A 4 0xD 1 6),
    (0xA1595566, Instr.aadd 0x56 0x2A 0x15 4 3 0),
    (0xA3595566, Instr.asub 0x56 0x2A 0x15 4 3 0),
    (0xA5595566, Instr.amins 0x56 0x2A 0x15 4 3 0),
    (0xA7595566, Instr.amaxs 0x56 0x2A 0x15 4 3 0),
    (0xA9595566, Instr.aminu 0x56 0x2A 0x15 4 3 0),
    (0xAB595566, Instr.amaxu 0x56 0x2A 0x15 4 3 0),
    (0xAD595566, Instr.aand 0x56 0x2A 0x15 4 3 0),
    (0xAF595566, Instr.aor 0x56 0x2A 0x15 4 3 0),
    (0xB1595566, Instr.axor 0x56 0x2A 0x15 4 3 0),
    (0xB3595566, Instr.axch 0x56 0x2A 0x15 4 3 0),
    (0xB5595566, Instr.acas 0x56 0x2A 0x15 4 3 0),
    (0xB7595566, Instr.afadd 0x56 0x2A 0x15 4 3 0),
    (0xB9595566, Instr.afmin 0x56 0x2A 0x15 4 3 0)
].all (fun x => decodeTableWord 32 x.1 == some x.2 && x.2.wf && encode x.2 == some (BitVec.ofNat 32 x.1)) = true := by decide +kernel
theorem test_decode_5D_to_6F : [
(0xBB595566, Instr.afmax 0x56 0x2A 0x15 4 3 0),
    (0xBD595566, Instr.aincw 0x56 0x2A 0x15 4 3 0),
    (0xBF595566, Instr.adecw 0x56 0x2A 0x15 4 3 0),
    (0xFB5950DE, Instr.stn 0x56 0x2A 0xD 1 6),
    (0xFD59533E, Instr.stbm 0x56 0x2A 0x33 1 6),
    (0xD0015000, Instr.migrCore 0x2A),
    (0xD0015001, Instr.migrAddr 0x2A),
    (0xD0000002, Instr.migrLaunch),
    (0xD3595000, Instr.home 0x56 0x2A),
    (0xD400A800, Instr.rejoin 0x15),
    (0xDC107334, Instr.barArrive 4 0xE 0x33 1),
    (0xDC107335, Instr.barWait 4 0xE 0x33 1),
    (0xDC107336, Instr.barSync 4 0xE 0x33 1),
    (0xDC107337, Instr.barInit 4 0xE 0x33 1),
    (0xDE001806, Instr.fence 3 1 2)
].all (fun x => decodeTableWord 32 x.1 == some x.2 && x.2.wf && encode x.2 == some (BitVec.ofNat 32 x.1)) = true := by decide +kernel
theorem test_decode_60_to_72 : [
(0xC001533B, Instr.ljoin 0x2A 0x33 0xB),
    (0xC359533B, Instr.ljoinr 0x56 0x2A 0x33 0xB),
    (0xC55950DB, Instr.lld 0x56 0x2A 0xD 0xB),
    (0xC759533B, Instr.lldw 0x56 0x2A 0x33 0xB),
    (0xC95950DB, Instr.lstx 0x56 0x2A 0xD 0xB),
    (0xCA01500B, Instr.lflush 0x2A 0xB),
    (0xCD59500B, Instr.lepoch 0x56 0x2A 0xB),
    (0xD755513D, Instr.rcall 2 0x15 1 0xA 0x13 0xD),
    (0xD755553D, Instr.rcallRetry 2 0x15 1 0xA 0x13 0xD),
    (0xD8015000, Instr.rret 0x2A),
    (0xDB58000A, Instr.rstat 0x56 0xA),
    (0xE159500A, Instr.tmove 0x56 0x2A 0xA),
    (0xE358000A, Instr.tstat 0x56 0xA),
    (0xE358001A, Instr.tstatProm 0x56 0xA),
    (0xE401533A, Instr.mldw 0x2A 0x33 0xA)
].all (fun x => decodeTableWord 32 x.1 == some x.2 && x.2.wf && encode x.2 == some (BitVec.ofNat 32 x.1)) = true := by decide +kernel
theorem test_decode_73_to_7C : [
(0xE6000000, Instr.mswap),
    (0xE801533A, Instr.mstream 0x2A 0x33 0xA),
    (0xEB59533A, Instr.mdrain 0x56 0x2A 0x33 0xA),
    (0xEC000000, Instr.mlicAcq),
    (0xEC180001, Instr.mlicTry 6),
    (0xEC000002, Instr.mlicRel),
    (0xED580003, Instr.mlicQry 0x56),
    (0xEE100000, Instr.xsigSig 4),
    (0xEE100001, Instr.xsigWait 4),
    (0xEE100002, Instr.xsigSync 4),
    (0xF15805A3, Instr.csrr 0x56 0x5A3),
    (0xF20155A3, Instr.csrw 0x2A 0x5A3),
    (0xF4000000, Instr.eret),
    (0xF7580001, Instr.cycle 0x56 1),
    (0xF80155A3, Instr.tracem 0x2A 0x5A3)
].all (fun x => decodeTableWord 32 x.1 == some x.2 && x.2.wf && encode x.2 == some (BitVec.ofNat 32 x.1)) = true := by decide +kernel

/-! ## Decoding: words that the specification works out -/

def words (l : List (Nat × Instr)) : Bool := l.all fun x => decodeTableWord 32 x.1 == some x.2
theorem test_words_of_the_registers : words [(0x20142030, .iadd 5 4 3 0), (0x241B9F00, .imul 6 115 112 0), (0x201C3050, .iadd 7 6 5 0), (0x1A203086, .live 8 3 2 3),
    (0x500C0821, .fadd 3 1 2 1), (0x54140820, .ffma 5 1 2 0), (0x5C1822C8, .fcvt 6 4 0x0B 0 0 8), (0x700C0828, .plop 3 1 2 8), (0x4A0C1678, .movi 3 0x1678),
    (0x4C0C48D1, .movhi 3 0x48D1), (0x1460FFFD, .loop 3 0xFFFD), (0x4E041764, .isetpi 1 2 7 0x64), (0x06410003, .brc 1 0 1 3)] = true := by decide +kernel
theorem test_words_of_memory : words [(0x84101000, .ldw 4 2 0 0), (0x941C1000, .stw 7 2 0 0 0), (0x941C1018, .stw 7 2 1 1 0), (0x9C1C2308, .stwl 7 4 3 0 1 0),
    (0x8C202300, .ldwa 8 4 3 0 0), (0xA1C031E5, .aadd 112 6 7 4 2 1), (0xD4001800, .rejoin 3), (0xDC0C0002, .barSync 3 0 0 0), (0xDC0C1856, .barSync 3 3 5 1),
    (0xDE001807, .fence 3 1 3), (0xC0001052, .ljoin 2 5 2), (0xC6181072, .lldw 6 2 7 2), (0xC8141002, .lstx 5 2 0 2)] = true := by decide +kernel
theorem test_words_of_the_system : words [(0xD8000000, .rret 0), (0xDA240005, .rstat 9 5), (0xE0504002, .tmove 20 8 2), (0xE2240002, .tstat 9 2), (0xE4002063, .mldw 4 6 3),
    (0xE8005064, .mstream 10 6 4), (0xEA6870A0, .mdrain 26 14 10 0), (0xEA386060, .mdrain 14 12 6 0), (0xEC000000, .mlicAcq), (0xEC080001, .mlicTry 2), (0xEC000002, .mlicRel),
    (0xEC140003, .mlicQry 5), (0xEE080002, .xsigSync 2), (0xF0100030, .csrr 4 0x30), (0xF2003840, .csrw 7 0x40), (0xF6280001, .cycle 10 1), (0xF800184D, .tracem 3 77)]
    = true := by decide +kernel
theorem test_words_of_no_instruction : [0, 0x7C000000, 0x7E000000, 0xCE000000, 0xFE000000, 0x02000001, 0x20142033 + 0x2000000 * 0x6F].all
    (fun w => decodeTableWord 32 w == none) = true := by decide +kernel

/-! ## Ill-formed instructions: one for each check -/

theorem test_ill_formed_registers : [Instr.ret 111, .jtab 112 0, .jtab 0 111, .live 112 0 0 0, .sleep 111, .iadd 113 0 0 0, .iadd 0 0 0 3, .isub 119 0 0 0, .isub 0 0 0 3,
    .imul 113 0 0 0, .imul 0 0 0 3, .imad 112 0 0 0, .imad 0 0 0 3, .imnx 113 0 0 0, .imnx 0 0 0 4, .sel 113 0 0 0 0, .iaddc 113 0 0 0 0, .land 113 0 0, .lor 113 0 0,
    .lxor 113 0 0, .andn 113 0 0, .shl 113 0 0 0, .shl 0 0 0 2, .shr 113 0 0 0, .shr 0 0 0 3, .bfx 113 0 0 0, .bfx 112 0 0 2, .bfx 0 0 0 3, .bitop 113 0 0, .bitop 0 0 5,
    .iaddi 113 0 0, .andi 113 0 0, .ori 113 0 0, .xori 113 0 0, .shi 113 0 0 0, .movi 113 0, .movhi 113 0, .fadd 113 0 0 0, .fmul 113 0 0 0, .ffma 112 0 0 0,
    .fmnx 113 0 0 0, .fmnx 0 0 0 5, .fmnx 0 0 1 2, .fsfu 113 0 0, .fcvt 113 0 0 0 0 0, .fcvt 0 0 0x13 0 0 0, .fclass 113 0 0, .fclass 0 0 5, .hadd2 113 0 0 0,
    .hmul2 113 0 0 0, .hfma2 112 0 0 0, .bfma2 112 0 0 0, .dot4 112 0 0 0, .dot4 0 0 0 7, .pcvt 112 0 0 0, .mov 113 0 0, .mov 0 112 1, .mov 112 0 1, .mov 113 0 2, .mov 0 112 2,
    .mov 0 0 3, .idx 0 0 1 0, .idx 1 0 0 1, .idx 0 1 0 2, .idx 0 0 0 3, .vote 8 0 0, .vote 0 8 1, .vote 8 0 2, .vote 113 0 3, .vote 0 0 5, .shfl 113 0 0 0, .shfl 0 0 0 4,
    .redux 113 0 0, .redux 0 0 13, .pmov 113 0 0, .pmov 0 8 0, .pmov 8 0 1, .pmov 0 0 3, .pset 0 3].all (fun i => !i.wf) = true := by decide +kernel
theorem test_ill_formed_memory : [Instr.ldb 113 0 0 0, .ldb 0 111 0 0, .ldb 0 0 0 12, .ldh 113 0 0 0, .ldw 0 127 0 0, .ldd 111 0 0 0, .ldba 0 0 5 0 0, .ldha 0 0 5 0 0,
    .ldwa 0 0 7 0 0, .ldda 0 0 5 0 0, .ldda 113 0 0 0 0, .stb 0 111 0 0 0, .sth 0 112 0 0 0, .stw 0 119 0 0 0, .std 111 0 0 0 0, .std 0 111 0 0 0, .stbl 0 0 5 0 0 0,
    .sthl 0 111 0 0 0 0, .stwl 0 0 6 0 0 0, .stdl 0 0 5 0 0 0, .stdl 111 0 0 0 0 0, .aadd 113 0 0 0 0 0, .aadd 0 0 0 0 0 1, .aadd 112 0 0 0 1 1, .aadd 112 0 0 0 3 1,
    .aadd 0 0 0 5 0 0, .asub 0 111 0 0 0 0, .amins 113 0 0 0 0 0, .amaxs 113 0 0 0 0 0, .aminu 113 0 0 0 0 0, .amaxu 113 0 0 0 0 0, .aand 113 0 0 0 0 0, .aor 113 0 0 0 0 0,
    .axor 113 0 0 0 0 0, .axch 113 0 0 0 0 0, .acas 0 0 31 0 0 0, .afadd 113 0 0 0 0 0, .afmin 113 0 0 0 0 0, .afmax 113 0 0 0 0 0, .aincw 113 0 0 0 0 0, .adecw 113 0 0 0 0 0,
    .stn 111 0 0 0 0, .stn 0 111 0 0 0, .stbm 0 111 0 0 0, .migrCore 112, .migrAddr 111, .home 113 0, .home 0 111, .barArrive 5 0 0 0, .barArrive 0 0 0 1, .barArrive 0 1 112 1,
    .barWait 0 1 1 0, .barSync 5 0 0 0, .barInit 0 0 0 0, .barInit 0 1 1 0, .fence 5 0 1, .fence 0 0 0].all (fun i => !i.wf) = true := by decide +kernel
theorem test_ill_formed_system : [Instr.ljoin 111 0 1, .ljoin 0 0 0, .ljoin 0 0 12, .ljoin 0 111 7, .ljoinr 113 0 0 1, .ljoinr 111 0 0 8, .ljoinr 0 0 111 9, .lld 111 0 0 11,
    .lld 0 0 0 0, .lldw 0 0 111 7, .lldw 113 0 0 1, .lstx 111 0 0 7, .lstx 0 111 0 1, .lflush 0 0, .lflush 111 1, .lepoch 111 0 1, .lepoch 0 0 0, .rcall 3 0 0 0 0 0,
    .rcall 0 0 0 31 0 0, .rcallRetry 3 0 0 0 0 0, .rcallRetry 0 0 0 31 0 0, .rret 112, .rstat 113 0, .rstat 0 12, .tmove 111 0 1, .tmove 0 105 1, .tmove 0 0 0, .tmove 0 0 12,
    .tstat 113 0, .tstat 0 12, .tstatProm 111 0, .tstatProm 0 12, .mldw 111 0 0, .mldw 0 111 0, .mldw 0 0 12, .mstream 111 0 0, .mstream 0 0 12, .mdrain 111 0 0 0,
    .mdrain 0 111 0 0, .mdrain 0 0 0 12, .mlicQry 112, .xsigSig 5, .xsigWait 5, .xsigSync 5, .csrr 113 0, .cycle 111 0, .cycle 0 2].all (fun i => !i.wf) = true := by
  decide +kernel

/-! ## Steps: results that the specification works out, or worked by hand from its rules -/

/-- The state after one step that runs a word at 0x1004, from reset with some registers set. -/
def ran (w : Nat) (f : State → State) : State := match step (f (State.reset.withFetchWord 32 w)) with | .next t => t | _ => State.reset
/-- The state after an instruction issued for unit 2. -/
def did (i : Instr) (s : State) : State := match exec i s with | .next t => t | _ => State.reset
def lane (s : State) (k j : Nat) : Nat := ((val s.slots.head?).vec k j).toNat
def unit2 (s : State) : Group := unitOf s 2

-- R145: a wrap; R78: the pc of the next slot.
theorem test_iadd_wraps : (fun t => (lane t 5 31, (unit2 t).pc)) (ran 0x20142030 fun s => withV (withV s 4 fun _ => 0xFFFFFFFF) 3 fun _ => 2) = (1, 0x1008) := by decide +kernel
-- R145: signed saturation (F = 1) of 0x7FFFFFFF + 2.
theorem test_iadd_saturates : lane (ran 0x20142031 fun s => withV (withV s 4 fun _ => 0x7FFFFFFF) 3 fun _ => 2) 5 0 = 0x7FFFFFFF := by decide +kernel
-- R151, its example: pos 8, len 8 of 0xA500.
theorem test_bfx : [0x3C142030, 0x3C142031].map (fun w => lane (ran w fun s => withV (withV s 4 fun _ => 0xA500) 3 fun _ => 0x0808) 5 7) = [0xA5, 0xFFFFFFA5] := by
  decide +kernel
-- R159, its example: one rounding of (1 + 2^-12)^2 - 1.
theorem test_ffma_rounds_once : lane (ran 0x54140820 fun s => withV (withV (withV s 1 fun _ => 0x3F800800) 2 fun _ => 0x3F800800) 5 fun _ => 0xBF800000) 5 3 = 0x3A000400 := by
  decide +kernel
-- R164, its example: 300.0 to E4M3 with saturation.
theorem test_fcvt_e4m3 : lane (ran 0x5C1822C8 fun s => withV s 4 fun _ => 0x43960000) 6 0 = 0x79 := by decide +kernel
-- R166, its example: HADD2 v5, v1, v2 under RNE and with .ru.
theorem test_hadd2 : [0x60140820, 0x60140822].map (fun w => lane (ran w fun s => withV (withV s 1 fun _ => 0x3C007BFF) 2 fun _ => 0x3C003C00) 5 9) =
    [0x40007BFF, 0x40007C00] := by decide +kernel
-- R176, its example: SHFL.down v2, v1, v3.
theorem test_shfl_down : (fun t => (lane t 2 0, lane t 2 30, lane t 2 31)) (ran 0x74080832 fun s => withV (withV s 1 fun j => j) 3 fun _ => 1) = (1, 31, 31) := by decide +kernel
-- R177, its example: REDUX.fadd v2, v1 with 2^24 in strand 0, and in strand 31.
theorem test_redux_fadd : [0, 31].map (fun k => lane (ran 0x76080808 fun s => withV s 1 fun j => if j = k then 0x4B800000 else 0x3F800000) 2 5) = [0x4B800000, 0x4B800010] := by
  decide +kernel
-- R118, R119, their example: the residues of -1,000,000.
theorem test_residues : rtOf true (-1000000) = 0x070036B9 ∧ rtJoin 185 27 448 = -1000000 ∧ rtValue 0x070036B9 = -1000000 := by decide +kernel
-- R192, its example: 32 strands add 1 at a location that holds 10: 42 is left, strand i is to receive 10 + i.
theorem test_atomics_in_order : (fun t => ((unit2 t).wait, Memory.readLE t.dram 0x300000 4))
    (did (.aadd 5 10 12 0 0 0) (withV ((memOn vec 512 fun _ => 0x300000).dramWrite 0x300000 [10]) 12 fun _ => 1)) =
    (.inlineAccess [{ dest := { reg := some (.vec 5), pair := false, uni := false }, vals := (List.range 32).map fun i => (i, 10 + i) }] 0 true 12, 42) := by decide +kernel
-- R3, R187: the low byte lies at the lowest address.
theorem test_store_is_little_endian : Memory.readBytes (did (.stw 5 10 0 0 0) (withV (memOn vec 512 fun j => 0x300000 + 4 * j) 5 fun _ => 0x04030201)).dram 0x30007C 4 = [1, 2, 3, 4] := by
  decide +kernel
-- R184: a byte load extends with zeros; R180: a double word for a pair.
theorem test_loads : [Instr.ldb 5 10 0 0, .ldd 6 10 0 0].map (fun i =>
      match (unit2 (did i ((memOn vec 512 fun _ => 0x300000).dramWrite 0x300000 (bytesLE 8 0x80000001FFFFFFFE)))).wait with
      | .inlineAccess [r] 0 _ _ => (r.vals.lookup 31, r.dest.pair)
      | _ => (none, false)) = [(some 0xFE, false), (some 0x80000001FFFFFFFE, true)] := by decide +kernel
-- R131: a branch whose predicate holds on strand 0 alone, with barrier 1, splits the group; strand 0 goes on at the target 0x1004 + 4 * 2.
theorem test_branch_splits : (ran 0x06610002 fun s => unitsBy s fun g => { g with preds := [1] ++ g.preds.drop 1 }).units.length = 2 := by decide +kernel
-- R133: LOOP s3 counts down and goes on 2 words further; at 1 it falls through.
theorem test_loop : [2, 1].map (fun n => (fun t => ((val t.slots.head?).scal 3, (unit2 t).pc)) (did (.loop 3 2) (withS vec 3 n))) =
    [((1 : Word), 0x100C), (0, 0x1008)] := by decide +kernel
-- R136: an exit of every strand ends the unit.
theorem test_exit : (ran 0x10000000 id).units = [] := by decide +kernel
-- R90, R326: a reserved F is fault 0x01, and a region without a fault queue loses its domain.
theorem test_ill_formed_faults : ((ran 0x20142033 id).launch? 1).map (·.killed) = some (some 0x7F) := by decide +kernel
-- R139: PAUSE #5 sets the end of the pause 5 rc on.
theorem test_pause : (unit2 (did (.pause 5) vec)).pauseEnd = vec.now + 5 := by decide +kernel
-- R141: WINB.rel #1 from 0, SWINB #13 of 112 registers.
theorem test_windows : ((unit2 (did (.winb 1 1) vec)).vwb, (unit2 (did (.swinb 0 13) vec)).swb) = (8, 104) := by decide +kernel
-- R266, its example: the private window.
theorem test_private_window : privateConv { (default : Launch) with teamGroups := 4, chain := [{ (default : Node) with privateBase := 0x4000000000, privateSize := 1024 }] }
    { me with team := 1, grp := 2 } 5 4 0xFC00000000000018 = some 0x4000030328 ∧
    privateConv { (default : Launch) with teamGroups := 4, chain := [{ (default : Node) with privateBase := 0x4000000000, privateSize := 1024 }] }
    { me with team := 1, grp := 2 } 5 8 (0xFC00000000000000 + 1020) = none := by decide +kernel
-- R269, its example: swizzle codes 1, 2, 0 and 6 of a unit descriptor at 0x1000.
theorem test_swizzle : [1, 2, 0, 6].map (fun c => swizzle 0 0x1000 0x1000 c 0x1230) = [0x1220, 0x1210, 0x1230, 0x1230] := by decide +kernel
-- R223, R226: a join to a minimum, and a value that lies below it.
theorem test_lattice : [latJoin 2 5 7, latJoin 1 5 7, latJoin 11 (2 ^ 32) 1, latJoin 10 0x80000000 0] = [5, 7, 2 ^ 32 + 1, 0] := by decide +kernel
-- R245: a licence is granted to a group that asks for a free one.
theorem test_licence : ((did .mlicAcq (free [])).pair 0).holder = some 2 := by decide +kernel
-- R263: CYCLE reads the time.
theorem test_cycle : (fun t => (val t.slots.head?).scal 10) (did (.cycle 10 0) ({ uniform with now := 77 })) = (77 : Word) := by decide +kernel
-- Log 3: the events of an empty machine change nothing.
theorem test_event_without_occasion : exec (.roundCompletion 0) State.reset = .next State.reset ∧ exec (.stackWake 0) State.reset = .next State.reset := ⟨rfl, rfl⟩
theorem wit_DecodeAndEncodeAgree : encode (.iadd 5 4 3 0) = some 0x20142030 ∧ decodeWord 0x20142030 = .ok (.iadd 5 4 3 0) ∧
    (0xFE000000#32).extractLsb' 25 7 = 0x7F#7 := ⟨by decide +kernel, rfl, by decide⟩

end Sys2Proof.Tests
end

section
/-! PROOF. Values and bytes (R3, O59): a list of bytes determines its value and a value its bytes, and a memory in canonical form
(log 6) is determined by what it reads as. -/

namespace Sys2Proof.Machine

/-! ## The bytes of a value -/

@[simp] theorem length_bytesLE (n x : Nat) : (bytesLE n x).length = n := by
  induction n generalizing x with
  | zero => rfl
  | succ n ih => simp [bytesLE, ih]

/-- A value of n bytes comes back from its bytes, reduced to n bytes. -/
theorem natLE_bytesLE (n x : Nat) : natLE (bytesLE n x) = x % 2 ^ (8 * n) := by
  induction n generalizing x with
  | zero => simp [bytesLE, natLE, Nat.mod_one]
  | succ n ih =>
    have hpow : 2 ^ (8 * (n + 1)) = 256 * 2 ^ (8 * n) := by rw [Nat.mul_succ, Nat.pow_add]; omega
    rw [bytesLE, natLE, ih, BitVec.toNat_ofNat, hpow, Nat.mod_mul]

/-- Byte k of a value is its k-th digit to the base 256. -/
theorem getElem?_bytesLE {n k : Nat} (x : Nat) (hk : k < n) : (bytesLE n x)[k]? = some (BitVec.ofNat 8 (x / 2 ^ (8 * k))) := by
  induction n generalizing k x with
  | zero => omega
  | succ n ih =>
    cases k with
    | zero => simp [bytesLE]
    | succ k =>
      have hdiv : x / 256 / 2 ^ (8 * k) = x / 2 ^ (8 * (k + 1)) := by rw [Nat.div_div_eq_div_mul, Nat.mul_succ, Nat.add_comm, Nat.pow_add]
      rw [bytesLE, List.getElem?_cons_succ, ih _ (by omega), hdiv]

/-! ## Runs of bytes in memory -/

theorem Memory.getElem?_readBytes {n k : Nat} (m : List Host.Cell) (a : Nat) (hk : k < n) :
    (Memory.readBytes m a n)[k]? = some (Memory.read m (a + k)) := by
  induction n generalizing k a with
  | zero => omega
  | succ n ih =>
    cases k with
    | zero => simp [Memory.readBytes]
    | succ k => rw [Memory.readBytes, List.getElem?_cons_succ, ih _ (by omega), Nat.add_right_comm, Nat.add_assoc]

theorem Memory.readBytes_writeBytes_bytesLE {m : List Host.Cell} (a n x : Nat) (h : Memory.wf m = true) :
    Memory.readBytes (Memory.writeBytes m a (bytesLE n x)) a n = bytesLE n x := by
  simpa using Memory.readBytes_writeBytes (a := a) (bs := bytesLE n x) h

theorem Memory.readLE_writeBytes_bytesLE {m : List Host.Cell} (a n x : Nat) (h : Memory.wf m = true) :
    Memory.readLE (Memory.writeBytes m a (bytesLE n x)) a n = x % 2 ^ (8 * n) := by
  rw [Memory.readLE, Memory.readBytes_writeBytes_bytesLE a n x h, natLE_bytesLE]

/-- The byte k above the address of a value written is the value's byte k: the low byte lies lowest (R3). -/
theorem Memory.read_writeBytes_bytesLE {m : List Host.Cell} {n k : Nat} (a x : Nat) (h : Memory.wf m = true) (hk : k < n) :
    Memory.read (Memory.writeBytes m a (bytesLE n x)) (a + k) = BitVec.ofNat 8 (x / 2 ^ (8 * k)) := by
  have hbyte := Memory.getElem?_readBytes (Memory.writeBytes m a (bytesLE n x)) a hk
  rw [Memory.readBytes_writeBytes_bytesLE a n x h, getElem?_bytesLE x hk] at hbyte
  exact (Option.some.inj hbyte).symm

/-! ## The canonical form -/

@[simp] theorem Memory.read_cons_self (k : Nat) (b : Byte) (t : List Host.Cell) : Memory.read ((k, b) :: t) k = b := by
  simp [Memory.read]

theorem Memory.read_cons_of_ne {k a : Nat} (b : Byte) (t : List Host.Cell) (h : a ≠ k) : Memory.read ((k, b) :: t) a = Memory.read t a := by
  rw [Memory.read, if_neg h]

/-- In a canonical memory nothing is listed below the first cell. -/
theorem Memory.head_le_of_read_ne_blank {k a : Nat} {b : Byte} {t : List Host.Cell} (h : Memory.wf ((k, b) :: t) = true)
    (ha : Memory.read ((k, b) :: t) a ≠ Memory.blank) : k ≤ a := by
  obtain ⟨-, hkt, -⟩ := Memory.wf_cons.1 h
  refine Nat.le_of_not_lt fun hak => ha ?_
  have hab : Memory.above a ((k, b) :: t) := by
    intro c hc
    rcases List.mem_cons.1 hc with rfl | hc
    · exact hak
    · exact Nat.lt_trans hak (hkt c hc)
  exact Memory.read_above hab (Nat.le_refl a)

/-- A canonical memory that reads blank everywhere lists nothing. -/
theorem Memory.eq_nil_of_read_blank {m : List Host.Cell} (h : Memory.wf m = true) (hr : ∀ a, Memory.read m a = Memory.blank) : m = [] := by
  cases m with
  | nil => rfl
  | cons c t =>
    obtain ⟨k, b⟩ := c
    exact absurd (by simpa using hr k) (Memory.wf_cons.1 h).1

/-- Two canonical memories whose first cells lie at one address and that read alike have tails that read alike. -/
theorem Memory.read_tail_eq {k : Nat} {b d : Byte} {t u : List Host.Cell} (hu : Memory.above k u) (ht : Memory.above k t)
    (hr : ∀ a, Memory.read ((k, d) :: u) a = Memory.read ((k, b) :: t) a) (a : Nat) : Memory.read u a = Memory.read t a := by
  by_cases hak : a ≤ k
  · rw [Memory.read_above hu hak, Memory.read_above ht hak]
  · have hne : a ≠ k := by omega
    simpa [Memory.read_cons_of_ne _ _ hne] using hr a

/-- Canonical memories that read alike are equal. -/
theorem Memory.eq_of_read_eq {l m : List Host.Cell} (hl : Memory.wf l = true) (hm : Memory.wf m = true)
    (hr : ∀ a, Memory.read l a = Memory.read m a) : l = m := by
  induction l generalizing m with
  | nil => exact (Memory.eq_nil_of_read_blank hm fun a => (hr a).symm).symm
  | cons c u ih =>
    obtain ⟨j, d⟩ := c
    cases m with
    | nil => exact Memory.eq_nil_of_read_blank hl hr
    | cons e t =>
      obtain ⟨k, b⟩ := e
      obtain ⟨hd, hju, hwu⟩ := Memory.wf_cons.1 hl
      obtain ⟨hb, hkt, hwt⟩ := Memory.wf_cons.1 hm
      have hkj : k ≤ j := Memory.head_le_of_read_ne_blank hm (by simpa [← hr j] using hd)
      have hjk : j ≤ k := Memory.head_le_of_read_ne_blank hl (by simpa [hr k] using hb)
      obtain rfl := Nat.le_antisymm hjk hkj
      have hdb : d = b := by simpa using hr j
      rw [hdb, ih hwu hwt (Memory.read_tail_eq hju hkt hr)]

/-- Settles O59: the value and its bytes through the reads of what was written, and the canonical form through `eq_of_read_eq`. -/
theorem memoryHoldsBytes : Obligations.MemoryHoldsBytes := by
  intro m a n x hm
  refine ⟨Memory.readLE_writeBytes_bytesLE a n x hm, fun k hk => ?_, fun b hb => ?_, Memory.writeBytes_wf hm,
    fun l hl hr => Memory.eq_of_read_eq hl hm hr⟩
  · rw [Memory.read_writeBytes_bytesLE a x hm hk, BitVec.toNat_ofNat]
  · exact Memory.read_writeBytes_other hm (by simpa using hb)

end Sys2Proof.Machine
end

section
/-! PROOF. The module right after device reset (R25, R348, R350, O49) satisfies THE INVARIANT of Safety.lean. -/

namespace Sys2Proof.Machine

/-- Reset gives the 32 vertical and 8 ring links, the 2 I/O links and the 4 bonds of R21. -/
theorem State.length_reset_links : State.reset.links.length = 46 := by
  simp [State.reset]

/-- After reset every die is on (R352). -/
theorem State.eq_zero_of_mem_reset_dies {d : Nat} (hd : d ∈ State.reset.dies) : d = 0 :=
  List.eq_of_mem_replicate hd

/-- THE INVARIANT holds after reset: the memories are blank, every die is on, the window is 16 µs (R347), no command is
in progress. -/
theorem State.reset_inv : State.reset.Inv where
  dramForm := Memory.wf_nil
  spadForm := Memory.wf_nil
  level := Nat.zero_le 2
  slewLow := by simp [State.reset]
  slewHigh := by simp [State.reset]
  dieCount := List.length_replicate
  dieState := fun d hd => by simp [State.eq_zero_of_mem_reset_dies hd]
  replicaCount := List.length_replicate
  clockCount := List.length_replicate
  linkCount := State.length_reset_links
  windowLow := by simp [State.reset]
  windowHigh := by simp [State.reset]
  commands := fun _ hp => absurd hp List.not_mem_nil

/-- Settles O49: the invariant by `State.reset_inv`; the other clauses read fields of the reset state. -/
theorem invariantAtReset : Obligations.InvariantAtReset :=
  ⟨State.reset_inv, rfl, rfl, rfl, rfl, rfl, rfl, rfl, rfl, rfl, rfl⟩

end Sys2Proof.Machine
end

section
/-! PROOF. Images read back (R71 to R74, O60): records of one length laid one after another, the body of a register in each of its formats,
the registers that travel, the header. -/

namespace Sys2Proof.Machine

/-! ## Bytes laid one after another -/

theorem natLE_bytesLE_of_lt {n x : Nat} (h : x < 2 ^ (8 * n)) : natLE (bytesLE n x) = x := by
  rw [natLE_bytesLE, Nat.mod_eq_of_lt h]

@[simp] theorem ofNat_natLE_bytesLE (w : Word) : BitVec.ofNat 32 (natLE (bytesLE 4 w.toNat)) = w := by
  rw [natLE_bytesLE_of_lt w.isLt, BitVec.ofNat_toNat, BitVec.setWidth_eq]

@[simp] theorem length_padTo (l : List Byte) : (padTo 8 l).length = roundUp l.length 8 := by
  simp only [padTo, roundUp, List.length_append, List.length_replicate]
  omega

theorem take_padTo_append (l rest : List Byte) : (padTo 8 l ++ rest).take l.length = l := by
  rw [padTo, List.append_assoc, List.take_left]

theorem drop_padTo_append {n : Nat} {l : List Byte} (rest : List Byte) (h : n = roundUp l.length 8) : (padTo 8 l ++ rest).drop n = rest :=
  List.drop_left' (by rw [length_padTo, h])

theorem length_flatMap_const {α β : Type} {l : List α} {f : α → List β} {n : Nat} (h : ∀ x, (f x).length = n) :
    (l.flatMap f).length = n * l.length := by
  induction l with
  | nil => rfl
  | cons x l ih => rw [List.flatMap_cons, List.length_append, ih, h, List.length_cons, Nat.mul_succ, Nat.add_comm]

/-- Records of one length laid one after another: from the place of record k on stand its bytes. -/
theorem drop_flatMap_const {α β : Type} {l : List α} {f : α → List β} {n k : Nat} {x : α} (h : ∀ x, (f x).length = n) (hk : l[k]? = some x)
    (rest : List β) : ∃ tail, (l.flatMap f ++ rest).drop (n * k) = f x ++ tail := by
  induction l generalizing k with
  | nil => simp at hk
  | cons y l ih =>
    cases k with
    | zero =>
      obtain rfl : y = x := by simpa using hk
      exact ⟨l.flatMap f ++ rest, by simp⟩
    | succ k =>
      obtain ⟨tail, ht⟩ := ih (by simpa using hk)
      refine ⟨tail, ?_⟩
      rw [List.flatMap_cons, List.append_assoc, Nat.mul_succ, Nat.add_comm, ← List.drop_drop, List.drop_left' (h y), ht]

/-- Record k of records of one length laid one after another. -/
theorem take_drop_flatMap_const {α β : Type} {l : List α} {f : α → List β} {n k : Nat} {x : α} (h : ∀ x, (f x).length = n) (hk : l[k]? = some x)
    (rest : List β) : ((l.flatMap f ++ rest).drop (n * k)).take n = f x := by
  obtain ⟨tail, ht⟩ := drop_flatMap_const h hk rest
  rw [ht, List.take_left' (h x)]

/-- A list read by element and place is the list mapped, where each reading is that of the element. -/
theorem map_zipIdx_eq_map {α β : Type} {l : List α} {f : α × Nat → β} {g : α → β} (h : ∀ k x, l[k]? = some x → f (x, k) = g x) :
    l.zipIdx.map f = l.map g := by
  refine List.ext_getElem? fun k => ?_
  rw [List.getElem?_map, List.getElem?_zipIdx, List.getElem?_map, Nat.zero_add, Option.map_map]
  cases hk : l[k]? with
  | none => rfl
  | some x => exact congrArg some (h k x hk)

/-! ## The body of a register (R73) -/

/-- What an image keeps of a register: the strands of the mask; the others read zero. -/
def keptLanes (mask : Word) (lanes : List Word) : List Word := perStrand fun i => if inMask mask i then laneAt lanes i else 0

theorem laneAt_keptLanes (mask : Word) (lanes : List Word) {j : Nat} (hj : j < 32) :
    laneAt (keptLanes mask lanes) j = if inMask mask j = true then laneAt lanes j else 0 :=
  laneAt_perStrand _ hj

theorem perStrand_congr {f g : Nat → Word} (h : ∀ i, i < 32 → f i = g i) : perStrand f = perStrand g :=
  List.map_congr_left fun i hi => h i (List.mem_range.1 hi)

theorem mem_strands {mask : Word} {i : Nat} (hi : i < 32) (hm : inMask mask i = true) : i ∈ strands mask :=
  List.mem_filter.2 ⟨List.mem_range.2 hi, hm⟩

theorem wrap_lt (n : Nat) (z : Int) : wrap n z < 2 ^ n := by
  have hpos : (0 : Int) < 2 ^ n := Int.pow_pos (by decide)
  rw [wrap, Int.toNat_lt (Int.emod_nonneg z (Int.ne_of_gt hpos)), Int.natCast_pow]
  exact Int.emod_lt_of_pos z hpos

/-- A number of n bits comes back from its residue by sign extension. -/
theorem sext_wrap {n : Nat} (hn : 0 < n) {z : Int} (hlo : -(2 ^ (n - 1)) ≤ z) (hhi : z < 2 ^ (n - 1)) : sext (wrap n z) n = z := by
  obtain ⟨m, rfl⟩ : ∃ m, n = m + 1 := ⟨n - 1, by omega⟩
  have hpow : (2 : Int) ^ (m + 1) = 2 * 2 ^ m := by rw [Int.pow_succ, Int.mul_comm]
  rw [Nat.add_sub_cancel] at hlo hhi
  have hres : z % (2 ^ (m + 1) : Int) = if z < 0 then z + 2 * 2 ^ m else z := by
    rw [hpow]
    split
    · rw [← Int.add_emod_right]
      exact Int.emod_eq_of_lt (by omega) (by omega)
    · exact Int.emod_eq_of_lt (by omega) (by omega)
  have hcast : (((2 : Nat) ^ m : Nat) : Int) = 2 ^ m := Int.natCast_pow 2 m
  rw [sext, Nat.mod_eq_of_lt (wrap_lt (m + 1) z), Nat.add_sub_cancel, wrap, hres, hpow]
  split <;> split <;> omega

/-- A base and the delta from it give the value back. -/
theorem wordOf_add_laneDelta (base x : Word) : wordOf (base.toNat + laneDelta base x) = x := by
  rw [wordOf, laneDelta, BitVec.ofInt_add, BitVec.ofInt_natCast, BitVec.ofNat_toNat, BitVec.setWidth_eq, BitVec.ofInt_toInt,
    BitVec.add_comm, BitVec.sub_add_cancel]

theorem bodyBytes_raw (mask : Word) (lanes : List Word) :
    bodyBytes mask lanes 0x00 = (List.range 32).flatMap fun i => bytesLE 4 (if inMask mask i then (laneAt lanes i).toNat else 0) := rfl

theorem bodyBytes_base (mask : Word) (lanes : List Word) : bodyBytes mask lanes 0x20 = bytesLE 4 (laneAt lanes (lowest mask)).toNat := rfl

/-- A body of deltas of n bytes, in the format 0x0F + n. -/
theorem bodyBytes_delta (mask : Word) (lanes : List Word) {n : Nat} (hn : 1 ≤ n) (hn' : n ≤ 3) :
    bodyBytes mask lanes (0x0F + n) = bytesLE 4 (laneAt lanes (lowest mask)).toNat ++ (List.range 32).flatMap fun i =>
      bytesLE n (if inMask mask i then wrap (8 * n) (laneDelta (laneAt lanes (lowest mask)) (laneAt lanes i)) else 0) := by
  rw [bodyBytes, if_neg (by omega), if_neg (by omega), Nat.add_sub_cancel_left]

/-- The five formats of a register, each where its deltas fit (R73). -/
theorem bodyFormat_cases (mask : Word) (lanes : List Word) :
    bodyFormat mask lanes = 0x00 ∨
    (bodyFormat mask lanes = 0x20 ∧ ∀ i ∈ strands mask, laneDelta (laneAt lanes (lowest mask)) (laneAt lanes i) = 0) ∨
    ∃ n, 1 ≤ n ∧ n ≤ 3 ∧ bodyFormat mask lanes = 0x0F + n ∧ ∀ i ∈ strands mask,
      -(2 ^ (8 * n - 1)) ≤ laneDelta (laneAt lanes (lowest mask)) (laneAt lanes i) ∧
        laneDelta (laneAt lanes (lowest mask)) (laneAt lanes i) < 2 ^ (8 * n - 1) := by
  unfold bodyFormat
  dsimp only
  split
  · next h => exact .inr (.inl ⟨rfl, fun i hi => by simpa using List.all_eq_true.1 h _ (List.mem_map_of_mem hi)⟩)
  have fits {n : Nat} (h : ((strands mask).map fun i => laneDelta (laneAt lanes (lowest mask)) (laneAt lanes i)).all
      (fun d => decide (-(2 ^ (8 * n - 1)) ≤ d) && decide (d < 2 ^ (8 * n - 1))) = true) (i : Nat) (hi : i ∈ strands mask) :=
    (Bool.and_eq_true _ _ ▸ List.all_eq_true.1 h _ (List.mem_map_of_mem hi) : _ ∧ _).imp of_decide_eq_true of_decide_eq_true
  split
  · next h => exact .inr (.inr ⟨1, by omega, by omega, rfl, fits h⟩)
  split
  · next h => exact .inr (.inr ⟨2, by omega, by omega, rfl, fits h⟩)
  split
  · next h => exact .inr (.inr ⟨3, by omega, by omega, rfl, fits h⟩)
  · exact .inl rfl

/-- A body has the size of its format. -/
theorem bodySize_bodyFormat (mask : Word) (lanes : List Word) :
    bodySize (bodyFormat mask lanes) = some (bodyBytes mask lanes (bodyFormat mask lanes)).length := by
  obtain h | ⟨h, -⟩ | ⟨n, hn, hn', h, -⟩ := bodyFormat_cases mask lanes
  · rw [h, bodyBytes_raw, length_flatMap_const fun _ => length_bytesLE _ _]
    rfl
  · rw [h, bodyBytes_base, length_bytesLE]
    rfl
  · rw [h, bodyBytes_delta mask lanes hn hn', List.length_append, length_bytesLE, length_flatMap_const fun _ => length_bytesLE _ _, List.length_range]
    obtain rfl | rfl | rfl : n = 1 ∨ n = 2 ∨ n = 3 := by omega
    all_goals rfl

/-- A raw body gives the register back, whatever stands after it. -/
theorem bodyLanes_raw (mask : Word) (lanes : List Word) (rest : List Byte) :
    bodyLanes mask 0x00 (bodyBytes mask lanes 0x00 ++ rest) = keptLanes mask lanes := by
  refine perStrand_congr fun i hi => ?_
  cases hm : inMask mask i with
  | false => rfl
  | true =>
    rw [bodyBytes_raw, take_drop_flatMap_const (fun _ => length_bytesLE _ _) (List.getElem?_range hi)]
    simp [hm]

/-- A body of one value gives the register back when no strand of the mask differs from the base. -/
theorem bodyLanes_base {mask : Word} {lanes : List Word}
    (h : ∀ i ∈ strands mask, laneDelta (laneAt lanes (lowest mask)) (laneAt lanes i) = 0) :
    bodyLanes mask 0x20 (bodyBytes mask lanes 0x20) = keptLanes mask lanes := by
  refine perStrand_congr fun i hi => ?_
  cases hm : inMask mask i with
  | false => rfl
  | true =>
    have hb := wordOf_add_laneDelta (laneAt lanes (lowest mask)) (laneAt lanes i)
    rw [h i (mem_strands hi hm), Int.add_zero, wordOf, BitVec.ofInt_natCast, BitVec.ofNat_toNat, BitVec.setWidth_eq] at hb
    rw [bodyBytes_base, List.take_of_length_le (Nat.le_of_eq (length_bytesLE _ _))]
    simp [hb]

/-- A body of deltas gives the register back when the deltas of the mask's strands fit. -/
theorem bodyLanes_delta {mask : Word} {lanes : List Word} {n : Nat} (hn : 1 ≤ n) (hn' : n ≤ 3)
    (h : ∀ i ∈ strands mask, -(2 ^ (8 * n - 1)) ≤ laneDelta (laneAt lanes (lowest mask)) (laneAt lanes i) ∧
      laneDelta (laneAt lanes (lowest mask)) (laneAt lanes i) < 2 ^ (8 * n - 1)) :
    bodyLanes mask (0x0F + n) (bodyBytes mask lanes (0x0F + n)) = keptLanes mask lanes := by
  refine perStrand_congr fun i hi => ?_
  cases hm : inMask mask i with
  | false => rfl
  | true =>
    obtain ⟨hlo, hhi⟩ := h i (mem_strands hi hm)
    have hdelta := take_drop_flatMap_const (l := List.range 32) (rest := []) (fun i => length_bytesLE n
      (if inMask mask i then wrap (8 * n) (laneDelta (laneAt lanes (lowest mask)) (laneAt lanes i)) else 0)) (List.getElem?_range hi)
    rw [List.append_nil, if_pos hm] at hdelta
    rw [if_neg (by simp), if_neg (by omega), if_neg (by omega), Nat.add_sub_cancel_left, bodyBytes_delta mask lanes hn hn',
      List.take_left' (length_bytesLE _ _)]
    dsimp only
    rw [← List.drop_drop, List.drop_left' (length_bytesLE _ _), hdelta, natLE_bytesLE_of_lt (wrap_lt _ _),
      natLE_bytesLE_of_lt (BitVec.isLt _), sext_wrap (by omega) hlo hhi, wordOf_add_laneDelta, if_pos rfl]

/-- A register comes back from its body, in whichever format it was written (R73). -/
theorem bodyLanes_bodyBytes (mask : Word) (lanes : List Word) :
    bodyLanes mask (bodyFormat mask lanes) (bodyBytes mask lanes (bodyFormat mask lanes)) = keptLanes mask lanes := by
  obtain h | ⟨h, hd⟩ | ⟨n, hn, hn', h, hd⟩ := bodyFormat_cases mask lanes
  · rw [h]
    simpa using bodyLanes_raw mask lanes []
  · rw [h, bodyLanes_base hd]
  · rw [h, bodyLanes_delta hn hn' hd]

theorem bodyFormat_lt (mask : Word) (lanes : List Word) : bodyFormat mask lanes < 2 ^ 8 := by
  obtain h | ⟨h, -⟩ | ⟨n, -, hn', h, -⟩ := bodyFormat_cases mask lanes <;> omega

/-- Bodies written one after another come back in order (R72, R73). -/
theorem readBodies_flatMap (mask : Word) (v : List (Nat × List Word)) (rest : List Byte) :
    readBodies mask ((v.map (·.1)).zip (v.map fun r => bodyFormat mask r.2))
        ((v.flatMap fun r => padTo 8 (bodyBytes mask r.2 (bodyFormat mask r.2))) ++ rest) =
      some (v.map fun r => (r.1, keptLanes mask r.2), rest) := by
  induction v with
  | nil => rfl
  | cons r v ih =>
    simp only [List.map_cons, List.zip_cons_cons, readBodies, bodySize_bodyFormat, List.flatMap_cons, List.append_assoc]
    rw [drop_padTo_append _ rfl, ih, take_padTo_append]
    simp only [bodyLanes_bodyBytes]

/-! ## The registers that travel (R72, R74) -/

/-- What comes back of the registers that a unit carried. -/
def Carried.kept (mask : Word) (c : Carried) : Carried :=
  { c with v := c.v.map fun r => (r.1, keptLanes mask r.2), destV := c.destV.map fun r => (r.1, keptLanes mask r.2) }

/-- The registers of an ingot, after its header and trap block. -/
def carriedBytes (mask : Word) (c : Carried) : List Byte :=
  padTo 8 (c.v.map fun r => BitVec.ofNat 8 (bodyFormat mask r.2)) ++
    ((c.v.flatMap fun r => padTo 8 (bodyBytes mask r.2 (bodyFormat mask r.2))) ++
      (padTo 8 (c.s.flatMap fun r => bytesLE 4 r.2.toNat) ++
        if c.destS.isEmpty then c.destV.flatMap fun r => bodyBytes mask r.2 0x00 else padTo 8 (c.destS.flatMap fun r => bytesLE 4 r.2.toNat)))

/-- Scalars written one after another come back in order. -/
theorem map_zipIdx_scalars (s : List (Nat × Word)) (rest : List Byte) :
    (s.zipIdx.map fun r => (r.1.1, BitVec.ofNat 32 (natLE ((((s.flatMap fun r => bytesLE 4 r.2.toNat) ++ rest).drop (4 * r.2)).take 4)))) = s := by
  refine (map_zipIdx_eq_map (g := id) fun k x hk => ?_).trans (List.map_id s)
  rw [take_drop_flatMap_const (fun _ => length_bytesLE _ _) hk, ofNat_natLE_bytesLE]
  rfl

/-- Vector registers written raw one after another come back in order. -/
theorem map_zipIdx_raw (mask : Word) (v : List (Nat × List Word)) :
    (v.zipIdx.map fun r => (r.1.1, bodyLanes mask 0x00 ((v.flatMap fun r => bodyBytes mask r.2 0x00).drop (128 * r.2)))) =
      v.map fun r => (r.1, keptLanes mask r.2) := by
  refine map_zipIdx_eq_map fun k x hk => ?_
  have hlen (r : Nat × List Word) : (bodyBytes mask r.2 0x00).length = 128 := by
    rw [bodyBytes_raw, length_flatMap_const fun _ => length_bytesLE _ _, List.length_range]
  obtain ⟨tail, ht⟩ := drop_flatMap_const hlen hk []
  rw [List.append_nil] at ht
  rw [ht, bodyLanes_raw]

/-- The registers of an ingot come back (R72 to R74); of the two kinds of destinations an instruction has one. -/
theorem readCarried_carriedBytes (g : Group) {c : Carried} (h : c.destV = [] ∨ c.destS = []) :
    readCarried g c (carriedBytes g.mask c) = some (c.kept g.mask) := by
  have hfmt : ((carriedBytes g.mask c).take c.v.length).map (·.toNat) = c.v.map fun r => bodyFormat g.mask r.2 := by
    have htake := take_padTo_append (c.v.map fun r => BitVec.ofNat 8 (bodyFormat g.mask r.2))
    simp only [List.length_map] at htake
    rw [carriedBytes, htake, List.map_map]
    exact List.map_congr_left fun r _ => by
      rw [Function.comp_apply, BitVec.toNat_ofNat, Nat.mod_eq_of_lt (bodyFormat_lt _ _)]
  have hbody : (carriedBytes g.mask c).drop (roundUp c.v.length 8) = _ := drop_padTo_append _ (by rw [List.length_map])
  have hlen : roundUp (4 * c.s.length) 8 = roundUp (c.s.flatMap fun r => bytesLE 4 r.2.toNat).length 8 := by
    rw [length_flatMap_const fun _ => length_bytesLE _ _]
  simp only [readCarried, hfmt, hbody, readBodies_flatMap, drop_padTo_append _ hlen]
  rw [padTo, List.append_assoc, map_zipIdx_scalars]
  obtain hV | hS := h
  · cases hS : c.destS with
    | nil => simp [Carried.kept, hV, hS]
    | cons r l =>
      rw [if_neg (by simp), padTo, map_zipIdx_scalars, hV, Carried.kept, hV, hS]
      rfl
  · rw [hS, if_pos List.isEmpty_nil, map_zipIdx_raw, Carried.kept, hS]
    rfl

/-! ## The header and the trap block (R71, R72) -/

@[simp] theorem length_headBytes (g : Group) (h : HeadInfo) (c : Carried) : (headBytes g h c).length = 64 := by
  rw [headBytes, length_flatMap_const fun _ => length_bytesLE _ _]
  rfl

@[simp] theorem length_trapBlock (g : Group) : (trapBlock g).length = 32 := by
  simp [trapBlock]

theorem ingotBytes_eq (g : Group) (h : HeadInfo) (c : Carried) :
    ingotBytes g h c = headBytes g h c ++ ((if g.handler then trapBlock g else []) ++ carriedBytes g.mask c) := by
  simp only [ingotBytes, carriedBytes, bodyBytes_raw, List.append_assoc]

/-- PC_W of a header read back (R71). -/
theorem bits_headBytes (g : Group) (h : HeadInfo) (c : Carried) (rest : List Byte) :
    bits (natLE ((headBytes g h c ++ rest).take 8)) 0 54 = g.pc / 4 % 2 ^ 54 := by
  have hfirst : (headBytes g h c ++ rest).take 8 = bytesLE 8 (pack [(54, g.pc / 4), (10, g.anchor)]) :=
    take_drop_flatMap_const (k := 0) (fun _ => length_bytesLE _ _) rfl rest
  rw [hfirst, natLE_bytesLE]
  simp only [bits, pack]
  omega

/-- The unit and its registers come back from its ingot. -/
theorem readIngot_ingotBytes {g : Group} (h : HeadInfo) {c : Carried} (halign : g.pc % 4 = 0) (hrange : g.pc < 2 ^ 56)
    (hdest : c.destV = [] ∨ c.destS = []) : readIngot g h c (ingotBytes g h c) = some { g with carried := some (c.kept g.mask) } := by
  have hpc : 4 * (g.pc / 4 % 2 ^ 54) = g.pc := by omega
  have hhead (rest : List Byte) : (headBytes g h c ++ rest).take 64 = headBytes g h c := List.take_left' (length_headBytes g h c)
  have hrest (rest : List Byte) : (headBytes g h c ++ rest).drop 64 = rest := List.drop_left' (length_headBytes g h c)
  have htrap (rest : List Byte) : (trapBlock g ++ rest).take 32 = trapBlock g := List.take_left' (length_trapBlock g)
  have hbody (rest : List Byte) : (headBytes g h c ++ (trapBlock g ++ rest)).drop 96 = rest := by
    rw [show 96 = 64 + 32 from rfl, ← List.drop_drop, hrest, List.drop_left' (length_trapBlock g)]
  simp only [readIngot, ingotBytes_eq, bits_headBytes, hpc, hhead, hrest]
  cases hh : g.handler with
  | false => simp [readCarried_carriedBytes g hdest]
  | true => simp [readCarried_carriedBytes g hdest, htrap, hbody]

theorem getElem?_map_keptLanes {mask : Word} {l : List (Nat × List Word)} {k : Nat} {r q : Nat × List Word} (hr : l[k]? = some r)
    (hq : (l.map fun r => (r.1, keptLanes mask r.2))[k]? = some q) {j : Nat} (hj : j < 32) :
    laneAt q.2 j = if inMask mask j = true then laneAt r.2 j else 0 := by
  rw [List.getElem?_map, hr, Option.map_some, Option.some.injEq] at hq
  rw [← hq, laneAt_keptLanes _ _ hj]

/-- Settles O60, by `readIngot_ingotBytes`: the registers that come back are `Carried.kept`. -/
theorem imagesReadBack : Obligations.ImagesReadBack := by
  intro g h c halign hrange hdest
  refine ⟨_, c.kept g.mask, readIngot_ingotBytes h halign hrange hdest, rfl, rfl, rfl, rfl, ?_, ?_,
    fun k r q hr hq j hj => getElem?_map_keptLanes hr hq hj, fun k r q hr hq j hj => getElem?_map_keptLanes hr hq hj⟩
  · simp [Carried.kept]
  · simp [Carried.kept]

end Sys2Proof.Machine
end

section
/-! PROOF. The arithmetic tables (R145, R150): each row is an operation of two sources whose result is the value that its table gives. -/

namespace Sys2Proof.Machine
open Claims

/-! ## Saturation, high products, shifts and rotations (R145, R150) -/

theorem wordOf_satS (z : Int) : wordOf (satS z) = clampS z := by
  have : satS z = max (-2147483648) (min 2147483647 z) := by
    simp only [satS, sat]
    split
    · omega
    · split <;> omega
  rw [wordOf, clampS, this]

theorem wordOf_satU (z : Int) : wordOf (satU z) = clampU z := by
  have : satU z = max 0 (min 4294967295 z) := by
    simp only [satU, sat]
    split
    · omega
    · split <;> omega
  rw [wordOf, clampU, this]

/-- The upper word of a doubleword is its quotient by 2^32, signed as well as unsigned. -/
theorem extractLsb'_ofInt_high (z : Int) : (BitVec.ofInt 64 z).extractLsb' 32 32 = BitVec.ofInt 32 (z / 2 ^ 32) := by
  refine BitVec.eq_of_toNat_eq ?_
  simp only [BitVec.extractLsb'_toNat, BitVec.toNat_ofInt, Nat.shiftRight_eq_div_pow]
  omega

theorem extractLsb'_mul_signExtend (x y : Word) :
    (x.signExtend 64 * y.signExtend 64).extractLsb' 32 32 = BitVec.ofInt 32 (x.toInt * y.toInt / 2 ^ 32) := by
  rw [BitVec.signExtend, BitVec.signExtend, ← BitVec.ofInt_mul, extractLsb'_ofInt_high]

theorem extractLsb'_mul_setWidth (x y : Word) :
    (x.setWidth 64 * y.setWidth 64).extractLsb' 32 32 = BitVec.ofNat 32 (x.toNat * y.toNat / 2 ^ 32) := by
  have hx : x.setWidth 64 = BitVec.ofInt 64 (x.toNat : Int) := by rw [BitVec.ofInt_natCast, BitVec.ofNat_toNat]
  have hy : y.setWidth 64 = BitVec.ofInt 64 (y.toNat : Int) := by rw [BitVec.ofInt_natCast, BitVec.ofNat_toNat]
  rw [hx, hy, ← BitVec.ofInt_mul, extractLsb'_ofInt_high, ← BitVec.ofInt_natCast, Int.natCast_ediv, Int.natCast_mul,
    Int.natCast_pow]
  rfl

/-- A word is the mask of the strands at which it has a bit. -/
theorem eq_maskOf {w : Word} {p : Nat → Bool} (h : ∀ j, j < 32 → w.getLsbD j = p j) : w = maskOf p :=
  BitVec.eq_of_getLsbD_eq fun j hj => (h j hj).trans (inMask_maskOf p hj).symm

theorem rotateLeft_eq_rotl (x : Word) (n : Nat) : x.rotateLeft (n % 32) = rotl x n := by
  refine eq_maskOf fun j hj => ?_
  rw [BitVec.getLsbD_rotateLeft, Nat.mod_mod]
  by_cases h : j < n % 32
  · rw [decide_eq_true h, cond_true, show 32 - n % 32 + j = (j + 32 - n % 32) % 32 by omega]
  · rw [decide_eq_false h, cond_false, decide_eq_true hj, Bool.true_and, show j - n % 32 = (j + 32 - n % 32) % 32 by omega]

theorem rotateRight_eq_shifted (x : Word) (n : Nat) : x.rotateRight (n % 32) = shifted 3 n x := by
  refine eq_maskOf fun j hj => ?_
  rw [BitVec.getLsbD_rotateRight, Nat.mod_mod]
  by_cases h : j < 32 - n % 32
  · rw [decide_eq_true h, cond_true, show n % 32 + j = (j + n) % 32 by omega]
  · rw [decide_eq_false h, cond_false, decide_eq_true hj, Bool.true_and, show j - (32 - n % 32) = (j + n) % 32 by omega]

theorem shlOf_zero (x y : Word) : shlOf 0 x y = shifted 0 y.toNat x := by
  rw [shlOf, if_neg (by decide), shifted]
  refine ite_congr rfl (fun _ => rfl) fun _ => BitVec.eq_of_toNat_eq ?_
  rw [BitVec.toNat_shiftLeft, Nat.shiftLeft_eq, BitVec.toNat_ofNat]

theorem shlOf_one (x y : Word) : shlOf 1 x y = shifted 4 y.toNat x := rotateLeft_eq_rotl x y.toNat

theorem shrOf_zero (x y : Word) : shrOf 0 x y = shifted 1 y.toNat x := by
  rw [shrOf, shifted]
  · refine ite_congr rfl (fun _ => rfl) fun _ => BitVec.eq_of_toNat_eq ?_
    rw [BitVec.toNat_ushiftRight, Nat.shiftRight_eq_div_pow, BitVec.toNat_ofNat,
      Nat.mod_eq_of_lt (Nat.lt_of_le_of_lt (Nat.div_le_self _ _) x.isLt)]
  all_goals decide

theorem shrOf_one (x y : Word) : shrOf 1 x y = shifted 2 y.toNat x := by
  rw [shrOf, shifted]
  refine ite_congr rfl (fun _ => ?_) fun _ => ?_
  · rw [BitVec.msb_eq_toInt]
    by_cases h : x.toInt < 0
    · rw [if_pos (decide_eq_true h), if_pos h]
      rfl
    · rw [if_neg (by simpa using h), if_neg h]
  · rw [BitVec.sshiftRight, Int.shiftRight_eq_div_pow]
    push_cast
    rfl

theorem shrOf_two (x y : Word) : shrOf 2 x y = shifted 3 y.toNat x := rotateRight_eq_shifted x y.toNat

/-! ## Each arithmetic row gives the value of its table -/

theorem iaddOf_zero (x y : Word) : iaddOf 0 x y = BitVec.ofNat 32 (x.toNat + y.toNat) := by
  rw [BitVec.ofNat_add, BitVec.ofNat_toNat, BitVec.ofNat_toNat, BitVec.setWidth_eq, BitVec.setWidth_eq]
  rfl

theorem isubOf_zero (x y : Word) : isubOf 0 x y = BitVec.ofInt 32 ((x.toNat : Int) - y.toNat) := by
  refine BitVec.eq_of_toNat_eq ?_
  rw [BitVec.toNat_ofInt, show isubOf 0 x y = x - y from rfl, BitVec.toNat_sub]
  omega

theorem imulOf_zero (x y : Word) : imulOf 0 x y = BitVec.ofNat 32 (x.toNat * y.toNat) := by
  rw [BitVec.ofNat_mul, BitVec.ofNat_toNat, BitVec.ofNat_toNat, BitVec.setWidth_eq, BitVec.setWidth_eq]
  rfl

theorem imnxOf_zero (x y : Word) : imnxOf 0 x y = BitVec.ofInt 32 (min x.toInt y.toInt) := by
  rw [imnxOf, sgn, sgn]
  by_cases h : y.toInt < x.toInt
  · rw [if_pos h, Int.min_eq_right (Int.le_of_lt h), BitVec.ofInt_toInt]
  · rw [if_neg h, Int.min_eq_left (Int.not_lt.1 h), BitVec.ofInt_toInt]

theorem imnxOf_one (x y : Word) : imnxOf 1 x y = BitVec.ofInt 32 (max x.toInt y.toInt) := by
  rw [imnxOf, sgn, sgn]
  by_cases h : x.toInt < y.toInt
  · rw [if_pos h, Int.max_eq_right (Int.le_of_lt h), BitVec.ofInt_toInt]
  · rw [if_neg h, Int.max_eq_left (Int.not_lt.1 h), BitVec.ofInt_toInt]

theorem imnxOf_two (x y : Word) : imnxOf 2 x y = BitVec.ofNat 32 (min x.toNat y.toNat) := by
  rw [imnxOf]
  by_cases h : y.toNat < x.toNat
  · rw [if_pos h, Nat.min_eq_right (Nat.le_of_lt h), BitVec.ofNat_toNat, BitVec.setWidth_eq]
  · rw [if_neg h, Nat.min_eq_left (Nat.not_lt.1 h), BitVec.ofNat_toNat, BitVec.setWidth_eq]

theorem imnxOf_three (x y : Word) : imnxOf 3 x y = BitVec.ofNat 32 (max x.toNat y.toNat) := by
  rw [imnxOf]
  · by_cases h : x.toNat < y.toNat
    · rw [if_pos h, Nat.max_eq_right (Nat.le_of_lt h), BitVec.ofNat_toNat, BitVec.setWidth_eq]
    · rw [if_neg h, Nat.max_eq_left (Nat.not_lt.1 h), BitVec.ofNat_toNat, BitVec.setWidth_eq]
  all_goals decide

/-! ## Operations of two sources -/

/-- Instruction i is an operation of two sources with the result f, of a latency class that keeps its chain (R76, R82, R84). -/
structure TwoSource (i : Instr) (d a b : BitVec 7) (f : Word → Word → Word) : Prop where
  exec : exec i = regOp2 i d a b f
  holdA : i.holdA = some a.toNat
  inChain : i.inChain = true
  opnds : ∀ u, i.opnds u = [.dst d.toNat 1, .src a.toNat 1, .src b.toNat 1]

theorem twoSource_iadd (d a b : BitVec 7) (v : BitVec 4) : TwoSource (.iadd d a b v) d a b (iaddOf v.toNat) := ⟨rfl, rfl, rfl, fun _ => rfl⟩
theorem twoSource_isub (d a b : BitVec 7) (v : BitVec 4) : TwoSource (.isub d a b v) d a b (isubOf v.toNat) := ⟨rfl, rfl, rfl, fun _ => rfl⟩
theorem twoSource_imul (d a b : BitVec 7) (v : BitVec 4) : TwoSource (.imul d a b v) d a b (imulOf v.toNat) := ⟨rfl, rfl, rfl, fun _ => rfl⟩
theorem twoSource_imnx (d a b : BitVec 7) (v : BitVec 4) : TwoSource (.imnx d a b v) d a b (imnxOf v.toNat) := ⟨rfl, rfl, rfl, fun _ => rfl⟩
theorem twoSource_land (d a b : BitVec 7) : TwoSource (.land d a b) d a b fun x y => x &&& y := ⟨rfl, rfl, rfl, fun _ => rfl⟩
theorem twoSource_lor (d a b : BitVec 7) : TwoSource (.lor d a b) d a b fun x y => x ||| y := ⟨rfl, rfl, rfl, fun _ => rfl⟩
theorem twoSource_lxor (d a b : BitVec 7) : TwoSource (.lxor d a b) d a b fun x y => x ^^^ y := ⟨rfl, rfl, rfl, fun _ => rfl⟩
theorem twoSource_andn (d a b : BitVec 7) : TwoSource (.andn d a b) d a b fun x y => x &&& ~~~y := ⟨rfl, rfl, rfl, fun _ => rfl⟩
theorem twoSource_shl (d a b : BitVec 7) (v : BitVec 4) : TwoSource (.shl d a b v) d a b (shlOf v.toNat) := ⟨rfl, rfl, rfl, fun _ => rfl⟩
theorem twoSource_shr (d a b : BitVec 7) (v : BitVec 4) : TwoSource (.shr d a b v) d a b (shrOf v.toNat) := ⟨rfl, rfl, rfl, fun _ => rfl⟩

theorem TwoSource.congr {i : Instr} {d a b : BitVec 7} {f g : Word → Word → Word} (h : TwoSource i d a b g) (hf : ∀ x y, g x y = f x y) :
    TwoSource i d a b f :=
  (funext fun x => funext (hf x) : g = f) ▸ h

/-- THE ARITHMETIC TABLES (R145, R150): a row of the tables is an operation of two sources with the function of its table. -/
theorem twoSource_of_arith {i : Instr} {d a b : BitVec 7} {f : Word → Word → Word} (h : arith i = some (d, a, b, f)) : TwoSource i d a b f := by
  unfold arith at h
  split at h
  case h_1 d a b v =>
    split at h <;> cases h <;> refine (twoSource_iadd d a b v).congr fun x y => ?_
    · next hv => rw [hv, iaddOf_zero]
    · next hv => rw [hv, iaddOf, wordOf_satS, sgn, sgn]
    · next hv => rw [hv, iaddOf, wordOf_satU]
  case h_2 d a b v =>
    split at h <;> cases h <;> refine (twoSource_isub d a b v).congr fun x y => ?_
    · next hv => rw [hv, isubOf_zero]
    · next hv => rw [hv, isubOf, wordOf_satS, sgn, sgn]
    · next hv => rw [hv, isubOf, wordOf_satU]
  case h_3 d a b v =>
    split at h <;> cases h <;> refine (twoSource_imul d a b v).congr fun x y => ?_
    · next hv => rw [hv, imulOf_zero]
    · next hv => rw [hv, imulOf, wordOf, sgn, sgn, extractLsb'_mul_signExtend]
    · next hv => rw [hv, imulOf, extractLsb'_mul_setWidth]
  case h_4 d a b v =>
    split at h <;> cases h <;> refine (twoSource_imnx d a b v).congr fun x y => ?_
    · next hv => rw [hv, imnxOf_zero]
    · next hv => rw [hv, imnxOf_one]
    · next hv => rw [hv, imnxOf_two]
    · next hv => rw [hv, imnxOf_three]
  case h_5 d a b => cases h; exact (twoSource_land d a b).congr fun x y => eq_maskOf fun j _ => BitVec.getLsbD_and
  case h_6 d a b => cases h; exact (twoSource_lor d a b).congr fun x y => eq_maskOf fun j _ => BitVec.getLsbD_or
  case h_7 d a b => cases h; exact (twoSource_lxor d a b).congr fun x y => eq_maskOf fun j _ => BitVec.getLsbD_xor
  case h_8 d a b =>
    cases h
    refine (twoSource_andn d a b).congr fun x y => eq_maskOf fun j hj => ?_
    rw [BitVec.getLsbD_and, BitVec.getLsbD_not, decide_eq_true hj, Bool.true_and]
  case h_9 d a b v =>
    split at h <;> cases h <;> refine (twoSource_shl d a b v).congr fun x y => ?_
    · next hv => rw [hv, shlOf_zero]
    · next hv => rw [hv, shlOf_one]
  case h_10 d a b v =>
    split at h <;> cases h <;> refine (twoSource_shr d a b v).congr fun x y => ?_
    · next hv => rw [hv, shrOf_zero]
    · next hv => rw [hv, shrOf_one]
    · next hv => rw [hv, shrOf_two]
  case h_11 => cases h

/-- An instruction of the arithmetic tables that issues has the result of its table (R145, R150). -/
theorem exec_of_arith {s : State} {c : Ctx} {i : Instr} {d a b : BitVec 7} {f : Word → Word → Word} (h : arith i = some (d, a, b, f))
    (hi : Issues s i c) : exec i s = .next (c.regOp i d.toNat fun k => f (c.src a.toNat k) (c.src b.toNat k)) := by
  rw [(twoSource_of_arith h).exec]
  exact issue_clear hi

end Sys2Proof.Machine
end

section
/-! PROOF. Stay chains (R60, R61, R82, R83, O58): what a read of a chain sees, and the unit that an issue leaves, its chain open or over. -/

namespace Sys2Proof.Machine
open Claims

/-! ## Reads of a chain (R82, R83) -/

theorem visible_append (p q : List PendWrite) (r : Reg) (j : Nat) (old : Word) : visible (p ++ q) r j old = visible q r j (visible p r j old) :=
  List.foldl_append

theorem seen_iff (r : Reg) (j : Nat) (e : PendWrite) : seen r j e ↔ (decide (e.reg = r) && inMask e.mask j && decide (e.cls ≤ e.k)) = true := by
  simp [seen, and_assoc]

/-- One pending write: a read sees it, or the earlier value. -/
theorem visible_singleton (e : PendWrite) (r : Reg) (j : Nat) (old : Word) :
    visible [e] r j old = if decide (e.reg = r) && inMask e.mask j && decide (e.cls ≤ e.k) then laneAt e.vals j else old := rfl

theorem visible_of_seen {e : PendWrite} {r : Reg} {j : Nat} (h : seen r j e) (old : Word) : visible [e] r j old = laneAt e.vals j := by
  rw [visible_singleton, if_pos ((seen_iff r j e).1 h)]

theorem visible_of_not_seen {p : List PendWrite} {r : Reg} {j : Nat} (h : ∀ x ∈ p, ¬seen r j x) (old : Word) : visible p r j old = old := by
  induction p generalizing old with
  | nil => rfl
  | cons e p ih =>
    have he : ¬seen r j e := h e List.mem_cons_self
    rw [← List.singleton_append, visible_append, visible_singleton, if_neg (mt (seen_iff r j e).2 he),
      ih fun x hx => h x (List.mem_cons_of_mem e hx)]

/-- A read sees the last of the writes that it may see (R83). -/
theorem visible_last {p q : List PendWrite} {e : PendWrite} {r : Reg} {j : Nat} (he : seen r j e) (hq : ∀ x ∈ q, ¬seen r j x) (old : Word) :
    visible (p ++ [e] ++ q) r j old = laneAt e.vals j := by
  rw [visible_append, visible_append, visible_of_not_seen hq, visible_of_seen he]

/-! ## The unit after an issue: in its chain, or with its chain over (R60, R61) -/

/-- The issuing unit after its issue, its chain still open. -/
def Ctx.afterIssue (c : Ctx) (i : Instr) (res : Option (List Word)) (ws : List PendWrite) (pc : Nat) (jump : Bool) : Group :=
  issued c.g c.s.cur (i.holdA.map fun f => perStrand fun k => c.held i f k) (i.holdB.map fun f => perStrand fun k => c.held i f k) res ws pc jump

theorem retire_eq (c : Ctx) (i : Instr) (res : Option (List Word)) (ws : List PendWrite) (pc : Nat) (jump : Bool) :
    c.retire i res ws pc jump = if chainGoesOn c.s.cur i c.g then (writeTwin c.s c ws).putUnit (c.afterIssue i res ws pc jump)
      else endChain (writeTwin c.s c ws) (c.afterIssue i res ws pc jump) c.sl := rfl

theorem unit?_writeTwin (s : State) (c : Ctx) (ws : List PendWrite) (u : Nat) : (writeTwin s c ws).unit? u = s.unit? u := by
  rw [writeTwin_rest]
  rfl

/-- The unit that an issue leaves in the state. -/
theorem unit?_retire {c : Ctx} (h : Seen c) (i : Instr) (res : Option (List Word)) (ws : List PendWrite) (pc : Nat) (jump : Bool) :
    (c.retire i res ws pc jump).unit? c.g.uid = some (if chainGoesOn c.s.cur i c.g then c.afterIssue i res ws pc jump
      else (commitChain (c.afterIssue i res ws pc jump) c.sl).1) := by
  obtain ⟨⟨g, hg⟩, -⟩ := h
  rw [← unit?_writeTwin c.s c ws] at hg
  rw [retire_eq]
  split
  · exact unit?_putUnit (g' := c.afterIssue i res ws pc jump) hg
  · have hu : (commitChain (c.afterIssue i res ws pc jump) c.sl).1.uid = c.g.uid := (commitChain_keys _ _).1
    rw [← hu] at hg ⊢
    exact unit?_putUnit hg

/-- No slot changes while a chain goes on (R60). -/
theorem slots_retire {c : Ctx} {i : Instr} (h : chainGoesOn c.s.cur i c.g = true) (res : Option (List Word)) (ws : List PendWrite) (pc : Nat)
    (jump : Bool) : (c.retire i res ws pc jump).slots = c.s.slots := by
  rw [retire_eq, if_pos h, State.putUnit_slots, writeTwin_rest]

theorem chainGoesOn_eq_false {iss : Issue} {i : Instr} {g : Group} (h : iss.stay = false ∨ 5 ≤ g.chainLen) : chainGoesOn iss i g = false := by
  obtain h | h := h
  · simp [chainGoesOn, h]
  · simp [chainGoesOn, show ¬g.chainLen + 1 < 6 by omega]

theorem chainGoesOn_eq_true {iss : Issue} {i : Instr} {g : Group} (hi : i.inChain = true) (hs : iss.stay = true) (h : g.chainLen < 5) :
    chainGoesOn iss i g = true := by
  simp [chainGoesOn, hi, hs, show g.chainLen + 1 < 6 by omega]

/-! ## Latches and pending writes (R61, R82) -/

/-- One captured source: the latch of the pointer takes it, the pointer moves on (R61). -/
theorem issued_captureA {g : Group} {iss : Issue} (hA : iss.holdA = true) (hB : iss.holdB = false) (hp : g.holdPtr < 3) (va : List Word)
    (vb res : Option (List Word)) (ws : List PendWrite) (pc : Nat) (jump : Bool) :
    (issued g iss (some va) vb res ws pc jump).holdPtr = (g.holdPtr + 1) % 3 ∧
      (issued g iss (some va) vb res ws pc jump).holds.getD g.holdPtr none = some (0, va) := by
  simp [issued, hA, hB, capture, hp]

/-- No captured source: the latches age, the pointer stands (R61). -/
theorem issued_noCapture {g : Group} {iss : Issue} (hA : iss.holdA = false) (hB : iss.holdB = false) (va vb res : Option (List Word))
    (ws : List PendWrite) (pc : Nat) (jump : Bool) :
    (issued g iss va vb res ws pc jump).holdPtr = g.holdPtr ∧
      ∀ k, k < 3 → (issued g iss va vb res ws pc jump).holds.getD k none = (g.holds.getD k none).map fun x => (x.1 + 1, x.2) := by
  refine ⟨by simp [issued, hA, hB, capture], fun k hk => ?_⟩
  simp [issued, hA, hB, capture, hk]

/-- A result for a window register is pending (R82). -/
theorem pend_afterIssue_window {c : Ctx} {d : Nat} (hd : d < 112) (i : Instr) (cls : Nat) (vals : List Word) (res : Option (List Word)) (pc : Nat)
    (jump : Bool) : ∃ m, (c.afterIssue i res (c.dst d cls vals) pc jump).pend = c.g.pend ++
      [{ reg := if c.uni then .scal (c.g.swb + d) else .vec (c.g.vwb + d), mask := m, vals := if c.uni then [laneAt vals 0] else vals, cls, k := 0 }] := by
  cases hu : c.uni with
  | false => exact ⟨c.g.mask, by simp [Ctx.afterIssue, issued, Ctx.dst, hd, hu]⟩
  | true => exact ⟨1#32, by simp [Ctx.afterIssue, issued, Ctx.dst, hd, hu]⟩

/-- A result that is discarded is not. -/
theorem pend_afterIssue_discard (c : Ctx) (i : Instr) (cls : Nat) (vals : List Word) (res : Option (List Word)) (pc : Nat) (jump : Bool) :
    (c.afterIssue i res (c.dst 112 cls vals) pc jump).pend = c.g.pend := by
  simp [Ctx.afterIssue, issued, Ctx.dst]

theorem held_of_twoSource {c : Ctx} {i : Instr} {d a b : BitVec 7} {f : Word → Word → Word} (h : TwoSource i d a b f) (n k : Nat) :
    c.held i n k = c.src n k := by
  rw [Ctx.held, h.opnds, if_neg (by simp)]

/-- Settles O58: the unit after an operation of two sources is `Ctx.afterIssue`, with its chain over unless it goes on (`unit?_retire`);
reads of a chain by `visible_last`. -/
theorem stayChains : Obligations.StayChains := by
  refine ⟨fun s c i d a b f harith hi => ?_, fun p q e r j old he hq => visible_last he hq old, fun p r j old h => visible_of_not_seen h old, fun c => rfl⟩
  have htwo := twoSource_of_arith harith
  have hunit (res : Option (List Word)) (ws : List PendWrite) := unit?_retire (ctx?_seen hi.1) i res ws (nextPc c.g.pc) false
  refine ⟨_, _, exec_of_arith harith hi, hunit _ _, fun hend => ?_, fun hstay hlen => ?_⟩
  · rw [chainGoesOn_eq_false hend]
    exact ⟨rfl, rfl, rfl, rfl, rfl⟩
  · have hgo := chainGoesOn_eq_true htwo.inChain hstay hlen
    rw [if_pos hgo]
    refine ⟨rfl, slots_retire hgo _ _ _ _, rfl, ⟨_, rfl, fun j hj => laneAt_perStrand _ hj, fun hd => pend_afterIssue_window hd _ _ _ _ _ _,
      fun hd => hd ▸ pend_afterIssue_discard _ _ _ _ _ _ _⟩, fun hA hB hp => ?_, fun hA hB => issued_noCapture hA hB _ _ _ _ _ _⟩
    rw [Ctx.afterIssue, htwo.holdA, Option.map_some]
    obtain ⟨hptr, hlatch⟩ := issued_captureA hA hB hp (perStrand fun k => c.held i a.toNat k)
      (i.holdB.map fun f => perStrand fun k => c.held i f k) (some (perStrand fun k => f (c.src a.toNat k) (c.src b.toNat k)))
      (c.dst d.toNat i.cls (perStrand fun k => f (c.src a.toNat k) (c.src b.toNat k))) (nextPc c.g.pc) false
    exact ⟨hptr, _, hlatch, fun j hj => by rw [laneAt_perStrand _ hj, held_of_twoSource htwo]⟩

end Sys2Proof.Machine
end

section
/-! PROOF. Frames of the device's own work (R188, R279, R326, R342): what writes by the device, fault records, posted operations and page requests
leave alone; the issuing unit and its slot stay in the state. -/

namespace Sys2Proof.Machine

/-! ## What writes of the device itself leave alone (R326, R342) -/

theorem foldl_frame {α : Type} {f : State → α → State} {p : State → State → Prop} (hrefl : ∀ s, p s s) (htrans : ∀ {s t u}, p s t → p t u → p s u)
    (hf : ∀ s x, p s (f s x)) (l : List α) (s : State) : p s (l.foldl f s) := by
  induction l generalizing s with
  | nil => exact hrefl s
  | cons x l ih => exact htrans (hf s x) (ih (f s x))

/-- t is s with other bytes in DRAM. -/
def DramOnly (s t : State) : Prop := ∃ d p, t = { s with dram := d, dramPoison := p }

theorem DramOnly.refl (s : State) : DramOnly s s := ⟨_, _, rfl⟩

theorem DramOnly.trans {s t u : State} : DramOnly s t → DramOnly t u → DramOnly s u := by
  rintro ⟨d, p, rfl⟩ ⟨d', p', rfl⟩
  exact ⟨d', p', rfl⟩

theorem dramOnly_devWrite {s t : State} {root : DWord} {a : Nat} {bs : List Byte} (h : devWrite s root a bs = some t) : DramOnly s t := by
  unfold devWrite at h
  dsimp only at h
  split at h
  · cases h
    refine foldl_frame DramOnly.refl DramOnly.trans (fun u x => ?_) _ s
    split
    · exact ⟨_, _, rfl⟩
    · exact DramOnly.refl u
  · cases h

theorem dramOnly_queuePut {s t : State} {root : DWord} {q tail entry : Nat} {bs : List Byte} (h : queuePut s root q tail entry bs = some t) :
    DramOnly s t := by
  unfold queuePut at h
  split at h
  · cases h
  · next hw => exact (dramOnly_devWrite hw).trans (dramOnly_devWrite h)

theorem complete_frame (s : State) (qp : Nat) (c : Completion) : ∃ q o, complete s qp c = { s with qps := q, hostOut := o } := by
  unfold complete
  split <;> exact ⟨_, _, rfl⟩

/-- A record goes into a queue in DRAM and is announced on a queue pair, or waits (R324, R326). -/
theorem heldRecord_frame (s : State) (l : Launch) (e : EntryInfo) (body : List Byte) :
    ∃ d p q o w, heldRecord s l e body = { s with dram := d, dramPoison := p, qps := q, hostOut := o, heldEntries := w } := by
  unfold heldRecord
  dsimp only
  split
  · exact ⟨_, _, _, _, _, rfl⟩
  · exact ⟨_, _, _, _, _, rfl⟩
  · split
    · next hq =>
      obtain ⟨d, p, rfl⟩ := dramOnly_queuePut hq
      obtain ⟨q, o, ho⟩ := complete_frame { s with dram := d, dramPoison := p } l.qp _
      exact ⟨d, p, q, o, _, ho⟩
    · exact ⟨_, _, _, _, _, rfl⟩

/-! ## The issuing unit and its slot stay where they are -/

/-- Every unit of s is still a unit of t, and the slots are the same. -/
structure KeepsSeats (s t : State) : Prop where
  units : ∀ u, (s.unit? u).isSome = true → (t.unit? u).isSome = true
  slots : t.slots = s.slots

theorem KeepsSeats.of_eq {s t : State} (hu : t.units = s.units) (hs : t.slots = s.slots) : KeepsSeats s t :=
  ⟨fun u h => by rwa [State.unit?, hu], hs⟩

theorem KeepsSeats.trans {s t u : State} (h : KeepsSeats s t) (h' : KeepsSeats t u) : KeepsSeats s u :=
  ⟨fun k hk => h'.units k (h.units k hk), h'.slots.trans h.slots⟩

/-- What an instruction sees of its unit and slot stands in the later state too. -/
theorem Seen.of_keepsSeats {c : Ctx} {t : State} (h : Seen c) (hk : KeepsSeats c.s t) : Seen { c with s := t } := by
  obtain ⟨⟨g, hg⟩, hsl⟩ := h
  refine ⟨Option.isSome_iff_exists.1 (hk.units _ (Option.isSome_iff_exists.2 ⟨g, hg⟩)), ?_⟩
  rw [State.slot?] at hsl ⊢
  exact hk.slots ▸ hsl

theorem keepsSeats_devWrite {s t : State} {root : DWord} {a : Nat} {bs : List Byte} (h : devWrite s root a bs = some t) : KeepsSeats s t := by
  obtain ⟨d, p, rfl⟩ := dramOnly_devWrite h
  exact .of_eq rfl rfl

theorem keepsSeats_modLaunch (s : State) (l : Nat) (f : Launch → Launch) : KeepsSeats s (s.modLaunch l f) := .of_eq rfl rfl

theorem keepsSeats_stampWindow (s : State) (us : List Nat) (l n : Nat) : KeepsSeats s (stampWindow s us l n) := by
  refine ⟨fun u hu => ?_, rfl⟩
  obtain ⟨g, hg⟩ := Option.isSome_iff_exists.1 hu
  have hkey : ∀ x ∈ s.units, ((if us.contains x.uid then { x with lastWindow := some (max (x.lastWindow.getD 0) n) } else x : Group).uid == u) =
      (x.uid == u) := fun x _ => by split <;> rfl
  exact Option.isSome_iff_exists.2 ⟨_, find?_map_replace hkey hg⟩

theorem keepsSeats_sendPeer (s : State) (dev cls : Nat) (body : Payload) : KeepsSeats s (sendPeer s dev cls body) := by
  unfold sendPeer
  split <;> exact .of_eq rfl rfl

theorem keepsSeats_launchPosted (s : State) (p : Posted) (acc : Access) (region : Nat) : KeepsSeats s (launchPosted s p acc region) := by
  unfold launchPosted
  split
  · exact .of_eq rfl rfl
  split
  · exact .of_eq rfl rfl
  · exact (keepsSeats_stampWindow _ _ _ _).trans (keepsSeats_sendPeer _ _ _ _)

theorem keepsSeats_postTo (s : State) (g : Group) (a : Access) : KeepsSeats s (postTo s g a) := by
  unfold postTo
  split
  · have hadd (p : Posted) : KeepsSeats s (s.addPosted p) := .of_eq rfl rfl
    exact (hadd _).trans (keepsSeats_launchPosted _ _ _ _)
  · exact .of_eq rfl rfl

theorem keepsSeats_postMarker (s : State) (g : Group) (a : Nat) (bs : List Byte) : KeepsSeats s (postMarker s g a bs) := by
  unfold postMarker
  split
  · split
    · exact keepsSeats_postTo _ _ _
    · exact .of_eq rfl rfl
  · exact .of_eq rfl rfl

/-- The request that a unit makes for the page of a global address (R279). -/
def locateRequest (s : State) (g : Group) (x : Nat) : Except (Nat × Option WalkErr) State :=
  match translate s g.core (rootOf s g) (supervisor s g) .locate x with
  | .error e => .error e
  | .ok p =>
    if s.pageReqs.contains (g.core, x / p.size * p.size) then .ok s
    else .ok (heldRecord { s with pageReqs := s.pageReqs ++ [(g.core, x / p.size * p.size)] } (launchOf s g) (unitEntry s g 2 0 x) [])

theorem pageRequest_of_global {a : Nat} (ha : a < 2 ^ 56) (s : State) (g : Group) (strand : Nat) : pageRequest s g strand a = locateRequest s g a :=
  if_pos (Nat.div_eq_of_lt ha)

/-- A page request that meets no fault changes nothing, or is the request for one global address (R279). -/
theorem pageRequest_ok {s t : State} {g : Group} {strand a : Nat} (h : pageRequest s g strand a = .ok t) : t = s ∨ ∃ x, locateRequest s g x = .ok t := by
  unfold pageRequest at h
  extract_lets top go at h
  split at h
  · exact .inr ⟨a, h⟩
  split at h
  · split at h
    · exact .inr ⟨_, h⟩
    · cases h
  split at h <;> cases h
  exact .inl rfl

/-- A page is recorded once (R279). -/
theorem locateRequest_new {s : State} {g : Group} {x : Nat} {p : Page} (h : translate s g.core (rootOf s g) (supervisor s g) .locate x = .ok p)
    (hnew : s.pageReqs.contains (g.core, x / p.size * p.size) = false) :
    locateRequest s g x = .ok (heldRecord { s with pageReqs := s.pageReqs ++ [(g.core, x / p.size * p.size)] } (launchOf s g) (unitEntry s g 2 0 x) []) := by
  simp only [locateRequest, h, hnew, Bool.false_eq_true, if_false]

theorem keepsSeats_locateRequest {s t : State} {g : Group} {x : Nat} (h : locateRequest s g x = .ok t) : KeepsSeats s t := by
  unfold locateRequest at h
  split at h
  · cases h
  split at h <;> cases h
  · exact .of_eq rfl rfl
  · obtain ⟨d, q, r, o, w, hr⟩ := heldRecord_frame { s with pageReqs := s.pageReqs ++ [_] } (launchOf s g) (unitEntry s g 2 0 x) []
    rw [hr]
    exact .of_eq rfl rfl

theorem keepsSeats_pageRequest {s t : State} {g : Group} {strand a : Nat} (h : pageRequest s g strand a = .ok t) : KeepsSeats s t := by
  obtain rfl | ⟨x, hx⟩ := pageRequest_ok h
  · exact .of_eq rfl rfl
  · exact keepsSeats_locateRequest hx

end Sys2Proof.Machine
end

section
/-! PROOF. Control registers (R66, R67, R261, R263, R264, R279, R335, R336, O13): CSRR and CYCLE, CSRW, the rows of control writes, TRACEM. -/

namespace Sys2Proof.Machine
open Claims

/-! ## Two results (R3) -/

theorem lastWrite_append (a b : List PendWrite) (r : Reg) (j : Nat) : lastWrite (a ++ b) r j = (lastWrite b r j).or (lastWrite a r j) := by
  induction a with
  | nil => simp [lastWrite]
  | cons e a ih => rw [List.cons_append, lastWrite_cons, lastWrite_cons, ih, Option.or_assoc]

theorem lastScalar_append (a b : List PendWrite) (k : Nat) : lastScalar (a ++ b) k = (lastScalar b k).or (lastScalar a k) := by
  induction a with
  | nil => simp [lastScalar]
  | cons e a ih => rw [List.cons_append, lastScalar_cons, lastScalar_cons, ih, Option.or_assoc]

theorem lastPred_append (a b : List PendWrite) (k j : Nat) : lastPred (a ++ b) k j = (lastPred b k j).or (lastPred a k j) := by
  induction a with
  | nil => simp [lastPred]
  | cons e a ih => rw [List.cons_append, lastPred_cons, lastPred_cons, ih, Option.or_assoc]

/-- A register result, whatever the bypass takes. -/
theorem retire_dst_done {c : Ctx} (h : Seen c) (i : Instr) (res : Option (List Word)) (d cls : Nat) (f : Nat → Word) :
    Done c (c.retire i res (c.dst d cls (perStrand f)) (nextPc c.g.pc)) (Effect.dst c d f) := by
  obtain ⟨hvec, hscal, htwin, hpred⟩ := dst_writes c d cls f
  exact (retire_done h i res _ _ false).congr hvec hscal htwin (fun k j _ => hpred k j) rfl

/-- A 64-bit result in a register pair (R3). -/
theorem retire_wide_done {c : Ctx} (h : Seen c) (i : Instr) (res : Option (List Word)) (d cls x : Nat) :
    Done c (c.retire i res (c.dst d cls (perStrand fun _ => lowWord x) ++ c.dst (d + 1) cls (perStrand fun _ => highWord x)) (nextPc c.g.pc))
      (Claims.wide c d x) := by
  obtain ⟨hvec, hscal, htwin, hpred⟩ := dst_writes c d cls fun _ => lowWord x
  obtain ⟨hvec', hscal', htwin', hpred'⟩ := dst_writes c (d + 1) cls fun _ => highWord x
  refine (retire_done h i res _ _ false).congr (fun k j hj => ?_) (fun k => ?_) (fun k j hj => ?_) (fun k j _ => ?_) rfl
  · exact (lastWrite_append _ _ _ _).trans (by rw [hvec k j hj, hvec' k j hj]; rfl)
  · exact (lastScalar_append _ _ _).trans (by rw [hscal k, hscal' k]; rfl)
  · exact (lastWrite_append _ _ _ _).trans (by rw [htwin k j hj, htwin' k j hj]; rfl)
  · exact (lastPred_append _ _ _ _).trans (by rw [hpred k j, hpred' k j]; rfl)

/-! ## CSRR and CYCLE (R66, R261, R263) -/

theorem pack_single (w x : Nat) : pack [(w, x)] = x % 2 ^ w := by
  rw [pack, pack, Nat.mul_zero, Nat.add_zero]

/-- The descriptors of a launch as control registers (R66, R69). -/
theorem csr_spad (c : Ctx) {n : Nat} (hn : n < 16) : c.csr (0x050 + n) = ((launchOf c.s c.g).spads.getD n 0).toNat := by
  unfold Ctx.csr
  split
  case h_20 => rw [if_pos (by omega), Nat.add_sub_cancel_left]
  all_goals omega

theorem csr_of_mem_csrTable {c : Ctx} {e : Nat × Nat} (h : e ∈ csrTable c) : c.csr e.1 = e.2 := by
  rw [csrTable, List.mem_append] at h
  obtain h | h := h
  · revert e
    simp [Ctx.csr, pack_single, dieOf]
  · obtain ⟨n, hn, rfl⟩ := List.mem_map.1 h
    exact csr_spad c (List.mem_range.1 hn)

theorem execCsrr_of_unlisted {s : State} {c : Ctx} {d : BitVec 7} {n : BitVec 11} (h : Issues s (.csrr d n) c) (hn : csrListed n.toNat = false) :
    execCsrr d n s = .next (c.fail (.csrr d n) 0x01 0) := by
  rw [execCsrr, issue_clear h, hn]
  rfl

theorem execCsrr_of_wide {s : State} {c : Ctx} {d : BitVec 7} {n : BitVec 11} (h : Issues s (.csrr d n) c) (hn : csrListed n.toNat = true)
    (hw : csrWide n.toNat = true) : ∃ t, execCsrr d n s = .next t ∧ Done c t (wide c d.toNat (c.csr n.toNat)) := by
  rw [execCsrr, issue_clear h, hn, hw]
  exact ⟨_, rfl, retire_wide_done (ctx?_seen h.1) _ none _ _ _⟩

theorem execCsrr_of_narrow {s : State} {c : Ctx} {d : BitVec 7} {n : BitVec 11} (h : Issues s (.csrr d n) c) (hn : csrListed n.toNat = true)
    (hw : csrWide n.toNat = false) :
    ∃ t, execCsrr d n s = .next t ∧ Done c t (Effect.dst c d.toNat fun _ => BitVec.ofNat 32 (c.csr n.toNat)) := by
  rw [execCsrr, issue_clear h, hn, hw]
  dsimp only
  rw [if_neg Bool.false_ne_true, List.append_nil]
  exact ⟨_, rfl, retire_dst_done (ctx?_seen h.1) _ none _ _ _⟩

theorem execCycle_done {s : State} {c : Ctx} {d : BitVec 7} {f : BitVec 4} (h : Issues s (.cycle d f) c) :
    ∃ t, execCycle d f s = .next t ∧ Done c t (wide c d.toNat (if f = 0#4 then c.s.now else c.s.acOf c.g.core)) := by
  rw [execCycle, issue_clear h]
  exact ⟨_, rfl, retire_wide_done (ctx?_seen h.1) _ none _ _ _⟩

theorem countersAndControlReads : CountersAndControlReads := by
  intro s c d
  refine ⟨fun n h hn => execCsrr_of_unlisted h hn, fun n h hn => ?_, fun e he => csr_of_mem_csrTable he, fun h => ?_, fun f hf h => ?_⟩
  · cases hw : csrWide n.toNat with
    | true => exact execCsrr_of_wide h hn hw
    | false => exact execCsrr_of_narrow h hn hw
  · have hdone := execCycle_done h
    rwa [if_pos rfl, (ctx?_spec h.1).1] at hdone
  · have hdone := execCycle_done h
    rwa [if_neg hf, (ctx?_spec h.1).1] at hdone

/-! ## CSRW (R66, R67, R91, R261) -/

/-- The value that `CSRW` takes: of the lowest strand, of the register's width. -/
def Ctx.csrwValue (c : Ctx) (a : BitVec 7) (n : BitVec 11) : Nat :=
  if csrWide n.toNat then c.src64 a.toNat c.low else (c.src a.toNat c.low).toNat

theorem execCsrw_of_unlisted {s : State} {c : Ctx} {a : BitVec 7} {n : BitVec 11} (h : Issues s (.csrw a n) c) (hn : csrListed n.toNat = false) :
    execCsrw a n s = .next (c.fail (.csrw a n) 0x01 0) := by
  rw [execCsrw, issue_clear h, hn]
  rfl

theorem execCsrw_of_user {s : State} {c : Ctx} {a : BitVec 7} {n : BitVec 11} (h : Issues s (.csrw a n) c) (hn : csrListed n.toNat = true)
    (hp : (Instr.csrw a n).privileged = true) (hu : supervisor c.s c.g = false) : execCsrw a n s = .next (c.fail (.csrw a n) 0x08 0) := by
  rw [execCsrw, issue_clear h, hn]
  dsimp only
  rw [hp, hu]
  rfl

/-- What follows a page request: the fault that it met, or the issue in the state that it leaves. -/
def Ctx.afterRequest (c : Ctx) (i : Instr) (x : Nat) : Except (Nat × Option WalkErr) State → State
  | .error e => c.failTarget i x e
  | .ok t => { c with s := t }.pass i

theorem execCsrw_pageRequest {s : State} {c : Ctx} {a : BitVec 7} (h : Issues s (.csrw a 0x042#11) c) :
    execCsrw a 0x042#11 s =
      .next (c.afterRequest (.csrw a 0x042#11) (c.csrwValue a 0x042#11) (pageRequest c.s c.g c.low (c.csrwValue a 0x042#11))) := by
  rw [execCsrw, issue_clear h]
  rfl

/-- The effect of a write, beside its issue, on the state t that the issue leaves: all but the page request. -/
def csrwEffect (c : Ctx) (n : BitVec 11) (x : Nat) (t : State) : State :=
  if n = 0x030#11 then t.modLaunch c.g.launch fun l => { l with trapVec := x }
  else if n = 0x041#11 then t.modLaunch c.g.launch fun l => { l with rTimeout := max 1 (x % 65536) }
  else if n = 0x031#11 then t.modUnit c.g.uid fun g => { g with trapCause := BitVec.ofNat 32 (x % 16777216) }
  else if n = 0x032#11 then t.modUnit c.g.uid fun g => { g with trapAddr := x }
  else if n = 0x033#11 then t.modUnit c.g.uid fun g => { g with trapPc := x }
  else if n = 0x040#11 then setHeart t (launchOf c.s c.g).node true
  else if 0x050 ≤ n.toNat ∧ n.toNat ≤ 0x05F then writeSpad t c.g.launch (n.toNat - 0x050) (BitVec.ofNat 64 x) else t

theorem writeTrapvec_reply (s : State) (launch v : Nat) :
    writeTrapvec s launch true v = s.modLaunch launch fun l => { l with rTimeout := max 1 (v % 65536) } := by
  simp [writeTrapvec, bits]

theorem writeTrapvec_vector (s : State) (launch v : Nat) : writeTrapvec s launch false v = s.modLaunch launch fun l => { l with trapVec := v } := rfl

theorem execCsrw_of_listed {s : State} {c : Ctx} {a : BitVec 7} {n : BitVec 11} (h : Issues s (.csrw a n) c) (hn : csrListed n.toNat = true)
    (hp : (Instr.csrw a n).privileged = true → supervisor c.s c.g = true) (h42 : n ≠ 0x042#11) :
    execCsrw a n s = .next (csrwEffect c n (c.csrwValue a n) (c.pass (.csrw a n))) := by
  have hchecks : ((Instr.csrw a n).privileged && !supervisor c.s c.g) = false := by
    cases hpriv : (Instr.csrw a n).privileged
    · rfl
    · rw [hp hpriv]; rfl
  have hne (k : BitVec 11) (hk : n.toNat = k.toNat) : n = k := BitVec.eq_of_toNat_eq hk
  rw [execCsrw, issue_clear h]
  dsimp only
  rw [hn, hchecks]
  simp only [Bool.not_true, Bool.false_eq_true, if_false]
  refine congrArg Host.Outcome.next ?_
  split
  · next hk => obtain rfl := hne 0x030#11 hk; rfl
  · next hk => obtain rfl := hne 0x041#11 hk; exact writeTrapvec_reply _ _ _
  · next hk => obtain rfl := hne 0x031#11 hk; rfl
  · next hk => obtain rfl := hne 0x032#11 hk; rfl
  · next hk => obtain rfl := hne 0x033#11 hk; rfl
  · next hk => obtain rfl := hne 0x040#11 hk; rfl
  · next hk => exact absurd (hne 0x042#11 hk) h42
  · next h30 h41 h31 h32 h33 h40 _ =>
    have hno (k : BitVec 11) (hk : n.toNat ≠ k.toNat) : n ≠ k := fun e => hk (e ▸ rfl)
    rw [csrwEffect, if_neg (hno 0x030#11 h30), if_neg (hno 0x041#11 h41), if_neg (hno 0x031#11 h31),
      if_neg (hno 0x032#11 h32), if_neg (hno 0x033#11 h33), if_neg (hno 0x040#11 h40)]
    rfl

theorem controlWrites : ControlWrites := by
  rintro s c a n x hi hx
  obtain rfl : x = c.csrwValue a n := hx
  have hseen := ctx?_seen hi.1
  obtain rfl : c.s = s := (ctx?_spec hi.1).1
  refine ⟨execCsrw_of_unlisted hi, execCsrw_of_user hi, ?_, ?_, fun h42 hn hp => ⟨_, pass_done hseen _, execCsrw_of_listed hi hn hp h42⟩⟩
  · rintro rfl t ht
    exact ⟨_, (execCsrw_pageRequest hi).trans (by rw [ht]; rfl), pass_done (hseen.of_keepsSeats (keepsSeats_pageRequest ht)) _⟩
  · rintro rfl e he
    exact (execCsrw_pageRequest hi).trans (by rw [he]; rfl)

/-! ## The rows of control writes (R67, R279, R335) -/

/-- A heartbeat of a persistent region with an interval sets its deadline (R335). -/
theorem setHeart_beat {s : State} {nd : Node} (hp : nd.persistent = true) (hi : nd.hbeatInt ≠ 0) :
    setHeart s nd true = { s with
      hearts := { region := nd.regionId, deadline := s.now + 1000 * nd.hbeatInt, last := s.now } :: s.hearts.filter fun h => h.region != nd.regionId } := by
  rw [setHeart, if_pos (by simp [hp, hi])]
  rfl

theorem mem_pageReqs_of_pageRequest {s t : State} {g : Group} {strand a : Nat} {p : Page} (ha : a < 2 ^ 56)
    (hp : translate s g.core (rootOf s g) (supervisor s g) .locate a = .ok p) (hnew : s.pageReqs.contains (g.core, a / p.size * p.size) = false)
    (h : pageRequest s g strand a = .ok t) : (g.core, a / p.size * p.size) ∈ t.pageReqs := by
  rw [pageRequest_of_global ha, locateRequest_new hp hnew] at h
  cases h
  obtain ⟨d, q, r, o, w, hr⟩ := heldRecord_frame { s with pageReqs := s.pageReqs ++ [(g.core, a / p.size * p.size)] } (launchOf s g)
    (unitEntry s g 2 0 a) []
  rw [hr]
  exact List.mem_append_right _ List.mem_cons_self

theorem controlWriteRows : ControlWriteRows := by
  intro s c hc
  refine ⟨?_, fun a t ht => ?_, fun a p ha hp hnew t ht => mem_pageReqs_of_pageRequest ha hp hnew ht, fun n v hs => ?_, fun b v hs => ?_⟩
  · rintro v _ rfl hp hi
    change execHbeat v s = _
    simp only [execHbeat, hc, setHeart_beat hp hi]
  · change execPgreq a s = _
    simp only [execPgreq, hc, ht]
  · change execSpadDescriptorWrite n v s = _
    simp only [execSpadDescriptorWrite, hc, hs, if_true]
  · change execTrapvec b v s = _
    simp only [execTrapvec, hc, hs, if_true]
    cases b with
    | false => rw [writeTrapvec_vector]; rfl
    | true => rw [writeTrapvec_reply]; rfl

/-! ## TRACEM (R188, R264, R336) -/

theorem markerBytes_eq (s : State) (g : Group) (n : BitVec 11) (v : Word) :
    markerBytes s g n.toNat v.toNat = bytesLE 8 s.now ++ bytesLE 8 g.pc ++ bytesLE 4 g.region ++ bytesLE 2 (g.core % 2 ^ 10) ++ bytesLE 2 (g.grp % 2 ^ 9) ++
      bytesLE 2 g.team ++ bytesLE 2 n.toNat ++ bytesLE 4 v.toNat := by
  rw [markerBytes, pack_single, pack_single, pack_single, Nat.mod_eq_of_lt n.isLt]

/-- No stream: nothing is traced. -/
theorem traceMark_off {s : State} {g : Group} (h : (launchOf s g).traceBase = 0 ∨ (launchOf s g).traceRecs = 0) (n v : Nat) : traceMark s g n v = s :=
  if_pos h

/-- Room in the stream: the marker is posted and the tail moves on (R336). -/
theorem traceMark_room {s t : State} {g : Group} {n v : Nat} (hbase : (launchOf s g).traceBase ≠ 0)
    (hroom : (launchOf s g).traceTail < (launchOf s g).traceRecs)
    (hw : devWrite (postMarker s g ((launchOf s g).traceBase + 32 + 32 * (launchOf s g).traceTail) (markerBytes s g n v)) (launchOf s g).ptRoot
      (launchOf s g).traceBase (bytesLE 4 ((launchOf s g).traceTail + 1) ++ bytesLE 4 (launchOf s g).traceLost) = some t) :
    traceMark s g n v = t.modLaunch g.launch fun l => { l with traceTail := (launchOf s g).traceTail + 1, traceLost := (launchOf s g).traceLost } := by
  have hon : ¬((launchOf s g).traceBase = 0 ∨ (launchOf s g).traceRecs = 0) := by omega
  have hfull : ¬(launchOf s g).traceRecs ≤ (launchOf s g).traceTail := by omega
  simp only [traceMark, if_neg hon, if_neg hfull, hw, Option.getD_some]

/-- A full stream: the marker is counted as lost (R336). -/
theorem traceMark_full {s t : State} {g : Group} {n v : Nat} (hbase : (launchOf s g).traceBase ≠ 0) (hrecs : (launchOf s g).traceRecs ≠ 0)
    (hfull : (launchOf s g).traceRecs ≤ (launchOf s g).traceTail)
    (hw : devWrite s (launchOf s g).ptRoot (launchOf s g).traceBase
      (bytesLE 4 (launchOf s g).traceTail ++ bytesLE 4 (min ((launchOf s g).traceLost + 1) 4294967295)) = some t) :
    traceMark s g n v = t.modLaunch g.launch fun l =>
      { l with traceTail := (launchOf s g).traceTail, traceLost := min ((launchOf s g).traceLost + 1) 4294967295 } := by
  have hon : ¬((launchOf s g).traceBase = 0 ∨ (launchOf s g).traceRecs = 0) := by omega
  simp only [traceMark, if_neg hon, if_pos hfull, show 2 ^ 32 - 1 = 4294967295 from rfl, hw, Option.getD_some]

theorem execTracem_eq {s : State} {c : Ctx} {a : BitVec 7} {n : BitVec 11} (h : Issues s (.tracem a n) c) :
    execTracem a n s = .next ({ c with s := traceMark c.s c.g n.toNat (c.src a.toNat c.low).toNat }.pass (.tracem a n)) := by
  rw [execTracem, issue_clear h]

/-- The store of a marker's four doublewords into a page of this module (R336). -/
def markerStore (p : Page) (x : Nat) (bs : List Byte) : Access :=
  { kind := .store, n := 8, strands := (List.range 4).map fun k =>
      { strand := k, va := x + 8 * k, loc := .dram 0 (p.pa x + 8 * k), data := field bs (8 * k) 8, aux := 0 } }

theorem home_markerStore (p : Page) (x : Nat) (bs : List Byte) : (markerStore p x bs).home = (0, p.pa x / 2 ^ 36) := by
  simp only [markerStore, Access.home, List.range_succ_eq_map, List.map_cons, Nat.mul_zero, Nat.add_zero]

/-- A posted operation to a home of this module leaves at once where nothing of its unit is held for that die (R188, R299). -/
theorem postTo_of_free {s : State} {g : Group} {a : Access} {stack : Nat} (hhome : a.home = (0, stack)) (hheld : heldTo s g 0 (8 + stack) = []) :
    postTo s g a = { s with
      nextId := s.nextId + 2
      posted := s.posted ++ [postedOp s g 0 stack a none none [] []]
      net := s.net ++ [{ id := s.nextId + 1, cls := .request, src := g.core, dst := 8 + stack, body := .posted s.nextId a none g.region }] } := by
  rw [postTo, hhome, hheld]
  rfl

theorem postMarker_eq_postTo {s : State} {g : Group} {x : Nat} {p : Page} (bs : List Byte) (hp : lookupPage s g.core (rootOf s g) x = .ok p)
    (hres : p.res = true) (hwr : p.wr = true) (hdup : p.dup = false) (hdev : p.device = 0) : postMarker s g x bs = postTo s g (markerStore p x bs) := by
  simp only [postMarker, hp, hres, hwr, hdup, hdev, Bool.not_false, and_self, if_true]
  rfl

theorem traceMarkers : TraceMarkers := by
  intro s c a n hi
  have hseen := ctx?_seen hi.1
  obtain rfl : c.s = s := (ctx?_spec hi.1).1
  refine ⟨fun hoff => ?_, ?_, ?_, ?_⟩
  · refine ⟨_, (execTracem_eq hi).trans (by rw [traceMark_off hoff]), pass_done hseen _⟩
  · rintro _ _ t₂ rfl hbase hroom rfl hw
    refine ⟨_, (execTracem_eq hi).trans (by rw [traceMark_room hbase hroom (by rw [markerBytes_eq]; exact hw)]), ?_⟩
    exact pass_done (hseen.of_keepsSeats (((keepsSeats_postMarker _ _ _ _).trans (keepsSeats_devWrite hw)).trans (keepsSeats_modLaunch _ _ _))) _
  · rintro _ t₂ rfl hbase hrecs hfull hw
    refine ⟨_, (execTracem_eq hi).trans (by rw [traceMark_full hbase hrecs hfull hw]), ?_⟩
    exact pass_done (hseen.of_keepsSeats ((keepsSeats_devWrite hw).trans (keepsSeats_modLaunch _ _ _))) _
  · rintro x bs p _ rfl hp hres hwr hdup hheld hdev
    rw [hdev] at hheld
    exact ⟨_, _, (postMarker_eq_postTo bs hp hres hwr hdup hdev).trans (postTo_of_free (home_markerStore p x bs) hheld), rfl, rfl, rfl, rfl⟩

/-- Settles O13, by its four claims. -/
theorem controlRegisters : Obligations.ControlRegisters := ⟨countersAndControlReads, controlWrites, controlWriteRows, traceMarkers⟩

end Sys2Proof.Machine
end

section
/-! PROOF. Words and instructions (R86 to R90, O51, O52): an encoded instruction decodes to itself, and a word that decodes is the word of its
instruction, since its fields laid one after another are the word. -/

namespace Sys2Proof.Laws

/-! ## From an instruction to its word and back -/

/-- Every row with a word has its lemma in the family `Encodes`; the others have no word. -/
theorem decodeWord_of_encode (i : Instr) : Encodes.Statement i := by
  cases i with
  | nop => exact Encodes.nop | bra => exact Encodes.bra _ | brc => exact Encodes.brc _ _ _ _ | call => exact Encodes.call _ _ | ret => exact Encodes.ret _
  | jtab => exact Encodes.jtab _ _ | pad => exact Encodes.pad _ _ | exit => exact Encodes.exit _ _ | trap => exact Encodes.trap _
  | loop => exact Encodes.loop _ _ | winb => exact Encodes.winb _ _ | swinb => exact Encodes.swinb _ _ | live => exact Encodes.live _ _ _ _
  | pause => exact Encodes.pause _ | sleep => exact Encodes.sleep _ | iadd => exact Encodes.iadd _ _ _ _ | isub => exact Encodes.isub _ _ _ _
  | imul => exact Encodes.imul _ _ _ _ | imad => exact Encodes.imad _ _ _ _ | imnx => exact Encodes.imnx _ _ _ _ | isetp => exact Encodes.isetp _ _ _ _
  | sel => exact Encodes.sel _ _ _ _ _ | iaddc => exact Encodes.iaddc _ _ _ _ _ | land => exact Encodes.land _ _ _ | lor => exact Encodes.lor _ _ _
  | lxor => exact Encodes.lxor _ _ _ | andn => exact Encodes.andn _ _ _ | shl => exact Encodes.shl _ _ _ _ | shr => exact Encodes.shr _ _ _ _
  | bfx => exact Encodes.bfx _ _ _ _ | bitop => exact Encodes.bitop _ _ _ | iaddi => exact Encodes.iaddi _ _ _ | andi => exact Encodes.andi _ _ _
  | ori => exact Encodes.ori _ _ _ | xori => exact Encodes.xori _ _ _ | shi => exact Encodes.shi _ _ _ _ | movi => exact Encodes.movi _ _
  | movhi => exact Encodes.movhi _ _ | isetpi => exact Encodes.isetpi _ _ _ _ | fadd => exact Encodes.fadd _ _ _ _ | fmul => exact Encodes.fmul _ _ _ _
  | ffma => exact Encodes.ffma _ _ _ _ | fmnx => exact Encodes.fmnx _ _ _ _ | fsetp => exact Encodes.fsetp _ _ _ _ | fsfu => exact Encodes.fsfu _ _ _
  | fcvt => exact Encodes.fcvt _ _ _ _ _ _ | fclass => exact Encodes.fclass _ _ _ | hadd2 => exact Encodes.hadd2 _ _ _ _
  | hmul2 => exact Encodes.hmul2 _ _ _ _ | hfma2 => exact Encodes.hfma2 _ _ _ _ | bfma2 => exact Encodes.bfma2 _ _ _ _ | dot4 => exact Encodes.dot4 _ _ _ _
  | pcvt => exact Encodes.pcvt _ _ _ _ | mov => exact Encodes.mov _ _ _ | idx => exact Encodes.idx _ _ _ _ | plop => exact Encodes.plop _ _ _ _
  | vote => exact Encodes.vote _ _ _ | shfl => exact Encodes.shfl _ _ _ _ | redux => exact Encodes.redux _ _ _ | pmov => exact Encodes.pmov _ _ _
  | pset => exact Encodes.pset _ _ | ldb => exact Encodes.ldb _ _ _ _ | ldh => exact Encodes.ldh _ _ _ _ | ldw => exact Encodes.ldw _ _ _ _
  | ldd => exact Encodes.ldd _ _ _ _ | ldba => exact Encodes.ldba _ _ _ _ _ | ldha => exact Encodes.ldha _ _ _ _ _ | ldwa => exact Encodes.ldwa _ _ _ _ _
  | ldda => exact Encodes.ldda _ _ _ _ _ | stb => exact Encodes.stb _ _ _ _ _ | sth => exact Encodes.sth _ _ _ _ _ | stw => exact Encodes.stw _ _ _ _ _
  | std => exact Encodes.std _ _ _ _ _ | stbl => exact Encodes.stbl _ _ _ _ _ _ | sthl => exact Encodes.sthl _ _ _ _ _ _
  | stwl => exact Encodes.stwl _ _ _ _ _ _ | stdl => exact Encodes.stdl _ _ _ _ _ _ | aadd => exact Encodes.aadd _ _ _ _ _ _
  | asub => exact Encodes.asub _ _ _ _ _ _ | amins => exact Encodes.amins _ _ _ _ _ _ | amaxs => exact Encodes.amaxs _ _ _ _ _ _
  | aminu => exact Encodes.aminu _ _ _ _ _ _ | amaxu => exact Encodes.amaxu _ _ _ _ _ _ | aand => exact Encodes.aand _ _ _ _ _ _
  | aor => exact Encodes.aor _ _ _ _ _ _ | axor => exact Encodes.axor _ _ _ _ _ _ | axch => exact Encodes.axch _ _ _ _ _ _
  | acas => exact Encodes.acas _ _ _ _ _ _ | afadd => exact Encodes.afadd _ _ _ _ _ _ | afmin => exact Encodes.afmin _ _ _ _ _ _
  | afmax => exact Encodes.afmax _ _ _ _ _ _ | aincw => exact Encodes.aincw _ _ _ _ _ _ | adecw => exact Encodes.adecw _ _ _ _ _ _
  | stn => exact Encodes.stn _ _ _ _ _ | stbm => exact Encodes.stbm _ _ _ _ _ | migrCore => exact Encodes.migrCore _ | migrAddr => exact Encodes.migrAddr _
  | migrLaunch => exact Encodes.migrLaunch | home => exact Encodes.home _ _ | rejoin => exact Encodes.rejoin _
  | barArrive => exact Encodes.barArrive _ _ _ _ | barWait => exact Encodes.barWait _ _ _ _ | barSync => exact Encodes.barSync _ _ _ _
  | barInit => exact Encodes.barInit _ _ _ _ | fence => exact Encodes.fence _ _ _ | ljoin => exact Encodes.ljoin _ _ _
  | ljoinr => exact Encodes.ljoinr _ _ _ _ | lld => exact Encodes.lld _ _ _ _ | lldw => exact Encodes.lldw _ _ _ _ | lstx => exact Encodes.lstx _ _ _ _
  | lflush => exact Encodes.lflush _ _ | lepoch => exact Encodes.lepoch _ _ _ | rcall => exact Encodes.rcall _ _ _ _ _ _
  | rcallRetry => exact Encodes.rcallRetry _ _ _ _ _ _ | rret => exact Encodes.rret _ | rstat => exact Encodes.rstat _ _
  | tmove => exact Encodes.tmove _ _ _ | tstat => exact Encodes.tstat _ _ | tstatProm => exact Encodes.tstatProm _ _ | mldw => exact Encodes.mldw _ _ _
  | mswap => exact Encodes.mswap | mstream => exact Encodes.mstream _ _ _ | mdrain => exact Encodes.mdrain _ _ _ _ | mlicAcq => exact Encodes.mlicAcq
  | mlicTry => exact Encodes.mlicTry _ | mlicRel => exact Encodes.mlicRel | mlicQry => exact Encodes.mlicQry _ | xsigSig => exact Encodes.xsigSig _
  | xsigWait => exact Encodes.xsigWait _ | xsigSync => exact Encodes.xsigSync _ | csrr => exact Encodes.csrr _ _ | csrw => exact Encodes.csrw _ _
  | eret => exact Encodes.eret | cycle => exact Encodes.cycle _ _ | tracem => exact Encodes.tracem _ _
  | _ => exact fun _ h => nomatch h

/-! ## From a word to its instruction and back -/

/-- Two fields that lie side by side are one field. -/
theorem field_append {w : Word} {s m n : Nat} {x : BitVec m} {y : BitVec n} (hx : w.extractLsb' (s + n) m = x) (hy : w.extractLsb' s n = y) :
    w.extractLsb' s (m + n) = x ++ y := by
  rw [← hx, ← hy, BitVec.extractLsb'_append_extractLsb'_eq_extractLsb' rfl]

/-- In each branch of the decoder the opcode, the operands read out of the word and the reserved fields found zero lie side by side, and are
the word of the instruction. -/
theorem encode_of_decodeWord {w : Word} {i : Instr} (h : decodeWord w = .ok i) : encode i = some w := by
  unfold decodeWord at h
  split at h <;> repeat' split at h
  all_goals cases h
  all_goals
    have hop := (BitVec.toNat_eq_nat.1 ‹(w.extractLsb' 25 7).toNat = _›).2
    refine congrArg some (BitVec.extractLsb'_eq_self.symm.trans ?_).symm
    repeat refine field_append ?_ ?_
    all_goals simp only [*]

/-- The major opcodes that have no instruction (R88, R90). -/
theorem decodeWord_of_no_major {w : Word} (h : w.extractLsb' 25 7 ∈ [0x00#7, 0x3E#7, 0x3F#7, 0x67#7, 0x7F#7]) : ∃ e, decodeWord w = .error e := by
  simp only [List.mem_cons, List.not_mem_nil, or_false] at h
  obtain h | h | h | h | h := h
  all_goals exact ⟨_, by rw [decodeWord, h]; rfl⟩

/-- Settles O51: an instruction's word by the family `Encodes`, a word's instruction by `encode_of_decodeWord`. -/
theorem decodeAndEncodeAgree : Obligations.DecodeAndEncodeAgree :=
  ⟨decodeWord_of_encode, fun _ _ => encode_of_decodeWord, fun _ => decodeWord_of_no_major⟩

/-- Settles O52: each word is cut into its fields by the decoder, which evaluates. -/
theorem decodeWords : Obligations.DecodeWords :=
  ⟨rfl, rfl, rfl, rfl, rfl, rfl, rfl, rfl, rfl, rfl, rfl, rfl, rfl⟩

end Sys2Proof.Laws
end

section
/-! PROOF. A step runs the decoded instruction (R77 to R81, R85, R317). -/

namespace Sys2Proof.Machine
open Claims

/-! ## The bundle entered and the word at pc -/

/-- A pc that stands at a slot of the global window has no fetch fault (R79). -/
theorem fetchAddr_eq_none {pc : Nat} (hslot : pc / 4 % 4 ≠ 0) (halign : pc % 4 = 0) (hrange : pc < 2 ^ 56) : fetchAddr pc = none := by
  have hbits : ¬(bits pc 2 2 = 0 ∨ pc % 4 ≠ 0) := fun h => h.elim hslot fun h => h halign
  rw [fetchAddr, if_neg hbits, if_neg (by omega), if_neg (by omega)]

/-- The unit that has entered a bundle, or has just read it, stands in it (R78, R80). -/
theorem loadBundle_of_entered {v base : State} {g : Group} {b : Bundle} (h : Entered v g b base) (hpc : fetchAddr g.pc = none) :
    loadBundle v g = .ok (base, { g with bundle := some b }) := by
  obtain ⟨hb, haddr, hwords, rfl⟩ | ⟨hb, lo, hi, t, hread, rfl, rfl⟩ := h
  · have hg : { g with bundle := some b } = g := by rw [← hb]
    simp [loadBundle, hb, haddr, hwords, hg]
  · simp only [loadBundle, hb, Option.filter_none, Option.any_none, Bool.false_eq_true, if_false, hpc, hread]
    rfl

theorem addr_of_entered {v base : State} {g : Group} {b : Bundle} (h : Entered v g b base) : b.addr = g.pc / 16 * 16 := by
  obtain ⟨-, haddr, -⟩ | ⟨-, lo, hi, t, -, -, rfl⟩ := h
  · exact haddr
  · rfl

/-- The issue that the hallmark of a bundle gives to slot k (R81, R84, R85). -/
def Bundle.issueAt (b : Bundle) (uid k : Nat) : Issue :=
  { uid := uid
    uni := hallBit b.hallmark k 0
    stay := hallBit b.hallmark k 3
    holdA := hallBit b.hallmark k 2
    holdB := hallBit b.hallmark k 1
    dist := hallDist b.hallmark k
    waitMask := if hallWaitSlot b.hallmark ≠ 0 ∧ b.waited = false ∧ k = max (hallWaitSlot b.hallmark) b.entry then hallWaitFlags b.hallmark else []
    held := false }

theorem slotIssue_of_bundle {g : Group} {b : Bundle} {w : Word} (hb : g.bundle = some b) (haddr : b.addr = g.pc / 16 * 16) (hslot : g.pc / 4 % 4 ≠ 0)
    (hw : b.words[g.pc / 4 % 4 - 1]? = some w) : slotIssue g = some (w, b.issueAt g.uid (g.pc / 4 % 4)) := by
  have hgo : ¬(b.addr ≠ g.pc / 16 * 16 ∨ bits g.pc 2 2 = 0) := fun h => h.elim (fun h => h haddr) hslot
  have hword : b.words.getD (bits g.pc 2 2 - 1) 0 = w := by rw [List.getD_eq_getElem?_getD]; exact hw ▸ rfl
  simp only [slotIssue, hb, if_neg hgo, hword, Bundle.issueAt, Bool.not_eq_true']
  rfl

/-! ## The units of a partition served -/

/-- What a unit executes when its trap is not due: the instruction at pc, with its issue and its pipe (R77 to R81, R317). -/
theorem runUnit_of_decoded {v base : State} {g : Group} {b : Bundle} {w : Word} {i : Instr} (htrap : trapDue v g = false) (hvis : g.visitor = none)
    (hslot : g.pc / 4 % 4 ≠ 0) (halign : g.pc % 4 = 0) (hrange : g.pc < 2 ^ 56) (h : Entered v g b base)
    (hw : b.words[g.pc / 4 % 4 - 1]? = some w) (hi : decodeWord w = .ok i) :
    runUnit v g = exec i { base with
      cur := b.issueAt g.uid (g.pc / 4 % 4)
      pipes := if g.wait = .none then usePipe base g (b.issueAt g.uid (g.pc / 4 % 4)) i else base.pipes } := by
  have hload := loadBundle_of_entered h (fetchAddr_eq_none hslot halign hrange)
  have haddr := addr_of_entered h
  have hissue : slotIssue { g with bundle := some b } = some (w, b.issueAt g.uid (g.pc / 4 % 4)) := slotIssue_of_bundle rfl haddr hslot hw
  simp only [runUnit, htrap, Bool.false_eq_true, if_false, hload, hissue]
  simp only [hvis, Option.any_none, Bool.false_and, Bool.false_eq_true, if_false, hi]
  rfl

theorem serve_of_issued {v t : State} {uid : Nat} {g : Group} (rest : List Nat) (hg : v.unit? uid = some g) (h : runUnit v g = .next t) (ht : t.cur.held = false) :
    serve (uid :: rest) v = .next { t with cur := Issue.void } := by
  simp only [serve, hg, h, ht, Bool.false_eq_true, if_false]

theorem serve_of_held {v t : State} {uid : Nat} {g : Group} (rest : List Nat) (hg : v.unit? uid = some g) (h : runUnit v g = .next t) (ht : t.cur.held = true) :
    serve (uid :: rest) v = serve rest { t.modUnit uid (fun h => { h with holding := true }) with cur := Issue.void, pipes := v.pipes } := by
  simp only [serve, hg, h, ht, if_true]

theorem serve_of_fault {v : State} {uid : Nat} {g : Group} {f : Fault} (rest : List Nat) (hg : v.unit? uid = some g) (h : runUnit v g = .fault f) :
    serve (uid :: rest) v = .fault f := by
  simp only [serve, hg, h]

/-- A step with nothing on the agenda, in its turn to issue, serves its partition (R317, log 3). -/
theorem step_eq_issueStep {s u : State} {part : Nat} (hu : u = tick s) (hagenda : u.env.agenda = []) (hturn : u.turn % 2 = 1) (hpart : nextPart u = some part) :
    step s = issueStep part u := by
  subst hu
  simp only [step, act, hagenda, hturn, hpart, if_true]

/-- Settles O53: the unit runs its instruction by `runUnit_of_decoded`, and what its partition then does is one of the three outcomes of `serve`. -/
theorem stepRunsInstruction : Obligations.StepRunsInstruction := by
  rintro s u v base part uid rest g b _ w i hu hagenda hturn hpart horder hv hg htrap hvis rfl hslot halign hrange hent hw hi
  have huid : g.uid = uid := State.unit?_uid hg
  have hstep : step s = serve (uid :: rest) v := by
    rw [step_eq_issueStep hu hagenda hturn hpart, issueStep, horder, hv]
  have hrun := runUnit_of_decoded htrap hvis hslot halign hrange hent hw hi
  rw [huid] at hrun
  refine ⟨b.issueAt uid (g.pc / 4 % 4), rfl, rfl, rfl, rfl, rfl, rfl, rfl, rfl, ?_⟩
  rintro _ rfl
  refine ⟨fun t ht hheld => ?_, ?_, fun f hf => ?_⟩
  · rw [hstep, serve_of_issued rest hg (hrun.trans ht) hheld]
  · rintro t ht hheld rfl
    rw [hstep, serve_of_held [] hg (hrun.trans ht) hheld]
    rfl
  · rw [hstep, serve_of_fault rest hg (hrun.trans hf)]
end Sys2Proof.Machine
end

section
/-! PROOF. The faults before an instruction's own effect, in their order (R91). -/

namespace Sys2Proof.Machine
open Claims

/-! ## The gate of a unit that no fault was left to (R91) -/

/-- No flag that stands before the issue is set, no fault is left to the unit, and it is no visitor. -/
structure Unhindered (c : Ctx) (i : Instr) : Prop where
  home : c.g.homeFault = none
  deferred : c.g.deferred = none
  visitor : c.g.visitor = none
  flags : ∀ k ∈ c.s.cur.waitMask ++ i.asyncFlag.toList, (c.g.flag k).set = false
  acquires : i.heldByAcquire = true → ∀ k ∈ c.g.acqFlags, (c.g.flag k).set = false

theorem anySet_iff {g : Group} {fs : List Nat} : anySet g fs = true ↔ ∃ k ∈ fs, (g.flag k).set = true := List.any_eq_true

theorem anySet_eq_false {g : Group} {fs : List Nat} (h : ∀ k ∈ fs, (g.flag k).set = false) : anySet g fs = false :=
  List.any_eq_false.2 fun k hk => by simp [h k hk]

/-- A set flag that the instruction waits for, or would set, holds it. -/
theorem gate_of_set {c : Ctx} {i : Instr} (h : ∃ k ∈ c.s.cur.waitMask ++ i.asyncFlag.toList, (c.g.flag k).set = true) (ops : List Opnd) :
    c.gate i ops = .hold := by
  rw [Ctx.gate, anySet_iff.2 h, Bool.true_or, if_pos rfl]

/-- The flags whose pending faults an instruction raises before it issues. -/
def Ctx.raised (c : Ctx) (i : Instr) : List Nat := c.s.cur.waitMask ++ i.raisesFlag.toList ++ if i.heldByAcquire = true then c.g.acqFlags else []

namespace Unhindered

variable {c : Ctx} {i : Instr} {ops : List Opnd} (h : Unhindered c i)
include h

theorem notHeld : (anySet c.g (c.s.cur.waitMask ++ i.asyncFlag.toList) || (i.heldByAcquire && anySet c.g c.g.acqFlags)) = false := by
  rw [anySet_eq_false h.flags, Bool.false_or]
  cases ha : i.heldByAcquire with
  | false => rfl
  | true => rw [anySet_eq_false (h.acquires ha)]; rfl

/-- A check that fails is the gate's fault. -/
theorem gate_of_check {r : FaultReq} (hr : c.checks i ops = some r) : c.gate i ops = .fault r := by
  simp only [Ctx.gate, h.notHeld, h.home, h.deferred, h.visitor, Option.any_none, Bool.false_eq_true, if_false, hr]

/-- After the checks, a flag's pending fault. -/
theorem gate_of_pending {k : Nat} {f : FlagFault} (hr : c.checks i ops = none) (hp : pendingOf c.g (c.raised i) = some (k, f)) :
    c.gate i ops = .flag k f := by
  rw [Ctx.raised] at hp
  simp only [Ctx.gate, h.notHeld, h.home, h.deferred, h.visitor, Option.any_none, Bool.false_eq_true, if_false, hr, hp]

/-- A fault at the gate is the instruction's own fault: nothing else was left to the unit. -/
theorem fault_eq (r : FaultReq) : ({ c with g := { c.g with homeFault := none, deferred := none } } : Ctx).fault i r = c.fault i r := by
  have hg : { c.g with homeFault := none, deferred := none } = c.g := calc
    _ = { c.g with homeFault := c.g.homeFault, deferred := c.g.deferred } := by rw [h.home, h.deferred]
    _ = c.g := rfl
  rw [hg]

end Unhindered

/-! ## The checks of R91, in their order -/

theorem checks_of_illegal {c : Ctx} {i : Instr} (h : i.legal c.uni = false) (ops : List Opnd) : c.checks i ops = some (Ctx.faultReq 0x01 0) := by
  rw [Ctx.checks, h]
  rfl

/-- No unit of the core or of its service level is missing that the instruction needs (R15, R207). -/
structure Provided (c : Ctx) (i : Instr) : Prop where
  legal : i.legal c.uni = true
  matrix : i.needsMatrix = true → isStackCore c.g.core = false
  lattice : i.isLattice = true → c.s.service ≠ 1

theorem checks_of_absent {c : Ctx} {i : Instr} (hl : i.legal c.uni = true)
    (h : (i.needsMatrix = true ∧ isStackCore c.g.core = true) ∨ (i.isLattice = true ∧ c.s.service = 1)) (ops : List Opnd) :
    c.checks i ops = some (Ctx.faultReq 0x42 0) := by
  have hor : ((i.needsMatrix && isStackCore c.g.core) || (i.isLattice && c.s.service == 1)) = true := by simpa using h
  rw [Ctx.checks, hl, hor]
  rfl

namespace Provided

variable {c : Ctx} {i : Instr} {ops : List Opnd} (h : Provided c i)
include h

/-- What is left of the checks. -/
theorem checks_eq : c.checks i ops =
    if (i.isXsig || ops.any Ctx.namesTwin) && c.twin?.isNone then some (Ctx.faultReq 0x43 0)
    else ((ops.findSome? c.outside).map (Ctx.faultReq 0x06)).or ((ops.findSome? c.voidLatch).map (Ctx.faultReq 0x07)) := by
  have hm : (i.needsMatrix && isStackCore c.g.core) = false := by simpa using h.matrix
  have hs : (i.isLattice && c.s.service == 1) = false := by simpa using h.lattice
  rw [Ctx.checks, h.legal, hm, hs]
  cases ops.findSome? c.outside <;> cases ops.findSome? c.voidLatch <;> rfl

theorem checks_of_noTwin (hx : i.isXsig = true ∨ ∃ o ∈ ops, Ctx.namesTwin o = true) (ht : c.twin? = none) :
    c.checks i ops = some (Ctx.faultReq 0x43 0) := by
  have hor : (i.isXsig || ops.any Ctx.namesTwin) = true := by simpa using hx
  rw [h.checks_eq, hor, ht]
  rfl

theorem checks_of_twin (ht : c.twin? ≠ none ∨ (i.isXsig = false ∧ ∀ o ∈ ops, Ctx.namesTwin o = false)) :
    c.checks i ops = ((ops.findSome? c.outside).map (Ctx.faultReq 0x06)).or ((ops.findSome? c.voidLatch).map (Ctx.faultReq 0x07)) := by
  rw [h.checks_eq, if_neg]
  rw [Bool.and_eq_true, Option.isNone_iff_eq_none, Bool.or_eq_true, List.any_eq_true]
  rintro ⟨hx | ⟨o, ho, hn⟩, htw⟩
  · obtain ht | ⟨hx', -⟩ := ht
    · exact ht htw
    · exact Bool.false_ne_true (hx'.symm.trans hx)
  · obtain ht | ⟨-, hn'⟩ := ht
    · exact ht htw
    · exact Bool.false_ne_true ((hn' o ho).symm.trans hn)

end Provided

/-! ## Every row with a word stands behind its gate -/

/-- A fault of step 4 of R91 that an address leads to: a far home at S1, or one that a load into a twin register leads to. -/
def FarFault (c : Ctx) (i : Instr) (k : Nat) : Prop :=
  i.heldByAcquire = true ∧ (c.s.service = 1 ∨ ∃ o ∈ i.opnds c.uni, Ctx.namesTwin o = true) ∧ (k = 0x42 ∨ k = 0x43)

/-- An instruction issues through its gate, with these operands; one whose address is looked at first may meet a fault of a far home before. -/
inductive Gated (i : Instr) (ops : Ctx → List Opnd) : Prop where
  | near (body : Ctx → State) (h : exec i = issueOps i ops body)
  | far (first : Ctx → List Opnd) (code : Ctx → Option Nat) (body : Ctx → State) (h : exec i = issueFar i first code (issueOps i ops body))
    (hcode : ∀ c k, code c = some k → FarFault c i k)

/-- The operands that the gate of an instruction checks: calls name registers by the launch's table, a reply by its call (R209, R215). -/
def Ctx.gateOpnds (i : Instr) (c : Ctx) : List Opnd :=
  match i with
  | .rcall _ r _ a p e | .rcallRetry _ r _ a p e => c.callOpnds r a p e
  | .rret a => match c.g.visitor with | some v => [.src a.toNat v.replies] | none => []
  | i => i.opnds c.uni

theorem gateOpnds_eq {i : Instr} (hcall : ∀ h r l a p e, i ≠ .rcall h r l a p e ∧ i ≠ .rcallRetry h r l a p e) (hret : ∀ a, i ≠ .rret a) (c : Ctx) :
    c.gateOpnds i = i.opnds c.uni := by
  unfold Ctx.gateOpnds
  split
  · exact absurd rfl (hcall _ _ _ _ _ _).1
  · exact absurd rfl (hcall _ _ _ _ _ _).2
  · exact absurd rfl (hret _)
  · rfl

theorem crossAtS1_eq_some {c : Ctx} {cross : Bool} {k : Nat} (h : c.crossAtS1 cross = some k) : c.s.service = 1 ∧ k = 0x42 := by
  unfold Ctx.crossAtS1 at h
  split at h
  · next hc =>
    cases h
    exact ⟨eq_of_beq (Bool.and_eq_true_iff.1 hc).1, rfl⟩
  · cases h

/-- The fault of a crossing at S1 (R28, R349). -/
theorem farFault_of_crossAtS1 {c : Ctx} {i : Instr} {cross : Bool} {k : Nat} (hi : i.heldByAcquire = true) (h : c.crossAtS1 cross = some k) :
    FarFault c i k :=
  ⟨hi, .inl (crossAtS1_eq_some h).1, .inl (crossAtS1_eq_some h).2⟩

theorem farMemory_eq_some {c : Ctx} {op : MemOp} {k : Nat} (h : c.farMemory op = some k) :
    (c.s.service = 1 ∧ k = 0x42) ∨ (op.kind.returns = true ∧ op.posted = false ∧ 120 ≤ op.d ∧ op.d < 128 ∧ k = 0x43) := by
  unfold Ctx.farMemory at h
  extract_lets toTwin at h
  split at h
  · cases h
  split at h
  · cases h
  split at h
  · next hs => cases h; exact .inl ⟨eq_of_beq (Bool.and_eq_true_iff.1 hs).1, rfl⟩
  split at h
  · next hs =>
    cases h
    have ht : ((op.kind.returns = true ∧ op.posted = false) ∧ 120 ≤ op.d) ∧ op.d < 128 := by simpa [toTwin] using (Bool.and_eq_true_iff.1 hs).1
    obtain ⟨⟨⟨hk, hp⟩, hl⟩, hu⟩ := ht
    exact .inr ⟨hk, hp, hl, hu, rfl⟩
  · cases h

/-- A memory instruction whose destination, if it brings a value back, is among its operands. -/
theorem gated_of_mem {i : Instr} {op : MemOp} (h : exec i = issueMem i op) (hops : ∀ c : Ctx, c.gateOpnds i = i.opnds c.uni) (hi : i.heldByAcquire = true)
    (hd : op.kind.returns = true → op.d < 128 → ∀ u, ∃ n, .dst op.d n ∈ i.opnds u) : Gated i fun c => c.gateOpnds i := by
  have hfun : (fun c : Ctx => c.gateOpnds i) = fun c => i.opnds c.uni := funext hops
  refine hfun ▸ .far _ _ _ h fun c k hk => ?_
  obtain ⟨hs, rfl⟩ | ⟨hr, -, hlo, hhi, rfl⟩ := farMemory_eq_some hk
  · exact ⟨hi, .inl hs, .inl rfl⟩
  · obtain ⟨n, hn⟩ := hd hr hhi c.uni
    exact ⟨hi, .inr ⟨_, hn, by simp [Ctx.namesTwin, hlo]⟩, .inr rfl⟩

/-- An atomic that brings its old value back names its destination first. -/
theorem atomicOp_dst_mem {k : Nat} {d a : BitVec 7} {b : BitVec 5} {s : BitVec 3} {o : BitVec 2} {p : BitVec 1} {l : List Opnd}
    (h : (atomicOp k d a b s o p).d < 128) : Opnd.dst (atomicOp k d a b s o p).d 1 ∈ .dst d.toNat 1 :: l := by
  have hp : p ≠ 1#1 := fun hp => by simp [atomicOp, hp] at h
  simp [atomicOp, hp]

/-- Every row with a word issues through its gate; those that look at an address first are the memory accesses, MIGR and the calls. -/
theorem gated_of_encode {i : Instr} (h : encode i ≠ none) : Gated i fun c => c.gateOpnds i := by
  cases i with
  | ldb | ldh | ldw | ldd | ldba | ldha | ldwa | ldda =>
    exact gated_of_mem rfl (fun _ => rfl) rfl fun _ _ _ => ⟨_, List.mem_cons_self⟩
  | stb | sth | stw | std | stbl | sthl | stwl | stdl | stn | stbm =>
    exact gated_of_mem rfl (fun _ => rfl) rfl fun hr => absurd hr Bool.false_ne_true
  | aadd | asub | amins | amaxs | aminu | amaxu | aand | aor | axor | axch | acas | afadd | afmin | afmax | aincw | adecw =>
    exact gated_of_mem rfl (fun _ => rfl) rfl fun _ hd _ => ⟨1, atomicOp_dst_mem hd⟩
  | migrAddr | migrLaunch | rcall | rcallRetry => exact .far _ _ _ rfl fun _ _ hk => farFault_of_crossAtS1 rfl hk
  | nop | bra | brc | call | ret | jtab | pad | exit | trap | loop | winb | swinb | live | pause | sleep | iadd | isub | imul | imad | imnx | isetp
  | sel | iaddc | land | lor | lxor | andn | shl | shr | bfx | bitop | iaddi | andi | ori | xori | shi | movi | movhi | isetpi | fadd | fmul | ffma
  | fmnx | fsetp | fsfu | fcvt | fclass | hadd2 | hmul2 | hfma2 | bfma2 | dot4 | pcvt | mov | idx | plop | vote | shfl | redux | pmov | pset
  | migrCore | home | rejoin | barArrive | barWait | barSync | barInit | fence | ljoin | ljoinr | lld | lldw | lstx | lflush | lepoch | rret | rstat
  | tmove | tstat | tstatProm | mldw | mswap | mstream | mdrain | mlicAcq | mlicTry | mlicRel | mlicQry | xsigSig | xsigWait | xsigSync | csrr | csrw
  | eret | cycle | tracem =>
    exact .near _ rfl
  | _ => exact absurd rfl h

/-! ## What an instruction behind its gate does -/

theorem issueOps_of_hold {s : State} {c : Ctx} {i : Instr} {ops : Ctx → List Opnd} {body : Ctx → State} (hc : ctx? s = some c) (h : c.gate i (ops c) = .hold) :
    issueOps i ops body s = .next (hold s) := by
  simp only [issueOps, hc, h]

theorem Unhindered.issueOps_of_fault {s : State} {c : Ctx} {i : Instr} {ops : Ctx → List Opnd} {body : Ctx → State} {r : FaultReq} (hu : Unhindered c i)
    (hc : ctx? s = some c) (h : c.gate i (ops c) = .fault r) : issueOps i ops body s = .next (c.fault i r) := by
  simp only [issueOps, hc, h, hu.fault_eq]

theorem issueOps_of_flag {s : State} {c : Ctx} {i : Instr} {ops : Ctx → List Opnd} {body : Ctx → State} {k : Nat} {f : FlagFault} (hc : ctx? s = some c)
    (h : c.gate i (ops c) = .flag k f) : issueOps i ops body s = .next (c.failFlag i k f) := by
  simp only [issueOps, hc, h]

/-- An instruction whose address alone is refused at the gate meets no fault of a far home. -/
theorem issueFar_of_refused {s : State} {c : Ctx} {i : Instr} {first : Ctx → List Opnd} {code : Ctx → Option Nat} {run : State → Host.Outcome State Fault Refusal}
    (hc : ctx? s = some c) (h : c.gate i (first c) = .hold ∨ ∃ r, c.gate i (first c) = .fault r) : issueFar i first code run s = run s := by
  have hfar : farFault i first code s = none := by
    obtain h | ⟨r, h⟩ := h <;> cases hk : code c <;> simp [farFault, hc, hk, h]
  rw [issueFar, hfar]

/-- An instruction that looks at its address first issues, or meets there the fault that its far home has. -/
theorem issueFar_cases {s : State} {c : Ctx} {i : Instr} {first : Ctx → List Opnd} {code : Ctx → Option Nat} {run : State → Host.Outcome State Fault Refusal}
    (hc : ctx? s = some c) : issueFar i first code run s = run s ∨ ∃ k, code c = some k ∧ issueFar i first code run s = .next (c.fail i k 0) := by
  rw [issueFar, farFault, hc, Option.bind_some]
  cases hk : code c with
  | none => exact .inl (by rw [Option.bind_none])
  | some k =>
    rw [Option.bind_some]
    cases c.gate i (first c) with
    | hold | fault => exact .inl rfl
    | flag | go => exact .inr ⟨k, rfl, rfl⟩

namespace Gated

variable {s : State} {c : Ctx} {i : Instr} {ops : Ctx → List Opnd} (hi : Gated i ops) (hc : ctx? s = some c)
include hi hc

/-- What holds an instruction, whatever its operands, leaves it to issue later. -/
theorem exec_of_hold (h : ∀ os, c.gate i os = .hold) : exec i s = .next (hold s) := by
  cases hi with
  | near body he => exact he ▸ issueOps_of_hold hc (h _)
  | far first code body he hcode => exact he ▸ (issueFar_of_refused hc (.inl (h _))).trans (issueOps_of_hold hc (h _))

/-- A fault at the gate, whatever the operands, is the instruction's. -/
theorem exec_of_fault (hu : Unhindered c i) {r : FaultReq} (h : ∀ os, c.gate i os = .fault r) : exec i s = .next (c.fault i r) := by
  cases hi with
  | near body he => exact he ▸ hu.issueOps_of_fault hc (h _)
  | far first code body he hcode => exact he ▸ (issueFar_of_refused hc (.inr ⟨r, h _⟩)).trans (hu.issueOps_of_fault hc (h _))

/-- What the gate makes of the operands is what the instruction meets, if its address leads to no fault before. -/
theorem meets {t : State} (h : ∀ body, issueOps i ops body s = .next t) : Meets s c i t := by
  cases hi with
  | near body he => exact .inl (he ▸ h body)
  | far first code body he hcode =>
    obtain hrun | ⟨k, hk, hfar⟩ := issueFar_cases (i := i) (first := first) (code := code) (run := issueOps i ops body) hc
    · exact .inl (he ▸ hrun.trans (h body))
    · obtain ⟨ha, hwhy, rfl | rfl⟩ := hcode c k hk
      · exact .inr ⟨ha, hwhy, .inl (he ▸ hfar)⟩
      · exact .inr ⟨ha, hwhy, .inr (he ▸ hfar)⟩

end Gated

/-- Settles O57: every row with a word issues through its gate (`gated_of_encode`), and the gate's checks stand in the order of R91. -/
theorem faultsInOrder : Obligations.FaultsInOrder := by
  intro s c i hc hw hhome hdef hvis
  have hgated := gated_of_encode hw
  refine ⟨fun hset => hgated.exec_of_hold hc (gate_of_set hset), fun hflags hacq => ?_⟩
  have hu : Unhindered c i := ⟨hhome, hdef, hvis, hflags, hacq⟩
  refine ⟨fun hl => hgated.exec_of_fault hc hu fun os => hu.gate_of_check (checks_of_illegal hl os),
    fun hl ha => hgated.exec_of_fault hc hu fun os => hu.gate_of_check (checks_of_absent hl ha os), fun hl hm hlat => ?_⟩
  have hp : Provided c i := ⟨hl, hm, hlat⟩
  refine ⟨fun hx ht => hgated.exec_of_fault hc hu fun os => hu.gate_of_check (hp.checks_of_noTwin (.inl hx) ht), fun hcall hret => ?_⟩
  have hops := gateOpnds_eq hcall hret c
  refine ⟨fun hx ht => hgated.meets hc fun _ => hu.issueOps_of_fault hc (hu.gate_of_check ?_), fun ht => ?_⟩
  · rw [hops]
    exact hp.checks_of_noTwin (.inr hx) ht
  have hchecks := hp.checks_of_twin ht
  refine ⟨fun k ho => hgated.meets hc fun _ => hu.issueOps_of_fault hc (hu.gate_of_check ?_),
    fun f ho hv => hgated.meets hc fun _ => hu.issueOps_of_fault hc (hu.gate_of_check ?_),
    fun k f ho hv hpend => hgated.meets hc fun _ => issueOps_of_flag hc (hu.gate_of_pending ?_ hpend)⟩
  · rw [hops, hchecks, ho]
    rfl
  · rw [hops, hchecks, ho, hv]
    rfl
  · rw [hops, hchecks, ho, hv]
    rfl
end Sys2Proof.Machine
end

section
/-! PROOF. Control transfers (R79, R130, R133 to R135): targets, scalars written by a transfer, jump tables. -/

namespace Sys2Proof.Machine
open Claims

/-! ## Transfer targets (R79) -/

/-- The signed value of a field of n bits is that of its bit vector. -/
theorem sext_toNat {n : Nat} (hn : 0 < n) (x : BitVec n) : sext x.toNat n = x.toInt := by
  have hpow : 2 ^ (n - 1) * 2 = 2 ^ n := Nat.two_pow_pred_mul_two hn
  rw [sext, Nat.mod_eq_of_lt x.isLt, BitVec.toInt_eq_toNat_cond]
  have : (2 * x.toNat < 2 ^ n) ↔ x.toNat < 2 ^ (n - 1) := by omega
  simp only [this]
  split <;> simp

/-- An integer modulo 2^n is that of its bit vector. -/
theorem wrap_eq_ofInt (n : Nat) (z : Int) : wrap n z = (BitVec.ofInt n z).toNat := by
  rw [BitVec.toNat_ofInt, wrap]
  norm_cast

theorem branchTarget_eq (c : Ctx) (o : BitVec 16) : branchTarget c.g.pc o = target c o := by
  rw [branchTarget, target, sext_toNat (by decide), wrap_eq_ofInt, BitVec.ofInt_add, BitVec.ofInt_mul, BitVec.signExtend, BitVec.ofInt_natCast]
  rfl

/-- The target of an entry of a jump table (R135). -/
theorem wrap_tableTarget (t off : Nat) : wrap 64 (t + sext off 32) = (BitVec.ofNat 64 t + (BitVec.ofNat 32 off).signExtend 64).toNat := by
  have hoff : sext off 32 = (BitVec.ofNat 32 off).toInt := by
    rw [← sext_toNat (by decide), BitVec.toNat_ofNat]
    simp [sext]
  rw [hoff, wrap_eq_ofInt, BitVec.ofInt_add, BitVec.signExtend, BitVec.ofInt_natCast]

/-- What the check of a target asks first (R79), in bits. -/
theorem slotBits_iff (t : Nat) : bits t 2 2 = 0 ∨ bits t 0 2 ≠ 0 ↔ t % 4 ≠ 0 ∨ t / 4 % 4 = 0 := by
  simp only [bits]
  omega

/-- What a transfer target meets before the page tables (R79). -/
theorem targetChecks : TargetChecks := by
  refine fun s g t => ⟨fun h => ?_, fun ha hs hd => ?_, fun ha hs h0 hd => ?_, fun ha hs h0 p hp hr => ?_⟩
  · rw [checkTarget, if_pos ((slotBits_iff t).2 h)]
  all_goals
    have hslot : ¬(bits t 2 2 = 0 ∨ bits t 0 2 ≠ 0) := fun h => ((slotBits_iff t).1 h).elim (fun h => h ha) hs
  · rw [checkTarget, if_neg hslot, if_pos hd]
  · rw [checkTarget, if_neg hslot, if_neg (by omega), if_pos (by omega)]
  · rw [checkTarget, if_neg hslot, if_neg (by omega), if_neg (by omega), hp]
    exact if_pos hr

/-! ## Scalars written by a transfer -/

/-- Scalars written as a list of window numbers. -/
def Ctx.scalWrites (c : Ctx) (l : List (Nat × Word)) : List PendWrite := l.flatMap fun e => c.sdst e.1 0 e.2

theorem scalWrites_cons (c : Ctx) (e : Nat × Word) (l : List (Nat × Word)) :
    c.scalWrites (e :: l) = { reg := .scal (c.g.swb + e.1), mask := 1#32, vals := [e.2], cls := 0, k := 0 } :: c.scalWrites l := rfl

theorem lastWrite_scalWrites (c : Ctx) (l : List (Nat × Word)) {r : Reg} (hr : ∀ n, r ≠ .scal n) (j : Nat) : lastWrite (c.scalWrites l) r j = none := by
  induction l with
  | nil => rfl
  | cons e l ih => rw [scalWrites_cons, lastWrite_cons, ih, if_neg fun h => hr _ h.1.symm]; rfl

theorem lastPred_scalWrites (c : Ctx) (l : List (Nat × Word)) (k j : Nat) : lastPred (c.scalWrites l) k j = none := by
  induction l with
  | nil => rfl
  | cons e l ih => rw [scalWrites_cons, lastPred_cons, ih, if_neg fun h => Reg.noConfusion h.1]; rfl

/-- Of writes to different scalars each stands. -/
theorem lastScalar_scalWrites (c : Ctx) {l : List (Nat × Word)} (hl : (l.map (·.1)).Nodup) (pc k : Nat) :
    lastScalar (c.scalWrites l) k = (Effect.scals c l pc).scal k := by
  induction l with
  | nil => rfl
  | cons e l ih =>
    rw [List.map_cons, List.nodup_cons] at hl
    rw [scalWrites_cons, lastScalar_cons, ih hl.2]
    by_cases hk : k = c.g.swb + e.1
    · subst hk
      have hnone : l.find? (fun x => c.g.swb + e.1 == c.g.swb + x.1) = none := List.find?_eq_none.2 fun x hx hxk =>
        hl.1 (List.mem_map.2 ⟨x, hx, Nat.add_left_cancel (eq_of_beq hxk).symm⟩)
      simp [Effect.scals, hnone, laneAt]
    · simp [Effect.scals, hk, Ne.symm hk]

/-- An instruction that writes scalars, each once, and goes on at a pc. -/
theorem scals_done {c : Ctx} (h : Seen c) (i : Instr) {l : List (Nat × Word)} (hl : (l.map (·.1)).Nodup) (pc : Nat) (jump : Bool) :
    Done c (c.retire i none (c.scalWrites l) pc jump) (Effect.scals c l pc) :=
  (retire_done h i none _ pc jump).congr (fun _ _ _ => lastWrite_scalWrites c l (fun _ => Reg.noConfusion) _) (lastScalar_scalWrites c hl pc)
    (fun _ _ _ => lastWrite_scalWrites c l (fun _ => Reg.noConfusion) _) (fun _ _ _ => lastPred_scalWrites c l _ _) rfl

/-! ## BRA, CALL, RET and LOOP (R130, R133, R134) -/

/-- A transfer to a target that passes its check (R79). -/
theorem jump_done {c : Ctx} (h : Seen c) (i : Instr) {l : List (Nat × Word)} (hl : (l.map (·.1)).Nodup) {t : Nat} (ht : checkTarget c.s c.g t = none) :
    Done c (c.jump i t (c.scalWrites l)) (Effect.scals c l t) := by
  rw [Ctx.jump, ht]
  exact scals_done h i hl t true

theorem jump_of_fault {c : Ctx} (i : Instr) {t : Nat} {e : Nat × Option WalkErr} (ws : List PendWrite) (ht : checkTarget c.s c.g t = some e) :
    c.jump i t ws = c.failTarget i t e := by
  rw [Ctx.jump, ht]

/-- BRA, CALL and RET are jumps to the target of R130 and R134, with the writes given there. -/
theorem exec_of_jumps {s : State} {c : Ctx} {i : Instr} {t : Nat} {l : List (Nat × Word)} (h : Issues s i c) (hj : jumps c i = some (t, l)) :
    exec i s = .next (c.jump i t (c.scalWrites l)) ∧ (l.map (·.1)).Nodup := by
  cases i with
  | bra o =>
    cases hj
    exact ⟨(issue_clear h).trans (by rw [branchTarget_eq]; rfl), List.nodup_nil⟩
  | call r o =>
    cases hj
    exact ⟨(issue_clear h).trans (by rw [branchTarget_eq]; rfl), by simp⟩
  | ret a =>
    cases hj
    exact ⟨issue_clear h, List.nodup_nil⟩
  | _ => cases hj

/-- BRA, CALL and RET (R130, R134). -/
theorem jumpsGoToTheirTarget : JumpsGoToTheirTarget := by
  intro s c i t l h hj
  obtain ⟨hexec, hl⟩ := exec_of_jumps h hj
  have hs : c.s = s := ctx?_state h.1
  exact ⟨fun ht => ⟨_, hexec, jump_done (ctx?_seen h.1) i hl (hs ▸ ht)⟩, fun e he => hexec.trans (by rw [jump_of_fault i _ (hs ▸ he)])⟩

/-- LOOP (R133): the scalar is 0 after the decrement exactly when it was 1. -/
theorem loopCountsDown : LoopCountsDown := by
  intro s c k o h
  have hs : c.s = s := ctx?_state h.1
  have hseen := ctx?_seen h.1
  have hexec : exec (.loop k o) s = .next _ := issue_clear h
  have hone : c.sreg k.toNat - 1 = 0 ↔ c.sreg k.toNat = 1 := by bv_omega
  simp only [branchTarget_eq, hone] at hexec
  refine ⟨fun h1 => ⟨_, hexec, ?_⟩, fun h1 ht => ⟨_, hexec, ?_⟩, fun h1 e he => hexec.trans ?_⟩
  · rw [if_pos h1, h1]
    exact scals_done hseen (.loop k o) (l := [(k.toNat, 0)]) (by simp) _ false
  · rw [if_neg h1, hs, ht]
    exact scals_done hseen (.loop k o) (l := [(k.toNat, c.sreg k.toNat - 1)]) (by simp) _ true
  · rw [if_neg h1, hs, he]

/-! ## JTAB (R135) -/

/-- A read without migration touches the translation buffers and the free value of peers' words at most. -/
theorem keepsSeats_readOver {s t : State} {core a n v : Nat} {p : Page} (h : readOver s core p a n = .ok (v, t)) : KeepsSeats s t := by
  unfold readOver at h
  split at h
  · split at h
    · cases h
    · split at h <;> cases h
      exact .of_eq rfl rfl
  · dsimp only at h
    split at h
    · cases h
    · split at h <;> cases h
      exact .of_eq rfl rfl

theorem keepsSeats_notePage (s : State) (buffer : Nat) (root : DWord) (a : Nat) : KeepsSeats s (s.notePage buffer root a) := by
  unfold State.notePage
  dsimp only
  split <;> exact .of_eq rfl rfl

theorem keepsSeats_readFor {s t : State} {g : Group} {k : TKind} {a n v : Nat} (h : readFor s g k a n = .ok (v, t)) : KeepsSeats s t := by
  unfold readFor at h
  split at h
  · cases h
  · exact (keepsSeats_notePage ..).trans (keepsSeats_readOver h)

/-- JTAB with a table that can be read (R135). -/
theorem jumpTableGoesToItsEntry : JumpTableGoesToItsEntry := by
  intro s s₁ s₂ s₃ c a b t h off w tgt hi ht hlt halign hread
  have hs : c.s = s := ctx?_state hi.1
  have hexec : exec (.jtab a b) s = .next _ := issue_clear hi
  have hspair : c.spair b.toNat = t := ht.symm
  have hlow : ¬t / 2 ^ 56 ≠ 0 := by omega
  simp only [hs, hspair, if_neg hlow, if_neg (Decidable.not_not.2 halign), hread] at hexec
  refine ⟨fun hbad => hexec.trans ?_, fun hz hz' hx hn hoff htgt hcheck hland => ?_⟩
  · rw [if_pos (by simp only [bits]; omega)]
  · have hgood : ¬(bits h 13 19 ≠ 0 ∨ bits h 56 8 ≠ 0 ∨ bits h 0 13 = 0 ∨ 4096 < bits h 0 13 ∨ bits h 0 13 ≤ (c.sreg a.toNat).toNat) := by
      simp only [bits]
      omega
    rw [← wrap_tableTarget] at htgt
    have hpad : (bits w 25 7 ≠ 0x07 ∨ bits w 0 24 ≠ bits h 32 24) ↔ ¬(w / 2 ^ 25 % 128 = 7 ∧ w % 16777216 = h / 2 ^ 32 % 16777216) := by
      simp only [bits]
      omega
    simp only [if_neg hgood, hoff, ← htgt, hcheck, hland, hpad] at hexec
    have hseats : KeepsSeats c.s s₃ := hs ▸ ((keepsSeats_readFor hread).trans (keepsSeats_readFor hoff)).trans (keepsSeats_readFor hland)
    refine ⟨fun hp => ⟨_, hexec, ?_⟩, fun hp => hexec.trans ?_⟩
    · rw [if_neg (Decidable.not_not.2 hp)]
      exact scals_done ((ctx?_seen hi.1).of_keepsSeats hseats) (.jtab a b) (l := []) List.nodup_nil tgt true
    · rw [if_pos hp]

/-- Settles O7: the transfers are jumps to their target, and what they write are scalars (`exec_of_jumps`, `scals_done`). -/
theorem controlTransfers : Obligations.ControlTransfers := ⟨targetChecks, jumpsGoToTheirTarget, loopCountsDown, jumpTableGoesToItsEntry⟩
end Sys2Proof.Machine
end

section
/-! PROOF. Residue matrix passes (R117 to R119, R125, O34): the three residues give back every integer of their range, and no column of
products leaves it. -/

namespace Sys2Proof.Machine
open Claims

/-! ## The residue triple (R117, R119) -/

/-- The weights of the reconstruction add to 1 modulo 509 × 511 × 512, and each vanishes against its own modulus. -/
theorem residues_weighted (z : Int) :
    z % 509 * 22238720 + z % 511 * 66455040 + z % 512 * 44476929 =
      z + 133170688 * (z - 85 * (z / 509) - 255 * (z / 511) - 171 * (z / 512)) := by
  omega

/-- The reconstruction of R119 finds the integer of the range of R117 to which the weighted sum is congruent. -/
theorem rtJoin_of_weighted {z t : Int} {a b c : Nat} (h : (a : Int) * 22238720 + b * 66455040 + c * 44476929 = z + 133170688 * t)
    (hlo : -66585344 ≤ z) (hhi : z ≤ 66585343) : rtJoin a b c = z := by
  rw [rtJoin]
  split <;> omega

/-- The reconstruction of R119 gives back an integer of the range of R117. -/
theorem rtJoin_residues {z : Int} (hlo : -66585344 ≤ z) (hhi : z ≤ 66585343) :
    rtJoin (z % 509).toNat (z % 511).toNat (z % 512).toNat = z := by
  have hnn (k : Int) (hk : k ≠ 0) : ((z % k).toNat : Int) = z % k := Int.toNat_of_nonneg (Int.emod_nonneg z hk)
  refine rtJoin_of_weighted (t := z - 85 * (z / 509) - 255 * (z / 511) - 171 * (z / 512)) ?_ hlo hhi
  rw [hnn 509 (by decide), hnn 511 (by decide), hnn 512 (by decide)]
  exact residues_weighted z

/-! ## The bound of a column (R121, R125) -/

theorem natAbs_sext_lt (x n : Nat) : (sext x n).natAbs < 2 ^ n := by
  have hx : x % 2 ^ n < 2 ^ n := Nat.mod_lt _ (Nat.two_pow_pos n)
  have hhalf : 0 < 2 ^ (n - 1) := Nat.two_pow_pos _
  have hcast : ((2 : Int) ^ n) = ((2 ^ n : Nat) : Int) := (Int.natCast_pow 2 n).symm
  rw [sext, hcast]
  split <;> omega

/-- An element of a residue-mode code is smaller than 2 to its width, signed or not. -/
theorem natAbs_elemInt_lt {c x : Nat} (hx : x < 2 ^ elemWidth c) : (elemInt c x).natAbs < 2 ^ elemWidth c := by
  rw [elemInt]
  split
  · exact natAbs_sext_lt x _
  · exact hx

/-- A cell takes four products of bytes or eight of half bytes (R121). -/
theorem elemP_of_residue {c : Nat} (hlo : 7 ≤ c) (hhi : c < 12) : elemP c = 4 ∨ elemP c = 8 := by
  have hall : ∀ c, c < 12 → 7 ≤ c → elemP c = 4 ∨ elemP c = 8 := by decide
  exact hall c hhi hlo

/-- The elements of a residue-mode cell fill its word. -/
theorem elemWidth_of_residue {c : Nat} (hlo : 7 ≤ c) (hhi : c < 12) : elemWidth c = 32 / elemP c := by
  have hall : ∀ c, c < 12 → 7 ≤ c → elemWidth c = 32 / elemP c := by decide
  exact hall c hhi hlo

theorem natAbs_sum_le (l : List Int) (b : Nat) (h : ∀ x ∈ l, x.natAbs ≤ b) : l.sum.natAbs ≤ l.length * b := by
  induction l with
  | nil => exact Nat.zero_le _
  | cons x l ih =>
    have hx : x.natAbs ≤ b := h x List.mem_cons_self
    have hl : l.sum.natAbs ≤ l.length * b := ih fun y hy => h y (List.mem_cons_of_mem x hy)
    rw [List.sum_cons, List.length_cons, Nat.succ_mul]
    omega

/-- Product j of cell (l, n) of a residue pass (R125). -/
def cellProduct (fb act : Nat) (cell : Word) (l j : Nat) : Int :=
  elemInt (fbA fb) (bits act (elemWidth (fbA fb) * (elemP (fbA fb) * l + j)) (elemWidth (fbA fb))) *
    elemInt (fbB fb) (bits cell.toNat (elemWidth (fbB fb) * j) (elemWidth (fbB fb)))

/-- The products of a cell, summed. -/
def cellSum (fb act : Nat) (cell : Word) (l : Nat) : Int := ((List.range (elemP (fbA fb))).map (cellProduct fb act cell l)).sum

theorem passSum_eq (fb act : Nat) (m : Matrix) (n : Nat) :
    passSum fb act m n = ((List.range 128).map fun l => cellSum fb act (laneAt (lookupD m.active l []) n) l).sum := rfl

/-- A cell without scales contributes the sum of its products. -/
theorem cellResidue_unscaled (fb act : Nat) (cell : Word) (l : Nat) : cellResidue fb act cell l none none = (cellSum fb act cell l, false) := by
  unfold cellSum cellProduct
  rw [List.sum_eq_foldl, cellResidue, if_neg (by simp)]
  exact congrArg (·, false) (Int.mul_one _)

/-- What a valid format block (R122) says of the two element codes of a residue pass. -/
theorem residue_codes {fb : Nat} (hok : fbOk fb = true) (hres : elemResidue (fbA fb) = true) :
    (7 ≤ fbA fb ∧ fbA fb < 12) ∧ (7 ≤ fbB fb ∧ fbB fb < 12) ∧ elemP (fbA fb) = elemP (fbB fb) := by
  simp only [fbOk, Bool.and_eq_true, decide_eq_true_eq, beq_iff_eq, and_assoc] at hok
  obtain ⟨hahi, hbhi, -, -, hmode, hp, -⟩ := hok
  exact ⟨⟨of_decide_eq_true hres, hahi⟩, ⟨of_decide_eq_true (hmode.symm.trans hres), hbhi⟩, hp⟩

theorem bits_lt (x lo n : Nat) : bits x lo n < 2 ^ n := Nat.mod_lt _ (Nat.two_pow_pos n)

theorem natAbs_cellProduct_le (fb act : Nat) (cell : Word) (l j : Nat) :
    (cellProduct fb act cell l j).natAbs ≤ (2 ^ elemWidth (fbA fb) - 1) * (2 ^ elemWidth (fbB fb) - 1) := by
  rw [cellProduct, Int.natAbs_mul]
  exact Nat.mul_le_mul (Nat.le_sub_one_of_lt (natAbs_elemInt_lt (bits_lt ..))) (Nat.le_sub_one_of_lt (natAbs_elemInt_lt (bits_lt ..)))

theorem natAbs_cellSum_le {fb : Nat} (hok : fbOk fb = true) (hres : elemResidue (fbA fb) = true) (act : Nat) (cell : Word) (l : Nat) :
    (cellSum fb act cell l).natAbs ≤ 260100 := by
  obtain ⟨⟨halo, hahi⟩, ⟨hblo, hbhi⟩, hp⟩ := residue_codes hok hres
  have hsum := natAbs_sum_le _ _ (List.forall_mem_map.2 fun j (_ : j ∈ List.range (elemP (fbA fb))) => natAbs_cellProduct_le fb act cell l j)
  rw [List.length_map, List.length_range] at hsum
  refine Nat.le_trans hsum ?_
  rw [elemWidth_of_residue halo hahi, elemWidth_of_residue hblo hbhi, ← hp]
  rcases elemP_of_residue halo hahi with h | h
  · rw [h]
    decide
  · rw [h]
    decide

/-- A column of 128 cells stays in the range of the residue triple. -/
theorem natAbs_passSum_le {fb : Nat} (hok : fbOk fb = true) (hres : elemResidue (fbA fb) = true) (act : Nat) (m : Matrix) (n : Nat) :
    (passSum fb act m n).natAbs ≤ 33292800 := by
  have hsum := natAbs_sum_le _ _ (List.forall_mem_map.2 fun l (_ : l ∈ List.range 128) =>
    natAbs_cellSum_le hok hres act (laneAt (lookupD m.active l []) n) l)
  rw [List.length_map, List.length_range] at hsum
  exact hsum

/-! ## One pass (R125) -/

theorem satS_ne_iff (y : Int) : y ≠ satS y ↔ y < -2147483648 ∨ 2147483647 < y := by
  simp only [satS, sat]
  split
  · omega
  · split <;> omega

theorem foldl_add_fst (l : List Nat) (g : Nat → Int × Bool) : (l.map g).foldl (fun a c => a + c.1) 0 = (l.map fun k => (g k).1).sum := by
  rw [List.sum_eq_foldl, List.foldl_map, List.foldl_map]

/-- A residue pass without scales, column by column. -/
theorem passRow_unscaled {core fb act : Nat} {m : Matrix} {sca scb : List Byte} {old : List Word} (hok : fbOk fb = true)
    (hres : elemResidue (fbA fb) = true) (ha : fbABlk fb = 0) (hb : m.tagA.bblk = 0) :
    passRow core fb m act sca scb old =
      ((List.range 128).map fun n => clampS ((laneAt old n).toInt + passSum fb act m n),
        (List.range 128).any fun n => (laneAt old n).toInt + passSum fb act m n != satS ((laneAt old n).toInt + passSum fb act m n)) := by
  have hjoin (n : Nat) : rtJoin (passSum fb act m n % 509).toNat (passSum fb act m n % 511).toNat (passSum fb act m n % 512).toNat =
      passSum fb act m n := by
    have hle := natAbs_passSum_le hok hres act m n
    exact rtJoin_residues (by omega) (by omega)
  have hclean (n : Nat) : ((List.range 128).map fun l => (cellSum fb act (laneAt (lookupD m.active l []) n) l, false)).any (·.2) = false := by simp
  simp only [passRow, if_pos hres, ha, hb, scaleAt, if_true, cellResidue_unscaled, foldl_add_fst, hclean, Bool.or_false, ← passSum_eq,
    hjoin, wordOf_satS, sgn, List.map_map, List.any_map]
  rfl

theorem laneAt_map_range {f : Nat → Word} {n k : Nat} (hn : n < k) : laneAt ((List.range k).map f) n = f n := by
  simp [laneAt, hn]

/-- Settles O34: the column sums lie in the range of the triple (`natAbs_passSum_le`), so their residues give them back (`rtJoin_residues`). -/
theorem residuePassesAreExact : Obligations.ResiduePassesAreExact := by
  refine ⟨fun z => rtJoin_residues, fun core fb act m sca scb old hok hres ha hb => ?_⟩
  rw [passRow_unscaled hok hres ha hb]
  refine ⟨fun n hn => laneAt_map_range hn, ?_⟩
  simp only [List.any_eq_true, List.mem_range, bne_iff_ne, satS_ne_iff]
end Sys2Proof.Machine
end

section
/-! PROOF. Sums, products and the one rounding (R107 to R113, O5): the magnitudes of a format's codes ascend like a ladder, an exact value
lies between two neighbours of it, and the rounding chooses between these two. -/

namespace Sys2Proof.Machine
open Claims

/-! ## Rational numbers: order, and powers of two -/

theorem rat_lt_of_lt_of_le {a b c : Rat} (hab : a < b) (hbc : b ≤ c) : a < c :=
  Rat.not_le.1 fun hca => Rat.not_le.2 hab (Rat.le_trans hbc hca)

theorem rat_lt_of_le_of_lt {a b c : Rat} (hab : a ≤ b) (hbc : b < c) : a < c :=
  Rat.not_le.1 fun hca => Rat.not_le.2 hbc (Rat.le_trans hca hab)

theorem rat_mul_eq_mul_right {a b s : Rat} (hs : 0 < s) : a * s = b * s ↔ a = b :=
  ⟨fun h => Rat.le_antisymm (Rat.le_of_mul_le_mul_right (h ▸ Rat.le_refl) hs) (Rat.le_of_mul_le_mul_right (h ▸ Rat.le_refl) hs), fun h => h ▸ rfl⟩

theorem rat_mul_mul_mul_comm (a b p q : Rat) : a * b * (p * q) = a * p * (b * q) := by
  rw [Rat.mul_assoc, ← Rat.mul_assoc b, Rat.mul_comm b, Rat.mul_assoc p, ← Rat.mul_assoc]

theorem two_mul_natCast (n : Nat) : (2 : Rat) * n = (2 * n : Nat) := (Rat.natCast_mul 2 n).symm

theorem two_zpow_pos (e : Int) : (0 : Rat) < 2 ^ e := Rat.zpow_pos (by decide)

theorem two_zpow_add (a b : Int) : (2 : Rat) ^ (a + b) = 2 ^ a * 2 ^ b := Rat.zpow_add (by decide) a b

/-- A power of two split into a natural number and a power. -/
theorem two_zpow_natCast_add (n : Nat) (e : Int) : (2 : Rat) ^ ((n : Int) + e) = ((2 ^ n : Nat) : Rat) * 2 ^ e := by
  rw [two_zpow_add, Rat.natCast_pow, Rat.zpow_natCast]
  rfl

theorem natCast_two_pow_mul {g e : Int} (h : g ≤ e) : ((2 ^ (e - g).toNat : Nat) : Rat) * 2 ^ g = 2 ^ e := by
  rw [← two_zpow_natCast_add, Int.toNat_of_nonneg (Int.sub_nonneg_of_le h), Int.sub_add_cancel]

theorem two_zpow_le {a b : Int} (h : a ≤ b) : (2 : Rat) ^ a ≤ 2 ^ b := by
  have hone : ((1 : Nat) : Rat) ≤ ((2 ^ (b - a).toNat : Nat) : Rat) := Rat.natCast_le_natCast.2 (Nat.two_pow_pos _)
  have hmul := Rat.mul_le_mul_of_nonneg_right hone (Rat.le_of_lt (two_zpow_pos a))
  rw [natCast_two_pow_mul h] at hmul
  exact (Rat.one_mul (2 ^ a)) ▸ hmul

/-! ## Exact sums and products (R113) -/

theorem signed_zero (neg : Bool) : signed neg 0 = 0 := by cases neg <;> rfl

theorem signed_mul (a b : Bool) (m n : Nat) : signed (a != b) (m * n) = signed a m * signed b n := by
  cases a
  case false =>
    cases b
    case false => exact Int.natCast_mul m n
    case true => exact (congrArg Neg.neg (Int.natCast_mul m n)).trans (Int.mul_neg ..).symm
  case true =>
    cases b
    case false => exact (congrArg Neg.neg (Int.natCast_mul m n)).trans (Int.neg_mul ..).symm
    case true => exact (Int.natCast_mul m n).trans (Int.neg_mul_neg ..).symm

theorem ratOf_fin (neg : Bool) (m : Nat) (e : Int) : ratOf (.fin neg m e) = some ((signed neg m : Rat) * 2 ^ e) := by
  cases neg
  case false =>
    have hone : (1 : Rat) * m = (signed false m : Rat) := Rat.one_mul _
    exact congrArg (fun x => some (x * 2 ^ e)) hone
  case true =>
    have hneg : (-1 : Rat) * m = (signed true m : Rat) := (Rat.neg_mul 1 m).trans (congrArg Neg.neg (Rat.one_mul _))
    exact congrArg (fun x => some (x * 2 ^ e)) hneg

theorem ratOf_ofInt (z e : Int) : ratOf (.ofInt z e) = some ((z : Rat) * 2 ^ e) := by
  have hz : signed (decide (z < 0)) z.natAbs = z := by
    by_cases h : z < 0
    · rw [decide_eq_true h, signed, if_pos rfl]
      omega
    · rw [decide_eq_false h, signed, if_neg Bool.false_ne_true]
      omega
  rw [FVal.ofInt, ratOf_fin, hz]

/-- An integer times a power of two, at a lower exponent. -/
theorem intCast_shift (z : Int) {g e : Int} (h : g ≤ e) : ((z * 2 ^ (e - g).toNat : Int) : Rat) * 2 ^ g = z * 2 ^ e := by
  have hpow : ((2 ^ (e - g).toNat : Int) : Rat) = ((2 ^ (e - g).toNat : Nat) : Rat) := by
    rw [← Rat.intCast_natCast, Int.natCast_pow]
    rfl
  rw [Rat.intCast_mul, Rat.mul_assoc, hpow, natCast_two_pow_mul h]

theorem ratOf_add (rd a b : Bool) (m n : Nat) (e f : Int) :
    ratOf (FVal.add rd (.fin a m e) (.fin b n f)) = some ((signed a m : Rat) * 2 ^ e + (signed b n : Rat) * 2 ^ f) := by
  have hz : ((signed a m * 2 ^ (e - min e f).toNat + signed b n * 2 ^ (f - min e f).toNat : Int) : Rat) * 2 ^ min e f =
      (signed a m : Rat) * 2 ^ e + (signed b n : Rat) * 2 ^ f := by
    rw [Rat.intCast_add, Rat.add_mul, intCast_shift _ (Int.min_le_left e f), intCast_shift _ (Int.min_le_right e f)]
  rw [FVal.add, ← hz]
  split
  case isTrue h => rw [h, ratOf_fin, signed_zero, Rat.intCast_zero, Rat.zero_mul, Rat.zero_mul]
  case isFalse => rw [ratOf_ofInt]

theorem ratOf_mul (a b : Bool) (m n : Nat) (e f : Int) :
    ratOf (FVal.mul (.fin a m e) (.fin b n f)) = some ((signed a m : Rat) * 2 ^ e * ((signed b n : Rat) * 2 ^ f)) := by
  rw [FVal.mul, ratOf_fin, signed_mul, two_zpow_add, Rat.intCast_mul, rat_mul_mul_mul_comm]

/-- A value that denotes a number is finite. -/
theorem eq_fin_of_ratOf {x : FVal} {p : Rat} (h : ratOf x = some p) : ∃ neg m e, x = .fin neg m e ∧ p = (signed neg m : Rat) * 2 ^ e := by
  cases x with
  | nan => cases h
  | inf neg => cases h
  | fin neg m e => exact ⟨neg, m, e, rfl, Option.some.inj (h.symm.trans (ratOf_fin neg m e))⟩

theorem add_neg_self (rd b : Bool) {m : Nat} (e : Int) (hm : 0 < m) : FVal.add rd (.fin b m e) (.fin (!b) m e) = .fin rd 0 0 := by
  have hneg : signed (!b) m = -signed b m := by
    cases b
    case false => rfl
    case true => exact (Int.neg_neg _).symm
  have hz : signed b m * 2 ^ (e - min e e).toNat + signed (!b) m * 2 ^ (e - min e e).toNat = 0 := by
    rw [hneg, Int.neg_mul, Int.add_right_neg]
  rw [FVal.add, if_pos hz, if_neg fun h => Nat.ne_of_gt hm h.1]

theorem arithmeticIsExact : ArithmeticIsExact := by
  refine ⟨fun rd x y p q hx hy => ?_, fun rd a => ?_, fun a b m e => rfl, fun rd b m e hm => add_neg_self rd b e hm⟩
  · obtain ⟨a, m, e, rfl, rfl⟩ := eq_fin_of_ratOf hx
    obtain ⟨b, n, f, rfl, rfl⟩ := eq_fin_of_ratOf hy
    exact ⟨ratOf_add rd a b m n e f, ratOf_mul a b m n e f⟩
  · cases a
    case false => exact ⟨rfl, rfl⟩
    case true => exact ⟨rfl, rfl⟩

/-! ## Ascending sequences -/

/-- A sequence that grows at every step. -/
def Ascending (L : Nat → Rat) : Prop := ∀ i j, i < j → L i < L j

section
variable {L : Nat → Rat}

theorem ascending_of_lt_succ (h : ∀ k, L k < L (k + 1)) : Ascending L := by
  intro i j hij
  induction j with
  | zero => exact absurd hij (Nat.not_lt_zero i)
  | succ j ih =>
    rcases Nat.lt_succ_iff_lt_or_eq.1 hij with hlt | rfl
    · exact rat_lt_of_lt_of_le (ih hlt) (Rat.le_of_lt (h j))
    · exact h i

theorem Ascending.le (hL : Ascending L) {i j : Nat} (h : i ≤ j) : L i ≤ L j := by
  rcases Nat.eq_or_lt_of_le h with rfl | hlt
  · exact Rat.le_refl
  · exact Rat.le_of_lt (hL i j hlt)

theorem Ascending.lt_of_lt (hL : Ascending L) {i j : Nat} (h : L i < L j) : i < j :=
  Nat.not_le.1 fun hji => Rat.not_le.2 h (hL.le hji)

theorem Ascending.le_of_le (hL : Ascending L) {i j : Nat} (h : L i ≤ L j) : i ≤ j :=
  Nat.not_lt.1 fun hji => Rat.not_lt.2 h (hL j i hji)

end

/-! ## The ladder of magnitudes (R107) -/

/-- The exponent of the least subnormal magnitude of a format. -/
def Fmt.emin (f : Fmt) : Int := 1 - (f.bias : Int) - f.mbits

/-- The magnitude of code k by the rule of R107 for finite codes, also above the largest finite code. -/
def Fmt.ladder (f : Fmt) (k : Nat) : Rat :=
  if k / 2 ^ f.mbits = 0 then ((k % 2 ^ f.mbits : Nat) : Rat) * 2 ^ f.emin
  else ((2 ^ f.mbits + k % 2 ^ f.mbits : Nat) : Rat) * 2 ^ (f.emin + (k / 2 ^ f.mbits : Nat) - 1)

/-- What the rounding needs of a format: a mantissa bit, finite codes without a sign bit, and, where there are infinities, a largest finite
code that ends a binade of normal numbers. -/
structure Fmt.Regular (f : Fmt) : Prop where
  mbits_pos : 0 < f.mbits
  maxCode_lt : f.maxCode < 2 ^ (f.ebits + f.mbits)
  binade_end : f.hasInf = true → ∃ a, f.maxCode + 1 = a * 2 ^ f.mbits + 2 * 2 ^ f.mbits

theorem regular_of_mem_formats {f : Fmt} (hf : f ∈ formats) : f.Regular := by
  simp only [formats, List.mem_cons, List.not_mem_nil, or_false] at hf
  rcases hf with rfl | rfl | rfl | rfl | rfl | rfl | rfl | rfl
  · exact ⟨by decide, by decide, fun _ => ⟨253, by decide⟩⟩
  · exact ⟨by decide, by decide, fun _ => ⟨29, by decide⟩⟩
  · exact ⟨by decide, by decide, fun _ => ⟨253, by decide⟩⟩
  · exact ⟨by decide, by decide, fun h => absurd h (by decide)⟩
  · exact ⟨by decide, by decide, fun _ => ⟨29, by decide⟩⟩
  all_goals exact ⟨by decide, by decide, fun h => absurd h (by decide)⟩

/-- The product with a mantissa bit or more is even. -/
theorem Fmt.Regular.even_mul {f : Fmt} (hf : f.Regular) (a : Nat) : 2 ∣ a * 2 ^ f.mbits :=
  Nat.dvd_mul_left_of_dvd (Nat.pow_dvd_pow 2 hf.mbits_pos) a

theorem magnitude_eq_ladder {f : Fmt} (hf : f.Regular) {k : Nat} (hk : k ≤ f.maxCode) : magnitude f k = f.ladder k := by
  have hlt : k < 2 ^ (f.ebits + f.mbits) := Nat.lt_of_le_of_lt hk hf.maxCode_lt
  have hmag : bits k 0 (f.ebits + f.mbits) = k := by rw [bits, Nat.pow_zero, Nat.div_one, Nat.mod_eq_of_lt hlt]
  have hneg : bit k (f.ebits + f.mbits) = false := Nat.testBit_lt_two_pow hlt
  have hexp : ((k / 2 ^ f.mbits : Nat) : Int) - f.bias - f.mbits = f.emin + (k / 2 ^ f.mbits : Nat) - 1 := by
    rw [Fmt.emin]
    omega
  have hden (x : Nat) (e : Int) : (ratOf (.fin false x e)).getD 0 = x * 2 ^ e := by
    rw [ratOf_fin]
    rfl
  have hvalue : f.value k = if k / 2 ^ f.mbits = 0 then .fin false (k % 2 ^ f.mbits) f.emin
      else .fin false (2 ^ f.mbits + k % 2 ^ f.mbits) (f.emin + (k / 2 ^ f.mbits : Nat) - 1) := by
    rw [Fmt.value, hmag, hneg, if_neg fun h => Nat.not_lt.2 hk h.1, ← hexp]
    rfl
  rw [magnitude, hvalue, Fmt.ladder]
  split
  · rw [hden]
  · rw [hden]

theorem Fmt.ladder_normal {f : Fmt} (a : Nat) {r : Nat} (hr : r < 2 ^ f.mbits) :
    f.ladder ((a + 1) * 2 ^ f.mbits + r) = (2 ^ f.mbits + r : Nat) * 2 ^ (f.emin + a) := by
  have hexp : f.emin + (a + 1 : Nat) - 1 = f.emin + a := by omega
  rw [Fmt.ladder, Nat.add_comm, Nat.add_mul_div_right _ _ (Nat.two_pow_pos _), Nat.add_mul_mod_self_right, Nat.div_eq_of_lt hr,
    Nat.mod_eq_of_lt hr, Nat.zero_add, if_neg (Nat.succ_ne_zero a), hexp]

/-- The end of a binade is the beginning of the next. -/
theorem double_mul_two_zpow (n : Nat) (e : Int) : ((n + n : Nat) : Rat) * 2 ^ e = n * 2 ^ (e + 1) := by
  rw [Int.add_comm e 1, two_zpow_add, Rat.zpow_one, ← Rat.mul_assoc, Rat.mul_comm n 2, two_mul_natCast, Nat.two_mul]

/-- A significand of a binade, or below the first one, and its code. -/
theorem Fmt.ladder_code {f : Fmt} {a n : Nat} (hn : n ≤ 2 * 2 ^ f.mbits) (ha : a = 0 ∨ 2 ^ f.mbits ≤ n) :
    f.ladder (a * 2 ^ f.mbits + n) = n * 2 ^ (f.emin + a) := by
  rcases Nat.lt_or_ge n (2 ^ f.mbits) with hsub | hnorm
  · obtain rfl := ha.resolve_right (Nat.not_le.2 hsub)
    rw [Nat.zero_mul, Nat.zero_add, Fmt.ladder, Nat.div_eq_of_lt hsub, Nat.mod_eq_of_lt hsub, if_pos rfl, Int.natCast_zero, Int.add_zero]
  · obtain ⟨r, rfl⟩ := Nat.exists_eq_add_of_le hnorm
    rw [← Nat.add_assoc, ← Nat.succ_mul]
    rcases Nat.lt_or_ge r (2 ^ f.mbits) with hr | hr
    · exact Fmt.ladder_normal a hr
    · obtain rfl : r = 2 ^ f.mbits := by omega
      have hnext := Fmt.ladder_normal (f := f) (a + 1) (Nat.two_pow_pos _)
      rw [Nat.add_zero] at hnext
      rw [← Nat.succ_mul, hnext, Nat.add_zero, double_mul_two_zpow, Int.natCast_add, Int.natCast_one, Int.add_assoc]

/-- Every code is that of a significand. -/
theorem Fmt.exists_code (f : Fmt) (k : Nat) : ∃ a n, k = a * 2 ^ f.mbits + n ∧ n < 2 * 2 ^ f.mbits ∧ (a = 0 ∨ 2 ^ f.mbits ≤ n) := by
  rcases Nat.lt_or_ge k (2 ^ f.mbits) with hk | hk
  · exact ⟨0, k, by omega, by omega, .inl rfl⟩
  · have hpos : 0 < 2 ^ f.mbits := Nat.two_pow_pos _
    have hmod : k % 2 ^ f.mbits < 2 ^ f.mbits := Nat.mod_lt k hpos
    have hdiv : k / 2 ^ f.mbits * 2 ^ f.mbits + k % 2 ^ f.mbits = k := Nat.mul_comm .. ▸ Nat.div_add_mod k (2 ^ f.mbits)
    obtain ⟨d, hd⟩ := Nat.exists_eq_add_one_of_ne_zero (Nat.ne_of_gt (Nat.div_pos hk hpos))
    rw [hd, Nat.succ_mul] at hdiv
    exact ⟨d, 2 ^ f.mbits + k % 2 ^ f.mbits, by omega, by omega, .inr (Nat.le_add_right ..)⟩

theorem Fmt.ladder_ascending (f : Fmt) : Ascending f.ladder := by
  refine ascending_of_lt_succ fun k => ?_
  obtain ⟨a, n, rfl, hn, ha⟩ := f.exists_code k
  rw [Nat.add_assoc, Fmt.ladder_code (Nat.le_of_lt hn) ha, Fmt.ladder_code hn (ha.imp_right Nat.le_succ_of_le)]
  exact Rat.mul_lt_mul_of_pos_right (Rat.natCast_lt_natCast.2 (Nat.lt_succ_self n)) (two_zpow_pos _)

/-! ## The choice between two neighbours (R109, R110) -/

/-- A mode's choice for x between the neighbours a and b, `up` when it is b; n is the number, or the code, of a. -/
structure Picks (rm : Nat) (neg : Bool) (a b x : Rat) (n : Nat) (up : Bool) : Prop where
  lower : a ≤ x
  upper : x < b
  nearest : rm = 0 → (up = true ↔ a + b < 2 * x ∨ 2 * x = a + b ∧ n % 2 = 1)
  down : towardZero rm neg → up = false
  away : awayFromZero rm neg → (up = true ↔ a < x)

theorem Picks.scale {rm : Nat} {neg up : Bool} {a b x s : Rat} {n : Nat} (h : Picks rm neg a b x n up) (hs : 0 < s) :
    Picks rm neg (a * s) (b * s) (x * s) n up where
  lower := Rat.mul_le_mul_of_nonneg_right h.lower (Rat.le_of_lt hs)
  upper := Rat.mul_lt_mul_of_pos_right h.upper hs
  nearest hrm := by
    rw [h.nearest hrm, ← Rat.add_mul, ← Rat.mul_assoc, Rat.mul_lt_mul_right hs, rat_mul_eq_mul_right hs]
  down := h.down
  away hrm := by rw [h.away hrm, Rat.mul_lt_mul_right hs]

theorem lt_four_of_towardZero {rm : Nat} {neg : Bool} (h : towardZero rm neg) : rm < 4 := by
  unfold towardZero at h
  omega

theorem lt_four_of_awayFromZero {rm : Nat} {neg : Bool} (h : awayFromZero rm neg) : rm < 4 := by
  unfold awayFromZero at h
  omega

theorem mode_cases {rm : Nat} (neg : Bool) (h : rm < 4) : rm = 0 ∨ towardZero rm neg ∨ awayFromZero rm neg := by
  match rm, neg with
  | 0, _ => exact .inl rfl
  | 1, _ => exact .inr (.inl (.inl rfl))
  | 2, false => exact .inr (.inr (.inl ⟨rfl, rfl⟩))
  | 2, true => exact .inr (.inl (.inr (.inl ⟨rfl, rfl⟩)))
  | 3, false => exact .inr (.inl (.inr (.inr ⟨rfl, rfl⟩)))
  | 3, true => exact .inr (.inr (.inr ⟨rfl, rfl⟩))
  | n + 4, _ => omega

/-- The choice of `roundAt` for lo × K + r between lo and lo + 1 times K. -/
def roundsUp (rm : Nat) (neg : Bool) (lo r K : Nat) : Bool :=
  if r = 0 then false
  else if rm = 0 then decide (K < 2 * r) || (decide (2 * r = K) && lo % 2 == 1)
  else if rm = 1 then false
  else if rm = 2 then !neg
  else neg

theorem roundsUp_zero (neg : Bool) {lo r K : Nat} (hK : 0 < K) :
    roundsUp 0 neg lo r K = true ↔ K < 2 * r ∨ 2 * r = K ∧ lo % 2 = 1 := by
  unfold roundsUp
  by_cases hr : r = 0
  · rw [if_pos hr]
    exact ⟨fun h => Bool.noConfusion h, fun h => by omega⟩
  · rw [if_neg hr, if_pos rfl]
    simp only [Bool.or_eq_true, Bool.and_eq_true, decide_eq_true_eq, beq_iff_eq]

theorem roundsUp_of_towardZero {rm : Nat} {neg : Bool} (h : towardZero rm neg) (lo r K : Nat) : roundsUp rm neg lo r K = false := by
  rcases h with rfl | ⟨rfl, rfl⟩ | ⟨rfl, rfl⟩
  all_goals exact ite_self false

theorem roundsUp_of_awayFromZero {rm : Nat} {neg : Bool} (h : awayFromZero rm neg) (lo r K : Nat) :
    roundsUp rm neg lo r K = true ↔ 0 < r := by
  have hup : roundsUp rm neg lo r K = if r = 0 then false else true := by rcases h with ⟨rfl, rfl⟩ | ⟨rfl, rfl⟩ <;> rfl
  rw [hup]
  split
  case isTrue hr => exact ⟨fun h => Bool.noConfusion h, fun h => absurd hr (Nat.ne_of_gt h)⟩
  case isFalse hr => exact ⟨fun _ => Nat.pos_of_ne_zero hr, fun _ => rfl⟩

theorem roundsUp_picks (rm : Nat) (neg : Bool) (lo : Nat) {r K : Nat} (hr : r < K) :
    Picks rm neg ((lo * K : Nat) : Rat) (((lo + 1) * K : Nat) : Rat) ((lo * K + r : Nat) : Rat) lo (roundsUp rm neg lo r K) := by
  rw [Nat.succ_mul]
  refine ⟨Rat.natCast_le_natCast.2 (Nat.le_add_right ..), Rat.natCast_lt_natCast.2 (by omega), ?_, fun h => roundsUp_of_towardZero h lo r K,
    fun h => ?_⟩
  · rintro rfl
    rw [roundsUp_zero neg (by omega), two_mul_natCast, ← Rat.natCast_add, Rat.natCast_lt_natCast, Rat.natCast_inj]
    omega
  · rw [roundsUp_of_awayFromZero h, Rat.natCast_lt_natCast]
    omega

/-- A number that is one of the two neighbours is kept. -/
theorem picks_self (rm : Nat) (neg : Bool) {a b : Rat} (h : a < b) (n : Nat) : Picks rm neg a b a n false := by
  refine ⟨Rat.le_refl, h, fun _ => ⟨fun h => Bool.noConfusion h, fun h => ?_⟩, fun _ => rfl,
    fun _ => ⟨fun h => Bool.noConfusion h, fun h => absurd h Rat.lt_irrefl⟩⟩
  grind

theorem roundAt_of_lt (rm : Nat) (neg : Bool) (m : Nat) {e q : Int} (h : e < q) :
    roundAt rm neg m e q =
      m / 2 ^ (q - e).toNat + bitNat (roundsUp rm neg (m / 2 ^ (q - e).toNat) (m % 2 ^ (q - e).toNat) (2 ^ (q - e).toNat)) := by
  have hsucc (b : Bool) (n : Nat) : (if b = true then n + 1 else n) = n + bitNat b := by cases b <;> rfl
  rw [roundAt, if_neg (Int.not_le.2 h), ← hsucc]
  rfl

/-- Rounding at an exponent q chooses between two neighbouring multiples of 2^q. -/
theorem roundAt_picks (rm : Nat) (neg : Bool) (m : Nat) (e q : Int) :
    ∃ lo up, roundAt rm neg m e q = lo + bitNat up ∧ Picks rm neg (lo * 2 ^ q) ((lo + 1 : Nat) * 2 ^ q) (m * 2 ^ e) lo up := by
  by_cases h : e < q
  · refine ⟨_, _, roundAt_of_lt rm neg m h, ?_⟩
    have hpick := (roundsUp_picks rm neg (m / 2 ^ (q - e).toNat) (Nat.mod_lt m (Nat.two_pow_pos (q - e).toNat))).scale (two_zpow_pos e)
    rw [Nat.mul_comm (m / _), Nat.div_add_mod, Nat.mul_comm (_ ^ _), Rat.natCast_mul, Rat.natCast_mul, Rat.mul_assoc, Rat.mul_assoc,
      natCast_two_pow_mul (Int.le_of_lt h)] at hpick
    exact hpick
  · have hqe : q ≤ e := Int.not_lt.1 h
    refine ⟨m * 2 ^ (e - q).toNat, false, if_pos hqe, ?_⟩
    have hm : ((m * 2 ^ (e - q).toNat : Nat) : Rat) * 2 ^ q = m * 2 ^ e := by
      rw [Rat.natCast_mul, Rat.mul_assoc, natCast_two_pow_mul hqe]
    rw [← hm]
    exact picks_self rm neg (Rat.mul_lt_mul_of_pos_right (Rat.natCast_lt_natCast.2 (Nat.lt_succ_self _)) (two_zpow_pos q)) _

/-! ## The rounded code -/

/-- The exponent at which a format rounds m × 2^e (R110). -/
def Fmt.quantum (f : Fmt) (m : Nat) (e : Int) : Int := max (Nat.log2 m + e - f.mbits) f.emin

/-- The code to which m × 2^e rounds before the check against the largest finite one. -/
def Fmt.rounded (f : Fmt) (rm : Nat) (neg : Bool) (m : Nat) (e : Int) : Nat :=
  (f.quantum m e - f.emin).toNat * 2 ^ f.mbits + roundAt rm neg m e (f.quantum m e)

section
variable {f : Fmt} {rm m : Nat} {neg : Bool} {e : Int}

/-- The rounding in terms of the rounded code; without FTZ and saturation (R111, R112). -/
theorem Fmt.round_fin (hrm : rm < 4) (hm : 0 < m) : f.round rm (.fin neg m e) =
    if f.maxCode < f.rounded rm neg m e then
      if f.hasInf then
        (if rm = 0 ∨ (rm = 2 ∧ !neg) ∨ (rm = 3 ∧ neg) then f.signed neg (f.maxCode + 1) else f.signed neg f.maxCode)
      else if f.nan.isSome then f.nan.getD 0
      else f.signed neg f.maxCode
    else f.signed neg (f.rounded rm neg m e) := by
  have h2 : bit rm 2 = false := Nat.testBit_lt_two_pow hrm
  have h3 : bit rm 3 = false := Nat.testBit_lt_two_pow (Nat.lt_trans hrm (by decide))
  simp only [Fmt.round, Nat.ne_of_gt hm, Nat.mod_eq_of_lt hrm, h2, h3, if_false, Bool.false_eq_true, false_and, and_false]
  rfl

theorem Fmt.round_of_le (hrm : rm < 4) (hm : 0 < m) (h : f.rounded rm neg m e ≤ f.maxCode) :
    f.round rm (.fin neg m e) = f.signed neg (f.rounded rm neg m e) := by
  rw [Fmt.round_fin hrm hm, if_neg (Nat.not_lt.2 h)]

theorem Fmt.round_of_eq (hrm : rm < 4) (hm : 0 < m) (h : f.rounded rm neg m e = f.maxCode) :
    f.round rm (.fin neg m e) = f.signed neg f.maxCode := by
  rw [Fmt.round_of_le hrm hm (Nat.le_of_eq h), h]

theorem Fmt.round_of_gt_down (hm : 0 < m) (hinf : f.hasInf = true) (h : f.maxCode < f.rounded rm neg m e) (hz : towardZero rm neg) :
    f.round rm (.fin neg m e) = f.signed neg f.maxCode := by
  have hfinite : ¬(rm = 0 ∨ (rm = 2 ∧ (!neg) = true) ∨ (rm = 3 ∧ neg = true)) := by
    rcases hz with rfl | ⟨rfl, rfl⟩ | ⟨rfl, rfl⟩
    · omega
    · decide
    · decide
  rw [Fmt.round_fin (lt_four_of_towardZero hz) hm, if_pos h, if_pos hinf, if_neg hfinite]

theorem Fmt.round_of_gt_up (hm : 0 < m) (hinf : f.hasInf = true) (h : f.maxCode < f.rounded rm neg m e) (hz : rm = 0 ∨ awayFromZero rm neg) :
    f.round rm (.fin neg m e) = f.signed neg (f.maxCode + 1) := by
  have hrm : rm < 4 := hz.elim (fun h => h ▸ by decide) lt_four_of_awayFromZero
  have hinfinite : rm = 0 ∨ (rm = 2 ∧ (!neg) = true) ∨ (rm = 3 ∧ neg = true) := by
    rcases hz with rfl | ⟨rfl, rfl⟩ | ⟨rfl, rfl⟩
    · exact .inl rfl
    · decide
    · decide
  rw [Fmt.round_fin hrm hm, if_pos h, if_pos hinf, if_pos hinfinite]

/-- A number is less than the end of the binade that begins at 2^mbits quanta. -/
theorem Fmt.lt_two_binades (f : Fmt) (m : Nat) (e : Int) : (m : Rat) * 2 ^ e < (2 * 2 ^ f.mbits : Nat) * 2 ^ f.quantum m e := by
  have hexp : (Nat.log2 m + 1 : Nat) + e ≤ (f.mbits + 1 : Nat) + f.quantum m e := by
    unfold Fmt.quantum
    omega
  have hlog : (m : Rat) * 2 ^ e < 2 ^ ((Nat.log2 m + 1 : Nat) + e) := by
    rw [two_zpow_natCast_add]
    exact Rat.mul_lt_mul_of_pos_right (Rat.natCast_lt_natCast.2 Nat.lt_log2_self) (two_zpow_pos e)
  rw [← Nat.pow_succ', ← two_zpow_natCast_add]
  exact rat_lt_of_lt_of_le hlog (two_zpow_le hexp)

/-- Above the subnormal numbers it is not less than the beginning of that binade. -/
theorem Fmt.binade_le (hm : 0 < m) (h : f.emin < f.quantum m e) : ((2 ^ f.mbits : Nat) : Rat) * 2 ^ f.quantum m e ≤ m * 2 ^ e := by
  have hexp : f.mbits + f.quantum m e = Nat.log2 m + e := by
    unfold Fmt.quantum at h ⊢
    omega
  rw [← two_zpow_natCast_add, hexp, two_zpow_natCast_add]
  exact Rat.mul_le_mul_of_nonneg_right (Rat.natCast_le_natCast.2 (Nat.log2_self_le (Nat.ne_of_gt hm))) (Rat.le_of_lt (two_zpow_pos e))

/-- The rounded code is the choice between two neighbours of the ladder. -/
theorem Fmt.rounded_picks (hf : f.Regular) (rm : Nat) (neg : Bool) (hm : 0 < m) (e : Int) :
    ∃ k up, f.rounded rm neg m e = k + bitNat up ∧ Picks rm neg (f.ladder k) (f.ladder (k + 1)) (m * 2 ^ e) k up := by
  obtain ⟨lo, up, hround, hpick⟩ := roundAt_picks rm neg m e (f.quantum m e)
  have hq : f.emin ≤ f.quantum m e := Int.le_max_right _ _
  generalize ha : (f.quantum m e - f.emin).toNat = a
  have hqa : f.quantum m e = f.emin + a := by omega
  have hcancel {x y : Nat} (h : (x : Rat) * 2 ^ f.quantum m e < y * 2 ^ f.quantum m e) : x < y :=
    Rat.natCast_lt_natCast.1 ((Rat.mul_lt_mul_right (two_zpow_pos _)).1 h)
  have hbelow : lo < 2 * 2 ^ f.mbits := hcancel (rat_lt_of_le_of_lt hpick.lower (f.lt_two_binades m e))
  have habove : a = 0 ∨ 2 ^ f.mbits ≤ lo := by
    by_cases h : f.emin < f.quantum m e
    · exact .inr (Nat.lt_succ_iff.1 (hcancel (rat_lt_of_le_of_lt (Fmt.binade_le hm h) hpick.upper)))
    · exact .inl (by omega)
  refine ⟨a * 2 ^ f.mbits + lo, up, by rw [Fmt.rounded, hround, ha, Nat.add_assoc], ?_⟩
  rw [Nat.add_assoc, Fmt.ladder_code (Nat.le_of_lt hbelow) habove, Fmt.ladder_code hbelow (habove.imp_right Nat.le_succ_of_le), ← hqa]
  have heven : 2 ∣ a * 2 ^ f.mbits := hf.even_mul a
  have hodd : (a * 2 ^ f.mbits + lo) % 2 = lo % 2 := by omega
  exact { hpick with nearest := hodd ▸ hpick.nearest }

end

/-! ## The choice among all magnitudes (R109, R110) -/

theorem gap_of_le {x y : Rat} (h : x ≤ y) : gap x y = y - x := if_pos h

theorem gap_of_ge {x y : Rat} (h : y ≤ x) : gap x y = x - y := by
  unfold gap
  split
  case isTrue hxy => rw [Rat.le_antisymm h hxy]
  case isFalse => rfl

section
variable {L : Nat → Rat} {rm : Nat} {neg up : Bool} {k : Nat} {x : Rat}

/-- A mode goes up only from below x. -/
theorem Picks.lt_of_up {a b : Rat} (h : Picks rm neg a b x k true) (hrm : rm < 4) : a < x := by
  have hab : a < b := rat_lt_of_le_of_lt h.lower h.upper
  rcases mode_cases neg hrm with h0 | hz | hw
  · rcases (h.nearest h0).1 rfl with hfar | ⟨htie, -⟩
    · grind
    · grind
  · exact absurd (h.down hz) (by decide)
  · exact (h.away hw).1 rfl

theorem Picks.pick_le (h : Picks rm neg (L k) (L (k + 1)) x k up) (hL : Ascending L) (hrm : rm < 4) {n : Nat} (hx : x ≤ L n) :
    k + bitNat up ≤ n := by
  cases up with
  | false => exact hL.le_of_le (Rat.le_trans h.lower hx)
  | true => exact hL.lt_of_lt (rat_lt_of_lt_of_le (h.lt_of_up hrm) hx)

theorem Picks.nearest_pick (h : Picks rm neg (L k) (L (k + 1)) x k up) (hL : Ascending L) (hrm : rm = 0) (j : Nat) :
    gap (L (k + bitNat up)) x < gap (L j) x ∨ j = k + bitNat up ∨
      gap (L (k + bitNat up)) x = gap (L j) x ∧ (k + bitNat up) % 2 = 0 := by
  have hnear := h.nearest hrm
  have hbelow (hj : j ≤ k) : gap (L j) x = x - L j := gap_of_le (Rat.le_trans (hL.le hj) h.lower)
  have habove (hj : k + 1 ≤ j) : gap (L j) x = L j - x := gap_of_ge (Rat.le_trans (Rat.le_of_lt h.upper) (hL.le hj))
  cases up with
  | false =>
    simp only [Bool.false_eq_true, false_iff, not_or, Rat.not_lt, not_and] at hnear
    obtain ⟨hle, htie⟩ := hnear
    rw [show k + bitNat false = k from rfl, gap_of_le h.lower]
    rcases Nat.lt_trichotomy j k with hj | rfl | hj
    · have hLj : L j < L k := hL j k hj
      rw [hbelow (Nat.le_of_lt hj)]
      exact .inl (by grind)
    · exact .inr (.inl rfl)
    · have hLj : L (k + 1) ≤ L j := hL.le hj
      have hgap : x - L k ≤ L j - x := by grind
      rw [habove hj]
      refine (Rat.le_iff_lt_or_eq.1 hgap).imp_right fun heq => .inr ⟨heq, ?_⟩
      have hmid : 2 * x = L k + L (k + 1) := by grind
      have hne : ¬k % 2 = 1 := htie hmid
      omega
  | true =>
    simp only [true_iff] at hnear
    rw [show k + bitNat true = k + 1 from rfl, gap_of_ge (Rat.le_of_lt h.upper)]
    rcases Nat.lt_trichotomy j (k + 1) with hj | rfl | hj
    · have hLj : L j ≤ L k := hL.le (Nat.lt_succ_iff.1 hj)
      rw [hbelow (Nat.lt_succ_iff.1 hj)]
      rcases hnear with hfar | ⟨htie, hodd⟩
      · exact .inl (by grind)
      · have hgap : L (k + 1) - x ≤ x - L j := by grind
        exact (Rat.le_iff_lt_or_eq.1 hgap).imp_right fun heq => .inr ⟨heq, by omega⟩
    · exact .inr (.inl rfl)
    · have hLj : L (k + 1) < L j := hL (k + 1) j hj
      rw [habove (Nat.le_of_lt hj)]
      exact .inl (by grind)

/-- The nearest choice passes an odd code from the middle between it and the next one on. -/
theorem Picks.lt_pick_iff (h : Picks rm neg (L k) (L (k + 1)) x k up) (hL : Ascending L) (hrm : rm = 0) {n : Nat} (hn : n ≤ k)
    (hodd : n % 2 = 1) : n < k + bitNat up ↔ L n + L (n + 1) ≤ 2 * x := by
  rcases Nat.eq_or_lt_of_le hn with rfl | hlt
  · have hup : n < n + bitNat up ↔ up = true := by
      cases up
      case false => exact ⟨fun h => absurd h (Nat.lt_irrefl n), fun h => Bool.noConfusion h⟩
      case true => exact ⟨fun _ => rfl, fun _ => Nat.lt_succ_self n⟩
    rw [hup, h.nearest hrm, Rat.le_iff_lt_or_eq, eq_comm (a := L n + L (n + 1))]
    exact or_congr_right (and_iff_left hodd)
  · have hx : L (n + 1) ≤ x := Rat.le_trans (hL.le hlt) h.lower
    have hstep : L n < L (n + 1) := hL n (n + 1) (Nat.lt_succ_self n)
    exact ⟨fun _ => by grind, fun _ => Nat.lt_of_lt_of_le hlt (Nat.le_add_right ..)⟩

theorem Picks.down_pick (h : Picks rm neg (L k) (L (k + 1)) x k up) (hL : Ascending L) (hz : towardZero rm neg) :
    L (k + bitNat up) ≤ x ∧ ∀ j, L j ≤ x → j ≤ k + bitNat up := by
  obtain rfl := h.down hz
  exact ⟨h.lower, fun j hj => Nat.lt_succ_iff.1 (hL.lt_of_lt (rat_lt_of_le_of_lt hj h.upper))⟩

theorem Picks.away_pick (h : Picks rm neg (L k) (L (k + 1)) x k up) (hL : Ascending L) (hw : awayFromZero rm neg) :
    x ≤ L (k + bitNat up) ∧ ∀ j, x ≤ L j → k + bitNat up ≤ j := by
  refine ⟨?_, fun j hj => h.pick_le hL (lt_four_of_awayFromZero hw) hj⟩
  cases up with
  | false => exact Rat.not_lt.1 fun hlt => Bool.noConfusion ((h.away hw).2 hlt)
  | true => exact Rat.le_of_lt h.upper

end

/-! ## The end of the range (R110) -/

theorem Fmt.Regular.maxCode_odd {f : Fmt} (hf : f.Regular) (hinf : f.hasInf = true) : f.maxCode % 2 = 1 := by
  obtain ⟨a, ha⟩ := hf.binade_end hinf
  have heven : 2 ∣ a * 2 ^ f.mbits := hf.even_mul a
  omega

/-- Three neighbouring multiples are equally far apart. -/
theorem natCast_step (n : Nat) (p : Rat) :
    ((n + 2 : Nat) : Rat) * p = ((n + 1 : Nat) : Rat) * p + (((n + 1 : Nat) : Rat) * p - (n : Rat) * p) := by
  have hsucc (n : Nat) : ((n + 1 : Nat) : Rat) * p = n * p + p := by
    rw [Rat.natCast_add, Rat.add_mul]
    exact congrArg _ (Rat.one_mul p)
  rw [hsucc (n + 1), hsucc n]
  grind

/-- The step above the largest finite magnitude is as wide as the one below it. -/
theorem Fmt.Regular.ladder_above {f : Fmt} (hf : f.Regular) (hinf : f.hasInf = true) :
    f.ladder (f.maxCode + 1) = f.ladder f.maxCode + (f.ladder f.maxCode - f.ladder (f.maxCode - 1)) := by
  obtain ⟨a, ha⟩ := hf.binade_end hinf
  have htwo : 2 ≤ 2 ^ f.mbits := Nat.pow_le_pow_right (n := 2) (by decide) hf.mbits_pos
  obtain ⟨n, hn⟩ := Nat.exists_eq_add_of_le' (show 2 ≤ 2 * 2 ^ f.mbits by omega)
  have hladder (i : Nat) (hi : i ≤ 2) : f.ladder (a * 2 ^ f.mbits + (n + i)) = ((n + i : Nat) : Rat) * 2 ^ (f.emin + a) :=
    Fmt.ladder_code (by omega) (.inr (by omega))
  rw [show f.maxCode + 1 = a * 2 ^ f.mbits + (n + 2) by omega, show f.maxCode = a * 2 ^ f.mbits + (n + 1) by omega,
    show a * 2 ^ f.mbits + (n + 1) - 1 = a * 2 ^ f.mbits + (n + 0) by omega, hladder 2 (by decide), hladder 1 (by decide), hladder 0 (by decide)]
  exact natCast_step n _

/-! ## The rounding of a finite value (R109, R110, R112) -/

section
variable {f : Fmt} {rm m : Nat} {neg : Bool} {e : Int}

/-- Within the range the rounding gives the choice between the neighbours. -/
theorem Fmt.round_within (hf : f.Regular) (hrm : rm < 4) (hm : 0 < m) (hx : (m : Rat) * 2 ^ e ≤ f.ladder f.maxCode) :
    ∃ k up, f.round rm (.fin neg m e) = f.signed neg (k + bitNat up) ∧ k + bitNat up ≤ f.maxCode ∧
      Picks rm neg (f.ladder k) (f.ladder (k + 1)) (m * 2 ^ e) k up := by
  obtain ⟨k, up, hk, hpick⟩ := Fmt.rounded_picks hf rm neg hm e
  have hmax : k + bitNat up ≤ f.maxCode := hpick.pick_le f.ladder_ascending hrm hx
  exact ⟨k, up, hk ▸ Fmt.round_of_le hrm hm (hk ▸ hmax), hmax, hpick⟩

/-- Above the range the lower neighbour is the largest finite magnitude, or lies above it. -/
theorem Fmt.rounded_above (hf : f.Regular) (rm : Nat) (neg : Bool) (hm : 0 < m) (hx : f.ladder f.maxCode < (m : Rat) * 2 ^ e) :
    ∃ k up, f.rounded rm neg m e = k + bitNat up ∧ f.maxCode ≤ k ∧ Picks rm neg (f.ladder k) (f.ladder (k + 1)) (m * 2 ^ e) k up := by
  obtain ⟨k, up, hk, hpick⟩ := Fmt.rounded_picks hf rm neg hm e
  exact ⟨k, up, hk, Nat.lt_succ_iff.1 (f.ladder_ascending.lt_of_lt (rat_lt_of_le_of_lt (Rat.le_of_lt hx) hpick.upper)), hpick⟩

theorem Fmt.round_above_down (hf : f.Regular) (hm : 0 < m) (hinf : f.hasInf = true) (hx : f.ladder f.maxCode < (m : Rat) * 2 ^ e)
    (hz : towardZero rm neg) : f.round rm (.fin neg m e) = f.signed neg f.maxCode := by
  obtain ⟨k, up, hk, hmax, hpick⟩ := Fmt.rounded_above hf rm neg hm hx
  obtain rfl := hpick.down hz
  rcases Nat.eq_or_lt_of_le hmax with heq | hgt
  · exact Fmt.round_of_eq (lt_four_of_towardZero hz) hm (hk.trans heq.symm)
  · exact Fmt.round_of_gt_down hm hinf (hk ▸ hgt) hz

theorem Fmt.round_above_away (hf : f.Regular) (hm : 0 < m) (hinf : f.hasInf = true) (hx : f.ladder f.maxCode < (m : Rat) * 2 ^ e)
    (hw : awayFromZero rm neg) : f.round rm (.fin neg m e) = f.signed neg (f.maxCode + 1) := by
  obtain ⟨k, up, hk, -, hpick⟩ := Fmt.rounded_above hf rm neg hm hx
  have hgt : f.maxCode < k + bitNat up := f.ladder_ascending.lt_of_lt (rat_lt_of_lt_of_le hx (hpick.away_pick f.ladder_ascending hw).1)
  exact Fmt.round_of_gt_up hm hinf (hk ▸ hgt) (.inr hw)

theorem Fmt.round_above_nearest (hf : f.Regular) (hm : 0 < m) (hinf : f.hasInf = true) (hx : f.ladder f.maxCode < (m : Rat) * 2 ^ e) :
    f.round 0 (.fin neg m e) =
      f.signed neg (if 2 * ((m : Rat) * 2 ^ e) < f.ladder f.maxCode + f.ladder (f.maxCode + 1) then f.maxCode else f.maxCode + 1) := by
  obtain ⟨k, up, hk, hmax, hpick⟩ := Fmt.rounded_above hf 0 neg hm hx
  have hiff := hpick.lt_pick_iff f.ladder_ascending rfl hmax (hf.maxCode_odd hinf)
  rw [← hk] at hiff
  split
  case isTrue h =>
    have hge : f.maxCode ≤ f.rounded 0 neg m e := hk ▸ Nat.le_trans hmax (Nat.le_add_right ..)
    exact Fmt.round_of_eq (by decide) hm (Nat.le_antisymm (Nat.not_lt.1 fun hgt => Rat.not_le.2 h (hiff.1 hgt)) hge)
  case isFalse h => exact Fmt.round_of_gt_up hm hinf (hiff.2 (Rat.not_lt.1 h)) (.inl rfl)

end

/-- The rounding clauses, with the magnitudes read off the ladder. -/
theorem roundingIsCorrect : RoundingIsCorrect := by
  rintro f hmem rm m neg e x hrm hm rfl
  have hf := regular_of_mem_formats hmem
  have hL := f.ladder_ascending
  rw [magnitude_eq_ladder hf (Nat.le_refl _), magnitude_eq_ladder hf (Nat.sub_le ..)]
  refine ⟨fun hx => ?_, fun hx hinf => ⟨Fmt.round_above_down hf hm hinf hx, Fmt.round_above_away hf hm hinf hx, ?_⟩⟩
  · obtain ⟨k, up, hround, hmax, hpick⟩ := Fmt.round_within hf (neg := neg) hrm hm hx
    refine ⟨k + bitNat up, hround, hmax, ?_⟩
    rw [magnitude_eq_ladder hf hmax]
    refine ⟨fun h0 j hj => ?_, fun hz => ?_, fun hw => ?_⟩
    · rw [magnitude_eq_ladder hf hj]
      exact hpick.nearest_pick hL h0 j
    · obtain ⟨hlow, hgreatest⟩ := hpick.down_pick hL hz
      exact ⟨hlow, fun j hj h => hgreatest j (magnitude_eq_ladder hf hj ▸ h)⟩
    · obtain ⟨hhigh, hleast⟩ := hpick.away_pick hL hw
      exact ⟨hhigh, fun j hj h => hleast j (magnitude_eq_ladder hf hj ▸ h)⟩
  · rintro rfl
    rw [Fmt.round_above_nearest hf hm hinf hx, hf.ladder_above hinf]
    refine congrArg (f.signed neg) (ite_congr (propext ⟨fun h => ?_, fun h => ?_⟩) (fun _ => rfl) fun _ => rfl)
    · grind
    · grind

/-- Settles O5: the exact operations by their denotations (`arithmeticIsExact`), the rounding by the choice between neighbours of the ladder
(`Fmt.rounded_picks`). -/
theorem exactThenRounded : Obligations.ExactThenRounded := ⟨arithmeticIsExact, roundingIsCorrect⟩
end Sys2Proof.Machine
end

section
/-! PROOF. Floating-point, packed and converting instructions (R159 to R168, O4): each is an operation with a register or a predicate result, whose value
for each strand is the one that the rules give. -/

namespace Sys2Proof.Machine
open Claims

/-! ## Operations with a register or a predicate result (R144, R157) -/

/-- The effect on a register rests on the values for the 32 strands. -/
theorem Effect.dst_congr (c : Ctx) (d : Nat) {f g : Nat → Word} (h : ∀ j, j < 32 → f j = g j) : Effect.dst c d f = Effect.dst c d g := by
  have hmask (j : Nat) (hj : inMask c.g.mask j = true) : f j = g j := h j (inMask_lt hj)
  have hzero : f 0 = g 0 := h 0 (by decide)
  simp only [Effect.dst, hzero, Effect.mk.injEq, true_and, and_true]
  exact ⟨funext fun k => funext fun j => ite_congr rfl (fun hj => congrArg some (hmask j hj.2.2.2)) fun _ => rfl,
    funext fun k => funext fun j => ite_congr rfl (fun hj => congrArg some (hmask j hj.2.2)) fun _ => rfl⟩

theorem Effect.pdst_congr (c : Ctx) (p : Nat) {f g : Nat → Bool} (h : ∀ j, j < 32 → f j = g j) : Effect.pdst c p f = Effect.pdst c p g := by
  simp only [Effect.pdst, Effect.mk.injEq, true_and, and_true]
  exact funext fun k => funext fun j => ite_congr rfl (fun hj => congrArg some (h j (inMask_lt hj.2.2))) fun _ => rfl

/-- An operation with a register result completes with every function that agrees with its own on the strands. -/
theorem completes_of_regOp {s : State} {c : Ctx} {i : Instr} {d : Nat} {f g : Nat → Word} (h : Issues s i c)
    (hexec : exec i s = .next (c.regOp i d f)) (hfg : ∀ j, j < 32 → f j = g j) : Completes s i c (Effect.dst c d g) :=
  ⟨_, hexec, Effect.dst_congr c d hfg ▸ regOp_done (ctx?_seen h.1) i d f⟩

theorem completes_of_predOp {s : State} {c : Ctx} {i : Instr} {p : Nat} {f g : Nat → Bool} (h : Issues s i c)
    (hexec : exec i s = .next (c.predOp i p f)) (hfg : ∀ j, j < 32 → f j = g j) : Completes s i c (Effect.pdst c p g) :=
  ⟨_, hexec, Effect.pdst_congr c p hfg ▸ predOp_done (ctx?_seen h.1) i p f⟩

/-! ## Sign and magnitude of a word (R160) -/

theorem getLsbD_and_magnitude (x : Word) (j : Nat) : (x &&& 0x7FFFFFFF#32).getLsbD j = (decide (j < 31) && x.getLsbD j) := by
  have hmask : 0x7FFFFFFF#32 = (BitVec.allOnes 31).setWidth 32 := by decide
  rw [hmask, BitVec.getLsbD_and, BitVec.getLsbD_setWidth, BitVec.getLsbD_allOnes, Bool.and_comm]
  grind

theorem getLsbD_and_sign (x : Word) (j : Nat) : (x &&& 0x80000000#32).getLsbD j = (decide (j = 31) && x.getLsbD j) := by
  have hmask : 0x80000000#32 = BitVec.twoPow 32 31 := by decide
  rw [hmask, BitVec.getLsbD_and, BitVec.getLsbD_twoPow, Bool.and_comm]
  grind

/-- The bits of a word put together from a sign and the magnitude of another. -/
theorem getLsbD_sign_append (n : BitVec 1) (x : Word) {j : Nat} (hj : j < 32) :
    (n ++ x.extractLsb' 0 31 : Word).getLsbD j = if j < 31 then x.getLsbD j else n.getLsbD 0 := by
  rw [BitVec.getLsbD_append, BitVec.getLsbD_extractLsb', Nat.zero_add]
  split
  · next h => rw [decide_eq_true h, Bool.true_and]
  · rw [show j - 31 = 0 by omega]

theorem and_magnitude_eq_append (x : Word) : x &&& 0x7FFFFFFF#32 = 0#1 ++ x.extractLsb' 0 31 := by
  refine BitVec.eq_of_getLsbD_eq fun j hj => ?_
  rw [getLsbD_and_magnitude, getLsbD_sign_append _ _ hj]
  split
  · next h => rw [decide_eq_true h, Bool.true_and]
  · next h => rw [decide_eq_false h, Bool.false_and]; rfl

theorem magnitude_or_sign_eq_append (x y : Word) : (x &&& 0x7FFFFFFF#32) ||| (y &&& 0x80000000#32) = y.extractLsb' 31 1 ++ x.extractLsb' 0 31 := by
  refine BitVec.eq_of_getLsbD_eq fun j hj => ?_
  rw [BitVec.getLsbD_or, getLsbD_and_magnitude, getLsbD_and_sign, getLsbD_sign_append _ _ hj, BitVec.getLsbD_extractLsb']
  split
  · next h => simp [h, Nat.ne_of_lt h]
  · next h => simp [show j = 31 by omega]

/-- The operations of `FMNX` by the sign and the magnitude of their result (R160). -/
theorem fmnxOf_eq (fv : Nat) (x y : Word) : fmnxOf fv x y =
    match fv with
    | 0 => fminmax false x y
    | 1 => fminmax true x y
    | 2 => if isNan32 x then nan32 else x ^^^ 0x80000000#32
    | 3 => if isNan32 x then nan32 else 0#1 ++ x.extractLsb' 0 31
    | _ => if isNan32 x then nan32 else y.extractLsb' 31 1 ++ x.extractLsb' 0 31 := by
  rw [← and_magnitude_eq_append, ← magnitude_or_sign_eq_append]
  split
  case h_5 h0 h1 h2 h3 => simp only [fmnxOf, if_neg h2, if_neg h3]
  all_goals rfl

/-- The combination with the predicate's old bit (R147, R161). -/
theorem andOld_eq (fv : Nat) (old new : Bool) : andOld fv old new = (new && (!fv.testBit 3 || old)) := by
  rw [andOld, bit]
  cases fv.testBit 3
  · exact (Bool.and_true new).symm
  · rfl

theorem bits_zero (x n : Nat) : bits x 0 n = x % 2 ^ n := by rw [bits, Nat.pow_zero, Nat.div_one]

/-- Settles O4: each row is an operation with one result; `FMNX`, `FSETP` and `FCLASS` write their value in other terms than the rules
(`fmnxOf_eq`, `andOld_eq`, `bits_zero`), every other row is by definition the rounded exact value, or the function that the rules name. -/
theorem floatingResults : Obligations.FloatingResults := by
  intro s c i e h he
  unfold floating at he
  split at he <;> cases he
  case h_4 d a b f => exact completes_of_regOp h (issue_clear h) fun _ _ => fmnxOf_eq ..
  case h_5 p a b f => exact completes_of_predOp h (issue_clear h) fun _ _ => andOld_eq ..
  case h_8 d a f =>
    exact completes_of_regOp h (issue_clear h) fun _ _ => congrArg (fun code => BitVec.ofNat 32 (fclassOf (fclassFmt f.toNat) code)) (bits_zero ..)
  all_goals exact completes_of_regOp h (issue_clear h) fun _ _ => rfl
end Sys2Proof.Machine
end

section
/-! PROOF. Values over the strand mask (R171 to R177, O6): sets of strands as words, the strand that a shuffle reads, reductions in ascending order of
strands. -/

namespace Sys2Proof.Machine
open Claims

/-! ## Sets of strands (R29, R174, R175) -/

theorem mem_strands_iff {m : Word} {k : Nat} : k ∈ strands m ↔ inMask m k = true :=
  ⟨fun h => (List.mem_filter.1 h).2, fun h => mem_strands (inMask_lt h) h⟩

theorem inMask_and (x y : Word) (k : Nat) : inMask (x &&& y) k = (inMask x k && inMask y k) := BitVec.getLsbD_and

theorem strands_and (x m : Word) : strands (x &&& m) = (strands m).filter (inMask x) := by
  rw [strands, strands, List.filter_filter]
  exact List.filter_congr fun k _ => inMask_and x m k

/-- The empty mask. -/
theorem eq_zero_iff_inMask {w : Word} : w = 0 ↔ ∀ k, inMask w k = false :=
  ⟨fun h _ => h ▸ BitVec.getLsbD_zero, fun h => BitVec.eq_of_getLsbD_eq fun k _ => (h k).trans BitVec.getLsbD_zero.symm⟩

/-- `.any`: a strand of the mask that x names. -/
theorem and_bne_zero (x m : Word) : (x &&& m != 0) = (strands m).any fun k => inMask x k := by
  rw [Bool.eq_iff_iff, bne_iff_ne, ne_eq, eq_zero_iff_inMask, List.any_eq_true]
  simp [mem_strands_iff, inMask_and, and_comm]

/-- `.all`: no strand of the mask that x does not name. -/
theorem and_not_beq_zero (x m : Word) : (m &&& ~~~x == 0) = (strands m).all fun k => inMask x k := by
  rw [Bool.eq_iff_iff, beq_iff_eq, eq_zero_iff_inMask, List.all_eq_true]
  simp only [mem_strands_iff, inMask_and, Bool.and_eq_false_imp]
  refine forall_congr' fun k => imp_congr_right fun hk => ?_
  simp [inMask, inMask_lt hk]

theorem lowest_mem {m : Word} (h : strands m ≠ []) : lowest m ∈ strands m := by
  cases hs : strands m with
  | nil => exact absurd hs h
  | cons k l => simp [lowest, hs]

/-- `.eq`: every strand has the value of the lowest exactly when every two have one value. -/
theorem all_beq_lowest {m : Word} (f : Nat → Word) :
    ((strands m).all fun k => f k == f (lowest m)) = (strands m).all fun k => (strands m).all fun l => f k == f l := by
  rw [Bool.eq_iff_iff]
  simp only [List.all_eq_true, beq_iff_eq]
  exact ⟨fun h k hk l hl => (h k hk).trans (h l hl).symm, fun h k hk => h k hk _ (lowest_mem (List.ne_nil_of_mem hk))⟩

/-! ## The strand that a shuffle reads (R176) -/

theorem shflFrom_eq (n : Nat) {i : Nat} (hi : i < 32) : ∀ fv : Nat, shflFrom fv i n =
    if 0 ≤ shuffleFrom fv i n ∧ shuffleFrom fv i n < 32 then some (shuffleFrom fv i n).toNat else none
  | 0 => by
    simp only [shflFrom, shuffleFrom]
    rw [if_pos (by omega)]
    rfl
  | 1 => by
    simp only [shflFrom, shuffleFrom]
    by_cases h : n ≤ i
    · rw [if_pos h, if_pos (by omega)]
      exact congrArg some (by omega)
    · rw [if_neg h, if_neg (by omega)]
  | 2 => by
    simp only [shflFrom, shuffleFrom]
    by_cases h : i + n < 32
    · rw [if_pos h, if_pos (by omega)]
      exact congrArg some (by omega)
    · rw [if_neg h, if_neg (by omega)]
  | _ + 3 => by
    have hlt : i ^^^ n % 32 < 32 := Nat.xor_lt_two_pow (n := 5) hi (Nat.mod_lt n (by decide : 0 < 32))
    simp only [shflFrom, shuffleFrom]
    rw [if_pos (by omega)]
    rfl

/-! ## Reductions (R177) -/

theorem foldl_add (t : List Word) (x : Word) : t.foldl (· + ·) x = BitVec.ofNat 32 ((x :: t).map (·.toNat)).sum := by
  induction t generalizing x with
  | nil => simp
  | cons y t ih =>
    rw [List.foldl_cons, ih, ← BitVec.toNat_inj]
    simp [Nat.add_assoc]

theorem getLsbD_foldl_and (t : List Word) (x : Word) (j : Nat) : (t.foldl (· &&& ·) x).getLsbD j = (x :: t).all fun w => w.getLsbD j := by
  induction t generalizing x with
  | nil => simp
  | cons y t ih =>
    rw [List.foldl_cons, ih]
    simp [Bool.and_assoc]

theorem getLsbD_foldl_or (t : List Word) (x : Word) (j : Nat) : (t.foldl (· ||| ·) x).getLsbD j = (x :: t).any fun w => w.getLsbD j := by
  induction t generalizing x with
  | nil => simp
  | cons y t ih =>
    rw [List.foldl_cons, ih]
    simp [Bool.or_assoc]

/-- A bit of an exclusive or is the parity of the words that have it. -/
theorem getLsbD_foldl_xor (t : List Word) (x : Word) (j : Nat) :
    (t.foldl (· ^^^ ·) x).getLsbD j = (((x :: t).filter fun w => w.getLsbD j).length % 2 == 1) := by
  induction t generalizing x with
  | nil => cases h : x.getLsbD j <;> simp [h]
  | cons y t ih =>
    rw [List.foldl_cons, ih]
    cases hx : x.getLsbD j <;> cases hy : y.getLsbD j <;> simp [hx, hy, Nat.add_assoc]

/-! Each comparing step, read as an integer or a natural number, is the minimum or the maximum. -/

theorem toInt_reduxStep_min (x y : Word) : min x.toInt y.toInt = (reduxStep 1 x y).toInt := by
  simp only [reduxStep, reduxStep.imnx2, sgn]
  grind

theorem toInt_reduxStep_max (x y : Word) : max x.toInt y.toInt = (reduxStep 2 x y).toInt := by
  simp only [reduxStep, reduxStep.imnx2, sgn]
  grind

theorem toNat_reduxStep_min (x y : Word) : min x.toNat y.toNat = (reduxStep 3 x y).toNat := by
  simp only [reduxStep, reduxStep.imnx2]
  grind

theorem toNat_reduxStep_max (x y : Word) : max x.toNat y.toNat = (reduxStep 4 x y).toNat := by
  simp only [reduxStep, reduxStep.imnx2]
  grind

theorem reduxOf_nil (fv : Nat) : reduxOf fv [] = 0 := by
  simp only [reduxOf, List.map_nil, ite_self]

/-- An integer reduction is the fold of its step. -/
theorem reduxOf_cons {fv : Nat} (h : fv < 8) (x : Word) (t : List Word) : reduxOf fv (x :: t) = t.foldl (reduxStep fv) x := by
  simp only [reduxOf, if_neg (show fv ≠ 11 by omega), decide_eq_false (show ¬8 ≤ fv by omega), Bool.false_and, Bool.false_eq_true, if_false]

/-- A comparing reduction of words is that of their numbers: `List.foldl_hom` along the reading of a word. -/
theorem reduxOf_eq_reduced : ∀ (fv : Nat) (l : List Word), reduxOf fv l = reduced fv l
  | fv, [] => reduxOf_nil fv
  | 0, x :: t => (reduxOf_cons (by decide) x t).trans (foldl_add t x)
  | 1, x :: t => by rw [reduxOf_cons (by decide), reduced, List.foldl_hom BitVec.toInt toInt_reduxStep_min, BitVec.ofInt_toInt]
  | 2, x :: t => by rw [reduxOf_cons (by decide), reduced, List.foldl_hom BitVec.toInt toInt_reduxStep_max, BitVec.ofInt_toInt]
  | 3, x :: t => by
    rw [reduxOf_cons (by decide), reduced, List.foldl_hom BitVec.toNat toNat_reduxStep_min, BitVec.ofNat_toNat, BitVec.setWidth_eq]
  | 4, x :: t => by
    rw [reduxOf_cons (by decide), reduced, List.foldl_hom BitVec.toNat toNat_reduxStep_max, BitVec.ofNat_toNat, BitVec.setWidth_eq]
  | 5, x :: t => (reduxOf_cons (by decide) x t).trans (eq_maskOf fun j _ => getLsbD_foldl_and t x j)
  | 6, x :: t => (reduxOf_cons (by decide) x t).trans (eq_maskOf fun j _ => getLsbD_foldl_or t x j)
  | 7, x :: t => (reduxOf_cons (by decide) x t).trans (eq_maskOf fun j _ => getLsbD_foldl_xor t x j)
  | _ + 8, _ :: _ => rfl

/-- The sum of a list, also of the empty one: a sum over no strand is 0. -/
theorem reduxOf_zero (l : List Word) : reduxOf 0 l = BitVec.ofNat 32 (l.map (·.toNat)).sum := by
  cases l with
  | nil => rfl
  | cons x t => exact reduxOf_eq_reduced 0 (x :: t)

end Sys2Proof.Machine
end

section
/-! PROOF. Moves, indexed registers, predicates and cross-lane instructions (R129, R169 to R177, O6): what their writes are, then one lemma for
each instruction. -/

namespace Sys2Proof.Machine
open Claims

/-! ## Lists of writes (R58, R169, R170) -/

theorem lastWrite_eq_none {ws : List PendWrite} {r : Reg} (h : ∀ e ∈ ws, e.reg ≠ r) (j : Nat) : lastWrite ws r j = none := by
  induction ws with
  | nil => rfl
  | cons e ws ih =>
    rw [lastWrite_cons, ih fun x hx => h x (List.mem_cons_of_mem e hx), if_neg fun he => h e List.mem_cons_self he.1]
    rfl

theorem lastScalar_eq_none {ws : List PendWrite} {k : Nat} (h : ∀ e ∈ ws, e.reg ≠ .scal k) : lastScalar ws k = none := by
  induction ws with
  | nil => rfl
  | cons e ws ih =>
    rw [lastScalar_cons, ih fun x hx => h x (List.mem_cons_of_mem e hx), if_neg (h e List.mem_cons_self)]
    rfl

theorem lastPred_eq_none {ws : List PendWrite} {k : Nat} (h : ∀ e ∈ ws, e.reg ≠ .pred k) (j : Nat) : lastPred ws k j = none := by
  induction ws with
  | nil => rfl
  | cons e ws ih =>
    rw [lastPred_cons, ih fun x hx => h x (List.mem_cons_of_mem e hx), if_neg fun he => h e List.mem_cons_self he.1]
    rfl

/-- What an `IDX.w` of the strands l writes: strand k its value f k, in the register of its index ix k. -/
def Ctx.indexWrites (c : Ctx) (ix : Nat → Nat) (f : Nat → Word) (l : List Nat) : List PendWrite :=
  l.flatMap fun k => c.vdst (ix k) 3 (maskOfList [k]) (perStrand fun _ => f k)

theorem indexWrites_cons (c : Ctx) {ix : Nat → Nat} {k : Nat} (hk : ix k < 112) (f : Nat → Word) (l : List Nat) :
    c.indexWrites ix f (k :: l) =
      { reg := .vec (c.g.vwb + ix k), mask := maskOfList [k], vals := perStrand fun _ => f k, cls := 3, k := 0 } :: c.indexWrites ix f l := by
  rw [Ctx.indexWrites, List.flatMap_cons, Ctx.vdst, if_pos hk]
  rfl

theorem reg_of_mem_indexWrites {c : Ctx} {ix : Nat → Nat} {f : Nat → Word} {l : List Nat} (hl : ∀ k ∈ l, ix k < 112) {e : PendWrite}
    (he : e ∈ c.indexWrites ix f l) : ∃ n, e.reg = .vec n := by
  obtain ⟨k, hk, he⟩ := List.mem_flatMap.1 he
  rw [Ctx.vdst, if_pos (hl k hk), List.mem_singleton] at he
  exact ⟨c.g.vwb + ix k, by rw [he]⟩

/-- Each strand has a write of its own, so that the order of the strands does not matter. -/
theorem lastWrite_indexWrites {c : Ctx} {ix : Nat → Nat} {f : Nat → Word} {l : List Nat} (hl : ∀ k ∈ l, ix k < 112) (n : Nat) {j : Nat} (hj : j < 32) :
    lastWrite (c.indexWrites ix f l) (.vec n) j = if j ∈ l ∧ n = c.g.vwb + ix j then some (f j) else none := by
  induction l with
  | nil => simp [Ctx.indexWrites, lastWrite]
  | cons k l ih =>
    have hmask : inMask (maskOfList [k]) j = [k].contains j := inMask_maskOf _ hj
    rw [indexWrites_cons c (hl k List.mem_cons_self), lastWrite_cons, ih fun x hx => hl x (List.mem_cons_of_mem k hx), hmask, laneAt_perStrand _ hj]
    simp only [Reg.vec.injEq, List.contains_cons, List.contains_nil, Bool.or_false, beq_iff_eq, List.mem_cons]
    grind

/-! ## States after such writes -/

variable {s : State} {c : Ctx} {e : Effect}

/-- A result for a vector or twin register, whatever the uniform bit. -/
theorem retire_vdst_done (h : Seen c) (i : Instr) (res : Option (List Word)) (d cls : Nat) (f : Nat → Word) :
    Done c (c.retire i res (c.vdst d cls c.g.mask (perStrand f)) (nextPc c.g.pc)) (vectorDst c d f) := by
  obtain ⟨hvec, hscal, htwin, hpred⟩ := dst_writes { c with uni := false } d cls f
  exact (retire_done h i res _ _ false).congr hvec hscal htwin (fun k j _ => hpred k j) rfl

/-- A result for one scalar of the window. -/
theorem retire_sdst_done (h : Seen c) (i : Instr) (res : Option (List Word)) (k cls : Nat) (w : Word) :
    Done c (c.retire i res (c.sdst k cls w) (nextPc c.g.pc)) (Effect.scals c [(k, w)] (nextPc c.g.pc)) := by
  have hother {r : Reg} (hr : ∀ n, r ≠ .scal n) (e : PendWrite) (he : e ∈ c.sdst k cls w) : e.reg ≠ r := List.mem_singleton.1 he ▸ (hr _).symm
  refine (retire_done h i res _ _ false).congr (fun n j _ => lastWrite_eq_none (r := .vec n) (hother fun _ => Reg.noConfusion) j) (fun n => ?_)
    (fun n j _ => lastWrite_eq_none (r := .twin n) (hother fun _ => Reg.noConfusion) j)
    (fun n j _ => lastPred_eq_none (k := n) (hother fun _ => Reg.noConfusion) j) rfl
  by_cases hn : n = c.g.swb + k
  · simp [Effect.ofWrites, Effect.scals, Ctx.sdst, lastScalar, hn, laneAt]
  · simp [Effect.ofWrites, Effect.scals, Ctx.sdst, lastScalar, hn, Ne.symm hn]

/-- A result that is discarded. -/
theorem retire_nil_done (h : Seen c) (i : Instr) (res : Option (List Word)) :
    Done c (c.retire i res [] (nextPc c.g.pc)) (Effect.only (nextPc c.g.pc)) :=
  (retire_done h i res [] _ false).congr (fun _ _ _ => rfl) (fun _ => rfl) (fun _ _ _ => rfl) (fun _ _ _ => rfl) rfl

/-- An `IDX.w` of strands whose indices lie in the window: in uniform form one scalar, else a vector register for each strand (R170). -/
theorem retire_indexed_done (h : Seen c) (i : Instr) {ix : Nat → Nat} {f : Nat → Word} (hix : ∀ k ∈ c.active, ix k < 112) :
    Done c (c.retire i none (if c.uni then c.sdst (ix c.low) 3 (f c.low) else c.indexWrites ix f c.active) (nextPc c.g.pc))
      { Effect.only (nextPc c.g.pc) with
        vec := fun k j => if c.uni = false ∧ inMask c.g.mask j = true ∧ k = c.g.vwb + ix j then some (f j) else none
        scal := fun k => if c.uni = true ∧ k = c.g.swb + ix c.low then some (f c.low) else none } := by
  cases hu : c.uni with
  | true =>
    refine (retire_sdst_done h i none (ix c.low) 3 (f c.low)).congr (fun _ _ _ => rfl) (fun k => ?_) (fun _ _ _ => rfl) (fun _ _ _ => rfl) rfl
    by_cases hk : k = c.g.swb + ix c.low <;> simp [Effect.scals, hk]
  | false =>
    rw [Ctx.active, hu] at hix ⊢
    have hother {r : Reg} (hr : ∀ n, r ≠ .vec n) (e : PendWrite) (he : e ∈ c.indexWrites ix f (strands c.g.mask)) : e.reg ≠ r := by
      obtain ⟨n, hn⟩ := reg_of_mem_indexWrites hix he
      exact hn ▸ (hr n).symm
    refine (retire_done h i none _ _ false).congr (fun n j hj => ?_) (fun n => ?_) (fun n j _ => ?_) (fun n j _ => ?_) rfl
    · refine (lastWrite_indexWrites hix n hj).trans ?_
      simp [mem_strands_iff]
    · exact (lastScalar_eq_none (k := n) (hother fun _ => Reg.noConfusion)).trans (by simp)
    · exact lastWrite_eq_none (r := .twin n) (hother fun _ => Reg.noConfusion) j
    · exact lastPred_eq_none (k := n) (hother fun _ => Reg.noConfusion) j

/-! ## MOV, PMOV and VOTE by their forms (R169, R173, R175) -/

theorem completes_mov {d a : BitVec 7} {f : BitVec 4} (h : Issues s (.mov d a f) c) (he : lanes c (.mov d a f) = some e) :
    Completes s (.mov d a f) c e := by
  have hseen := ctx?_seen h.1
  have hexec : exec (.mov d a f) s = _ := issue_clear h
  unfold lanes at he
  dsimp only at he hexec
  split at he <;> cases he
  case h_1 hf =>
    rw [if_pos hf] at hexec
    exact completes_of_regOp h hexec fun _ _ => rfl
  case h_2 hf =>
    rw [if_neg (by rw [hf]; decide), if_pos hf] at hexec
    exact ⟨_, hexec, retire_vdst_done hseen ..⟩
  case h_3 h0 h1 =>
    rw [if_neg h0, if_neg h1] at hexec
    refine ⟨_, hexec, ?_⟩
    split
    · exact retire_nil_done hseen ..
    · exact retire_sdst_done hseen ..

theorem completes_pmov {d a : BitVec 7} {f : BitVec 4} (h : Issues s (.pmov d a f) c) (he : lanes c (.pmov d a f) = some e) :
    Completes s (.pmov d a f) c e := by
  have hexec : exec (.pmov d a f) s = _ := issue_clear h
  unfold lanes at he
  dsimp only at he hexec
  split at he <;> cases he
  case h_1 hf =>
    rw [hf] at hexec
    exact completes_of_regOp h hexec fun _ _ => rfl
  case h_2 hf =>
    rw [hf] at hexec
    exact completes_of_predOp h hexec fun _ _ => by rw [Bool.eq_iff_iff, bne_iff_ne, decide_eq_true_iff]
  case h_3 h0 h1 =>
    simp only at hexec
    exact completes_of_predOp h hexec fun _ _ => rfl

theorem completes_vote {d a : BitVec 7} {f : BitVec 4} (h : Issues s (.vote d a f) c) (he : lanes c (.vote d a f) = some e) :
    Completes s (.vote d a f) c e := by
  have hexec : exec (.vote d a f) s = _ := issue_clear h
  unfold lanes at he
  dsimp only at he hexec
  split at he <;> cases he
  case h_1 hf =>
    rw [hf] at hexec
    exact completes_of_predOp h hexec fun _ _ => and_bne_zero ..
  case h_2 hf =>
    rw [hf] at hexec
    exact completes_of_predOp h hexec fun _ _ => and_not_beq_zero ..
  case h_3 hf =>
    rw [hf] at hexec
    exact completes_of_predOp h hexec fun _ _ => all_beq_lowest ..
  case h_4 hf =>
    rw [hf] at hexec
    exact completes_of_regOp h hexec fun _ _ => rfl
  case h_5 h0 h1 h2 h3 =>
    simp only at hexec
    exact completes_of_regOp h hexec fun _ _ => by rw [population, strands_and]

/-! ## SHFL and REDUX (R176, R177) -/

theorem completes_shfl {d a b : BitVec 7} {f : BitVec 4} (h : Issues s (.shfl d a b f) c) (he : lanes c (.shfl d a b f) = some e) :
    Completes s (.shfl d a b f) c e := by
  cases he
  refine completes_of_regOp h (issue_clear h) fun j hj => ?_
  rw [shflFrom_eq _ hj]
  dsimp only
  by_cases hk : 0 ≤ shuffleFrom f.toNat j (c.src b.toNat j).toNat ∧ shuffleFrom f.toNat j (c.src b.toNat j).toNat < 32
  · simp [hk]
  · rw [if_neg hk, if_neg fun h => hk ⟨h.1, h.2.1⟩]

theorem completes_redux {d a : BitVec 7} {f : BitVec 4} (h : Issues s (.redux d a f) c) (he : lanes c (.redux d a f) = some e) :
    Completes s (.redux d a f) c e := by
  have hexec : exec (.redux d a f) s = _ := issue_clear h
  unfold lanes at he
  dsimp only at he hexec
  split at he <;> cases he
  case isTrue hf =>
    rw [if_pos hf] at hexec
    exact completes_of_regOp h hexec fun j _ => (reduxOf_zero _).trans (by rw [List.map_map]; rfl)
  case isFalse hf =>
    rw [if_neg hf] at hexec
    exact completes_of_regOp h hexec fun j _ => reduxOf_eq_reduced ..

/-! ## IDX (R170) -/

theorem legal_of_clear {i : Instr} {ops : List Opnd} (h : Clear c i ops) : i.legal c.uni = true := by
  cases hl : i.legal c.uni with
  | true => rfl
  | false => exact absurd ((checks_of_illegal hl ops).symm.trans h.operands) (Option.some_ne_none _)

/-- An `IDX` that issues has one of its three forms. -/
theorem idx_form_eq_two {d a b : BitVec 7} {f : BitVec 4} {ops : List Opnd} (h : Clear c (.idx d a b f) ops) (h0 : f.toNat ≠ 0) (h1 : f.toNat ≠ 1) :
    f.toNat = 2 := by
  have hl := legal_of_clear h
  simp only [Instr.legal, Instr.wf, if_neg h0, if_neg h1, Bool.and_eq_true, decide_eq_true_iff] at hl
  grind

theorem idxOk_iff (c : Ctx) (k : Nat) : c.idxOk k = true ↔ k < 112 ∧ (if c.uni then c.g.swb + k < c.sl.salloc else c.g.vwb + k < c.sl.valloc) := by
  rw [Ctx.idxOk, Bool.and_eq_true, decide_eq_true_iff]
  cases c.uni <;> simp

theorem find?_idxOk_eq_none {d a b : BitVec 7} {f : BitVec 4} (hf : f.toNat ≤ 1) (h : indicesOk c (.idx d a b f)) :
    (c.active.find? fun k => !c.idxOk (c.src a.toNat k).toNat) = none := by
  refine List.find?_eq_none.2 fun k hk => ?_
  rw [(idxOk_iff c _).2 (h hf k hk)]
  decide

theorem completes_idx {d a b : BitVec 7} {f : BitVec 4} (h : Issues s (.idx d a b f) c) (hin : indicesOk c (.idx d a b f))
    (he : lanes c (.idx d a b f) = some e) : Completes s (.idx d a b f) c e := by
  have hexec : exec (.idx d a b f) s = _ := issue_clear h
  unfold lanes at he
  dsimp only at he hexec
  split at he <;> cases he
  case h_1 hf =>
    rw [if_neg (by omega), find?_idxOk_eq_none (by omega) hin] at hexec
    dsimp only at hexec
    rw [if_pos hf] at hexec
    exact completes_of_regOp h hexec fun _ _ => rfl
  case h_2 hf =>
    rw [if_neg (by omega), find?_idxOk_eq_none (by omega) hin] at hexec
    dsimp only at hexec
    rw [if_neg (show ¬f.toNat = 0 by omega)] at hexec
    exact ⟨_, hexec, retire_indexed_done (ctx?_seen h.1) _ fun k hk => (hin (by omega) k hk).1⟩
  case h_3 h0 h1 =>
    rw [if_pos (idx_form_eq_two h.2 h0 h1)] at hexec
    exact completes_of_regOp h hexec fun _ _ => rfl

/-! ## The three claims -/

theorem laneResults : LaneResults := by
  intro s c i e h hin he
  cases i
  case mov d a f => exact completes_mov h he
  case idx d a b f => exact completes_idx h hin he
  case plop d a b f =>
    cases he
    exact completes_of_predOp h (issue_clear h) fun _ _ => rfl
  case vote d a f => exact completes_vote h he
  case shfl d a b f => exact completes_shfl h he
  case redux d a f => exact completes_redux h he
  case pmov d a f => exact completes_pmov h he
  case pset p f =>
    cases he
    exact completes_of_predOp h (issue_clear h) fun j _ => by
      rw [Bool.eq_iff_iff]
      simp [← BitVec.toNat_inj]
  all_goals cases he

theorem indexOutsideFaults : IndexOutsideFaults := by
  intro s c d a b f j h hf hj
  refine (issue_clear h).trans ?_
  dsimp only
  rw [if_neg (by omega), hj]

theorem nopAndPadDoNothing : NopAndPadDoNothing := fun _ _ =>
  ⟨fun h => ⟨_, issue_clear h, pass_done (ctx?_seen h.1) _⟩, fun _ _ h => ⟨_, issue_clear h, pass_done (ctx?_seen h.1) _⟩⟩

/-- Settles O6: `laneResults` instruction by instruction, each form an operation with one result or the writes of `IDX.w`; the fault of an index
outside, and the two instructions without an effect. -/
theorem laneAndIndexResults : Obligations.LaneAndIndexResults := ⟨laneResults, indexOutsideFaults, nopAndPadDoNothing⟩
end Sys2Proof.Machine
end
